-- ==== Sys2Proof/Syntax.lean ====
section
/-! DEFINITION. The instructions of the Salair Raend as syntax: code tables (05 R66 and the instruction
chapters), the header fields every word carries (05 R63), and one constructor per row of the opcode table.
The device steps of the table are constructors too; their arguments say which object of the state the step moves. -/

namespace Sys2Proof

/-- Container bits [31:30] and guard [29:27] of a word (05 R63, R67, R70). -/
structure Hdr where
  k : BitVec 2
  g : BitVec 3
deriving DecidableEq, Repr

/-- The same for an X-class instruction with an XF extension word, whose own bits [31:30] are `kx` (05 R71). -/
structure XHdr where
  k : BitVec 2
  g : BitVec 3
  kx : BitVec 2
deriving DecidableEq, Repr

/-- Integer conditions (05 R66). -/
inductive IntCond where | eq | ne | lt | le | ltu | leu
deriving DecidableEq, Repr

/-- Float conditions (05 R66). -/
inductive FltCond where | eq | ne | lt | le | num | nan
deriving DecidableEq, Repr

/-- Float types of arithmetic (05 R66). -/
inductive FTy where | f32 | f64 | f16x2 | bf16x2
deriving DecidableEq, Repr

/-- Load sizes (05 R66). -/
inductive LdSize where | b8 | i8 | b16 | i16 | b32 | b64 | b128
deriving DecidableEq, Repr

/-- Store sizes (05 R66). -/
inductive StSize where | b8 | b16 | b32 | b64 | b128
deriving DecidableEq, Repr

/-- Sizes of non-temporal accesses (15 R188). -/
inductive NtSize where | b32 | b64 | b128
deriving DecidableEq, Repr

/-- Access orders (05 R66). -/
inductive Order where | rlx | acq | rel | ar
deriving DecidableEq, Repr

/-- Scopes (05 R66). -/
inductive Scope where | grp | team | clu | dev | sys
deriving DecidableEq, Repr

/-- Rounding codes (05 R66). -/
inductive Rnd where | dyn | rn | rz | ru | rd | rs
deriving DecidableEq, Repr

/-- Matrix types (05 R66). -/
inductive MTy where | e4m3 | e5m2 | fp4 | bf16 | f16 | i8
deriving DecidableEq, Repr

/-- AMO operations (05 R66). -/
inductive AmoOp where | add | sub | min | max | minu | maxu | and | or | xor | swap | cas | fadd
deriving DecidableEq, Repr

/-- Size codes of AMO, LR and SC (15 R190). -/
inductive AmoSize where | b32 | b64
deriving DecidableEq, Repr

/-- Parts AR.RD selects (09 R125). -/
inductive ArPart where | ptr | base | limit | attr
deriving DecidableEq, Repr

/-- Levels of PRF (15 R188). -/
inductive PrfLevel where | l1 | l2
deriving DecidableEq, Repr

/-- Integer types of CVT (11 R141). -/
inductive ITy where | s32 | u32 | s64 | u64
deriving DecidableEq, Repr

/-- Float types of CVT (11 R141). -/
inductive FKind where | f32 | f64 | f16 | bf16
deriving DecidableEq, Repr

/-- CVT.I2F codes (11 R141). -/
structure CvtIF where
  src : ITy
  dst : FKind
deriving DecidableEq, Repr

/-- CVT.F2I codes (11 R141). -/
structure CvtFI where
  src : FKind
  dst : ITy
deriving DecidableEq, Repr

/-- CVT.F2F codes (11 R141); equal types are not instructions. -/
structure CvtFF where
  src : FKind
  dst : FKind
deriving DecidableEq, Repr

/-- FP8 formats of PACK8 and UNPK8 (11 R143). -/
inductive Fp8 where | e4m3 | e5m2
deriving DecidableEq, Repr

/-- Field B of PACK8 (11 R143). -/
structure PackCode where
  rnd : Rnd
  fmt : Fp8
deriving DecidableEq, Repr

/-- Field B of PACK4 (11 R143). -/
structure Pack4Code where
  rnd : Rnd
deriving DecidableEq, Repr

/-- Element formats of SCALE.BLK (11 R144). -/
inductive BlkFmt where | fp4 | e4m3 | e5m2
deriving DecidableEq, Repr

/-- Field B of SCALE.BLK (11 R144). -/
structure BlkCode where
  rnd : Rnd
  sc : Bool
  fmt : BlkFmt
deriving DecidableEq, Repr

/-- Types of RED and SCAN with op add, min or max (11 R150). -/
inductive RedTy where | s32 | u32 | f32 | f16x2 | bf16x2
deriving DecidableEq, Repr

/-- The reduction code without .excl (11 R150). -/
inductive RedFn where
  | add (t : RedTy)
  | min (t : RedTy)
  | max (t : RedTy)
  | and
  | or
  | xor
deriving DecidableEq, Repr

/-- Field B of SCAN (11 R150). -/
structure ScanCode where
  excl : Bool
  fn : RedFn
deriving DecidableEq, Repr

/-- The state registers of SRD and SWR (09 R130). -/
inductive SReg where
  | lane | group | team | width | core | pair | die | lt | dtime | rmode | tbase | tdepth | deadline | budget
deriving DecidableEq, Repr

/-- Types of XRED (15 R204). -/
inductive XredTy where | s32 | s64 | f32 | f16 | bf16
deriving DecidableEq, Repr

/-- Sparsity of MMAS (19 R253). -/
inductive Sparsity where | x2 | x4
deriving DecidableEq, Repr

/-- Formats of TLD (19 R257). -/
inductive TldFmt where | f32 | f16 | bf16
deriving DecidableEq, Repr

/-- Formats of TST (19 R257). -/
inductive TstFmt where | f32 | f16 | bf16 | e4m3 | e5m2 | s8
deriving DecidableEq, Repr

/-- Scale modes of TST (19 R257). -/
inductive TstScale where | none | srow | scol
deriving DecidableEq, Repr

/-- Modes of TSCALE (19 R261). -/
inductive TScaleMode where | row | col
deriving DecidableEq, Repr

/-- What a scrub finds on a line (31 R365). -/
inductive ScrubErr where | clean | corrected | uncorrectable
deriving DecidableEq, Repr

/-- Operations of remote requests (25 R327, R328). -/
inductive RemoteOp where
  | load
  | store (data : BitVec 128)
  | amo (op : AmoOp) (opnd cmp : BitVec 64)
  | red (ty : XredTy) (opnd : BitVec 64)
deriving DecidableEq, Repr

/-- A request another device sends to a window address of this one (25 R328, R329). -/
structure RemoteReq where
  src : BitVec 20
  incn : BitVec 32
  win : BitVec 43
  bytes : Nat
  lt : BitVec 48
  op : RemoteOp
deriving DecidableEq, Repr

/-- The answer to a request between devices (25 R328 to R330): a value and a stamp, REMOTE, or an uncorrectable error that it has met in
the target's memory, with its INFO (17 R211; assumption 87). -/
inductive RemoteReply where
  | ok (val : BitVec 128) (stamp : BitVec 48)
  | failed
  | ecc (info : Fin 3)
deriving DecidableEq, Repr

/-- What the board and the flash give a device reset (31 R364, R371, R372): the incarnation number and identity,
the two firmware images, where root firmware places the service image, the bytes and registers root firmware
writes while it brings the device up, which host ports train as CXL, and a training step that fails, if one does
(step 3: code 5 or 6). -/
structure BootInput where
  incn : BitVec 32
  devid : BitVec 20
  rootImg : List (BitVec 8)
  svcImg : List (BitVec 8)
  svcBase : BitVec 64
  rootBytes : List (Nat × BitVec 8)
  rootRegs : List (Nat × BitVec 64)
  cxl0 : Bool
  cxl1 : Bool
  failCode : BitVec 8
deriving DecidableEq, Repr

/-- One constructor per row of spec/opcode_table.json. The first argument of a program instruction is its header. -/
inductive Instr where
  | bra (h : Hdr) (o : BitVec 18)
  | bru (h : Hdr) (o : BitVec 18)
  | call (h : Hdr) (o : BitVec 18)
  | brx (h : Hdr) (a : BitVec 6)
  | callx (h : Hdr) (a : BitVec 6)
  | jtb (h : Hdr) (a : BitVec 6) (b : BitVec 4)
  | ret (h : Hdr)
  | exit (h : Hdr)
  | yield (h : Hdr)
  | nop (h : Hdr)
  | meet (h : Hdr) (o : BitVec 18)
  | meetX (h : Hdr) (a : BitVec 6)
  | meetR (h : Hdr)
  | add (h : Hdr) (sat : Bool) (w64 : Bool) (d : BitVec 6) (a : BitVec 6) (b : BitVec 6)
  | addImm (h : Hdr) (w64 : Bool) (d : BitVec 6) (a : BitVec 6) (imm : BitVec 6)
  | movi (h : Hdr) (d : BitVec 6) (imm : BitVec 12)
  | sel (h : Hdr) (d : BitVec 6) (a : BitVec 6) (b : BitVec 6)
  | sub (h : Hdr) (sat : Bool) (w64 : Bool) (d : BitVec 6) (a : BitVec 6) (b : BitVec 6)
  | mul (h : Hdr) (sat : Bool) (w64 : Bool) (d : BitVec 6) (a : BitVec 6) (b : BitVec 6)
  | mad (h : Hdr) (sat : Bool) (w64 : Bool) (d : BitVec 6) (a : BitVec 6) (b : BitVec 6)
  | mulh (h : Hdr) (uns : Bool) (w64 : Bool) (d : BitVec 6) (a : BitVec 6) (b : BitVec 6)
  | idiv (h : Hdr) (uns : Bool) (w64 : Bool) (d : BitVec 6) (a : BitVec 6) (b : BitVec 6)
  | irem (h : Hdr) (uns : Bool) (w64 : Bool) (d : BitVec 6) (a : BitVec 6) (b : BitVec 6)
  | min (h : Hdr) (uns : Bool) (w64 : Bool) (d : BitVec 6) (a : BitVec 6) (b : BitVec 6)
  | max (h : Hdr) (uns : Bool) (w64 : Bool) (d : BitVec 6) (a : BitVec 6) (b : BitVec 6)
  | and (h : Hdr) (d : BitVec 6) (a : BitVec 6) (b : BitVec 6)
  | or (h : Hdr) (d : BitVec 6) (a : BitVec 6) (b : BitVec 6)
  | xor (h : Hdr) (d : BitVec 6) (a : BitVec 6) (b : BitVec 6)
  | andn (h : Hdr) (d : BitVec 6) (a : BitVec 6) (b : BitVec 6)
  | bfx (h : Hdr) (d : BitVec 6) (a : BitVec 6) (b : BitVec 6)
  | bfxU (h : Hdr) (d : BitVec 6) (a : BitVec 6) (b : BitVec 6)
  | bfi (h : Hdr) (d : BitVec 6) (a : BitVec 6) (b : BitVec 6)
  | mov (h : Hdr) (d : BitVec 6) (a : BitVec 6)
  | popc (h : Hdr) (d : BitVec 6) (a : BitVec 6)
  | clz (h : Hdr) (d : BitVec 6) (a : BitVec 6)
  | ctz (h : Hdr) (d : BitVec 6) (a : BitVec 6)
  | brev (h : Hdr) (d : BitVec 6) (a : BitVec 6)
  | abs (h : Hdr) (d : BitVec 6) (a : BitVec 6)
  | absSat (h : Hdr) (d : BitVec 6) (a : BitVec 6)
  | mov64 (h : Hdr) (d : BitVec 6) (a : BitVec 6)
  | popc64 (h : Hdr) (d : BitVec 6) (a : BitVec 6)
  | clz64 (h : Hdr) (d : BitVec 6) (a : BitVec 6)
  | ctz64 (h : Hdr) (d : BitVec 6) (a : BitVec 6)
  | brev64 (h : Hdr) (d : BitVec 6) (a : BitVec 6)
  | abs64 (h : Hdr) (d : BitVec 6) (a : BitVec 6)
  | absSat64 (h : Hdr) (d : BitVec 6) (a : BitVec 6)
  | shl (h : Hdr) (w64 : Bool) (d : BitVec 6) (a : BitVec 6) (b : BitVec 6)
  | shr (h : Hdr) (w64 : Bool) (d : BitVec 6) (a : BitVec 6) (b : BitVec 6)
  | sar (h : Hdr) (w64 : Bool) (d : BitVec 6) (a : BitVec 6) (b : BitVec 6)
  | rol (h : Hdr) (d : BitVec 6) (a : BitVec 6) (b : BitVec 6)
  | shlImm (h : Hdr) (w64 : Bool) (d : BitVec 6) (a : BitVec 6) (amt : BitVec 6)
  | shrImm (h : Hdr) (w64 : Bool) (d : BitVec 6) (a : BitVec 6) (amt : BitVec 6)
  | sarImm (h : Hdr) (w64 : Bool) (d : BitVec 6) (a : BitVec 6) (amt : BitVec 6)
  | rolImm (h : Hdr) (w64 : Bool) (d : BitVec 6) (a : BitVec 6) (amt : BitVec 6)
  | sadd (h : Hdr) (w64 : Bool) (d : BitVec 6) (a : BitVec 6) (b : BitVec 6)
  | ssub (h : Hdr) (w64 : Bool) (d : BitVec 6) (a : BitVec 6) (b : BitVec 6)
  | smul (h : Hdr) (w64 : Bool) (d : BitVec 6) (a : BitVec 6) (b : BitVec 6)
  | sand (h : Hdr) (w64 : Bool) (d : BitVec 6) (a : BitVec 6) (b : BitVec 6)
  | sor (h : Hdr) (w64 : Bool) (d : BitVec 6) (a : BitVec 6) (b : BitVec 6)
  | sxor (h : Hdr) (w64 : Bool) (d : BitVec 6) (a : BitVec 6) (b : BitVec 6)
  | sshl (h : Hdr) (w64 : Bool) (d : BitVec 6) (a : BitVec 6) (b : BitVec 6)
  | sshr (h : Hdr) (w64 : Bool) (d : BitVec 6) (a : BitVec 6) (b : BitVec 6)
  | smov (h : Hdr) (w64 : Bool) (d : BitVec 6) (a : BitVec 6)
  | smovi (h : Hdr) (d : BitVec 6) (imm : BitVec 12)
  | saddImm (h : Hdr) (d : BitVec 6) (a : BitVec 6) (imm : BitVec 6)
  | rdlane (h : Hdr) (d : BitVec 6) (a : BitVec 6) (b : BitVec 6)
  | rdlaneImm (h : Hdr) (d : BitVec 6) (a : BitVec 6) (lane : BitVec 6)
  | ssetp (h : Hdr) (cc : IntCond) (d : BitVec 3) (a : BitVec 6) (b : BitVec 6)
  | arSetGlobal (h : Hdr) (d : BitVec 4) (a : BitVec 6) (b : BitVec 6)
  | arSetVault (h : Hdr) (d : BitVec 4) (a : BitVec 6) (b : BitVec 6)
  | arSetSystem (h : Hdr) (d : BitVec 4) (a : BitVec 6) (b : BitVec 6)
  | arPtr (h : Hdr) (d : BitVec 4) (a : BitVec 6)
  | arAdv (h : Hdr) (d : BitVec 4) (a : BitVec 6)
  | arAdvImm (h : Hdr) (d : BitVec 4) (imm : BitVec 6)
  | arRd (h : Hdr) (d : BitVec 6) (a : BitVec 4) (part : ArPart)
  | arNarrow (h : Hdr) (d : BitVec 4) (a : BitVec 6) (b : BitVec 6)
  | arPerm (h : Hdr) (d : BitVec 4) (msk : BitVec 4)
  | ixSet (h : Hdr) (d : BitVec 2) (base : BitVec 6) (cntM1 : BitVec 6)
  | ixAdv (h : Hdr) (d : BitVec 2) (imm : BitVec 6)
  | movxRead (h : Hdr) (d : BitVec 6) (a : BitVec 2) (elt : BitVec 6)
  | movxWrite (h : Hdr) (d : BitVec 2) (a : BitVec 6) (elt : BitVec 6)
  | isetp (h : Hdr) (w64 : Bool) (cc : IntCond) (d : BitVec 3) (a : BitVec 6) (b : BitVec 6)
  | pand (h : Hdr) (d : BitVec 3) (a : BitVec 3) (b : BitVec 3)
  | por (h : Hdr) (d : BitVec 3) (a : BitVec 3) (b : BitVec 3)
  | pxor (h : Hdr) (d : BitVec 3) (a : BitVec 3) (b : BitVec 3)
  | selp (h : Hdr) (d : BitVec 6) (a : BitVec 6) (b : BitVec 3)
  | fadd (h : Hdr) (ty : FTy) (d : BitVec 6) (a : BitVec 6) (b : BitVec 6)
  | fsub (h : Hdr) (ty : FTy) (d : BitVec 6) (a : BitVec 6) (b : BitVec 6)
  | fmul (h : Hdr) (ty : FTy) (d : BitVec 6) (a : BitVec 6) (b : BitVec 6)
  | fmac (h : Hdr) (ty : FTy) (d : BitVec 6) (a : BitVec 6) (b : BitVec 6)
  | fmin (h : Hdr) (ty : FTy) (d : BitVec 6) (a : BitVec 6) (b : BitVec 6)
  | fmax (h : Hdr) (ty : FTy) (d : BitVec 6) (a : BitVec 6) (b : BitVec 6)
  | fsetp (h : Hdr) (cc : FltCond) (d : BitVec 3) (a : BitVec 6) (b : BitVec 6)
  | fclass (h : Hdr) (w64 : Bool) (d : BitVec 6) (a : BitVec 6)
  | fsetpF64 (h : Hdr) (cc : FltCond) (d : BitVec 3) (a : BitVec 6) (b : BitVec 6)
  | fdiv (h : Hdr) (w64 : Bool) (d : BitVec 6) (a : BitVec 6) (b : BitVec 6)
  | fsqrt (h : Hdr) (ty : FTy) (d : BitVec 6) (a : BitVec 6)
  | frcp (h : Hdr) (ty : FTy) (d : BitVec 6) (a : BitVec 6)
  | frsq (h : Hdr) (ty : FTy) (d : BitVec 6) (a : BitVec 6)
  | fexp2 (h : Hdr) (ty : FTy) (d : BitVec 6) (a : BitVec 6)
  | flog2 (h : Hdr) (ty : FTy) (d : BitVec 6) (a : BitVec 6)
  | ftanh (h : Hdr) (ty : FTy) (d : BitVec 6) (a : BitVec 6)
  | fsin (h : Hdr) (ty : FTy) (d : BitVec 6) (a : BitVec 6)
  | fcos (h : Hdr) (ty : FTy) (d : BitVec 6) (a : BitVec 6)
  | fsigm (h : Hdr) (ty : FTy) (d : BitVec 6) (a : BitVec 6)
  | frndRn (h : Hdr) (ty : FTy) (d : BitVec 6) (a : BitVec 6)
  | frndRz (h : Hdr) (ty : FTy) (d : BitVec 6) (a : BitVec 6)
  | frndRu (h : Hdr) (ty : FTy) (d : BitVec 6) (a : BitVec 6)
  | frndRd (h : Hdr) (ty : FTy) (d : BitVec 6) (a : BitVec 6)
  | fscale (h : Hdr) (ty : FTy) (d : BitVec 6) (a : BitVec 6) (b : BitVec 6)
  | cvtI2F (h : Hdr) (rnd : Rnd) (d : BitVec 6) (a : BitVec 6) (t : CvtIF)
  | cvtF2I (h : Hdr) (rnd : Rnd) (d : BitVec 6) (a : BitVec 6) (t : CvtFI)
  | cvtF2F (h : Hdr) (rnd : Rnd) (d : BitVec 6) (a : BitVec 6) (t : CvtFF)
  | pack8 (h : Hdr) (d : BitVec 6) (a : BitVec 6) (c : PackCode)
  | unpk8 (h : Hdr) (d : BitVec 6) (a : BitVec 6) (fmt : Fp8)
  | pack4 (h : Hdr) (d : BitVec 6) (a : BitVec 6) (c : Pack4Code)
  | unpk4 (h : Hdr) (d : BitVec 6) (a : BitVec 6)
  | scaleBlk (h : Hdr) (d : BitVec 6) (a : BitVec 6) (c : BlkCode)
  | rmix (h : Hdr) (d : BitVec 6) (a : BitVec 6) (b : BitVec 6)
  | shflIdx (h : Hdr) (d : BitVec 6) (a : BitVec 6) (b : BitVec 6)
  | shflUp (h : Hdr) (d : BitVec 6) (a : BitVec 6) (b : BitVec 6)
  | shflDown (h : Hdr) (d : BitVec 6) (a : BitVec 6) (b : BitVec 6)
  | shflXor (h : Hdr) (d : BitVec 6) (a : BitVec 6) (b : BitVec 6)
  | shflIdxImm (h : Hdr) (d : BitVec 6) (a : BitVec 6) (imm : BitVec 6)
  | shflUpImm (h : Hdr) (d : BitVec 6) (a : BitVec 6) (imm : BitVec 6)
  | shflDownImm (h : Hdr) (d : BitVec 6) (a : BitVec 6) (imm : BitVec 6)
  | shflXorImm (h : Hdr) (d : BitVec 6) (a : BitVec 6) (imm : BitVec 6)
  | voteAll (h : Hdr) (d : BitVec 3) (a : BitVec 3)
  | voteAny (h : Hdr) (d : BitVec 3) (a : BitVec 3)
  | voteBal (h : Hdr) (d : BitVec 6) (a : BitVec 3)
  | matchLanes (h : Hdr) (d : BitVec 6) (a : BitVec 6)
  | red (h : Hdr) (d : BitVec 6) (a : BitVec 6) (fn : RedFn)
  | scan (h : Hdr) (d : BitVec 6) (a : BitVec 6) (c : ScanCode)
  | elect (h : Hdr) (d : BitVec 3)
  | ldReg (h : Hdr) (sz : LdSize) (d : BitVec 6) (a : BitVec 4) (b : BitVec 6)
  | ldImm (h : Hdr) (sz : LdSize) (d : BitVec 6) (a : BitVec 4) (imm : BitVec 6)
  | stReg (h : Hdr) (sz : StSize) (d : BitVec 6) (a : BitVec 4) (b : BitVec 6)
  | stImm (h : Hdr) (sz : StSize) (d : BitVec 6) (a : BitVec 4) (imm : BitVec 6)
  | ldNt (h : Hdr) (sz : NtSize) (d : BitVec 6) (a : BitVec 4) (b : BitVec 6)
  | stNt (h : Hdr) (sz : NtSize) (d : BitVec 6) (a : BitVec 4) (b : BitVec 6)
  | prfReg (h : Hdr) (lvl : PrfLevel) (a : BitVec 4) (b : BitVec 6)
  | prfImm (h : Hdr) (lvl : PrfLevel) (a : BitVec 4) (imm : BitVec 6)
  | ldsImm (h : Hdr) (w64 : Bool) (d : BitVec 6) (a : BitVec 4) (imm : BitVec 6)
  | ldsReg (h : Hdr) (w64 : Bool) (d : BitVec 6) (a : BitVec 4) (b : BitVec 6)
  | stsImm (h : Hdr) (w64 : Bool) (d : BitVec 6) (a : BitVec 4) (imm : BitVec 6)
  | stsReg (h : Hdr) (w64 : Bool) (d : BitVec 6) (a : BitVec 4) (b : BitVec 6)
  | fence (h : Hdr) (sc : Scope) (pred : BitVec 6) (succ : BitVec 6)
  | barInit (h : Hdr) (a : BitVec 4) (b : BitVec 6)
  | barExp (h : Hdr) (d : BitVec 6) (a : BitVec 4) (b : BitVec 6)
  | barArr (h : Hdr) (a : BitVec 4)
  | barWait (h : Hdr) (d : BitVec 6) (a : BitVec 4) (b : BitVec 3)
  | barTest (h : Hdr) (d : BitVec 6) (a : BitVec 4) (b : BitVec 3)
  | barInv (h : Hdr) (a : BitVec 4)
  | tbar (h : Hdr) (n : BitVec 4)
  | spawn (h : Hdr) (d : BitVec 3) (a : BitVec 6) (b : BitVec 6)
  | rodCfg (h : Hdr) (a : BitVec 6) (b : BitVec 4)
  | rodStrike (h : Hdr) (a : BitVec 6)
  | chimeAdd (h : Hdr) (d : BitVec 6) (a : BitVec 6)
  | chimeSet (h : Hdr) (d : BitVec 6) (a : BitVec 6)
  | chimeWait (h : Hdr) (d : BitVec 6) (a : BitVec 6)
  | chimeRd (h : Hdr) (d : BitVec 6) (a : BitVec 6)
  | qpop (h : Hdr) (d : BitVec 6) (a : BitVec 4) (wait : Bool)
  | qdone (h : Hdr) (d : BitVec 6) (a : BitVec 6)
  | launch (h : Hdr) (a : BitVec 4)
  | gangPrep (h : Hdr) (d : BitVec 6) (a : BitVec 4)
  | gangCommit (h : Hdr) (d : BitVec 6) (a : BitVec 6)
  | irq (h : Hdr) (a : BitVec 6)
  | preempt (h : Hdr) (d : BitVec 6) (a : BitVec 6) (b : BitVec 6)
  | resume (h : Hdr) (d : BitVec 3) (a : BitVec 6)
  | srd (h : Hdr) (d : BitVec 6) (sr : SReg)
  | swr (h : Hdr) (d : BitVec 6) (sr : SReg)
  | eqp (h : Hdr) (idx : BitVec 12)
  | migr (h : Hdr)
  | trap (h : Hdr) (code : BitVec 12)
  | tret (h : Hdr)
  | halt (h : Hdr)
  | frecRd (h : Hdr) (d : BitVec 6) (a : BitVec 6)
  | bkpt (h : Hdr) (tag : BitVec 12)
  | rgnEnter (h : Hdr) (rgn : BitVec 12)
  | rgnLeave (h : Hdr) (rgn : BitVec 12)
  | traceMark (h : Hdr) (d : BitVec 6)
  | ffma (h : XHdr) (ty : FTy) (d : BitVec 6) (a : BitVec 6) (b : BitVec 6) (c : BitVec 6) (rnd : Rnd)
  | ldi (h : Hdr) (d : BitVec 6) (imm : BitVec 32)
  | smoviX (h : Hdr) (d : BitVec 6) (imm : BitVec 32)
  | saddX (h : Hdr) (d : BitVec 6) (a : BitVec 6) (imm : BitVec 32)
  | arAdvX (h : Hdr) (d : BitVec 4) (imm : BitVec 32)
  | ldOrdered (h : XHdr) (d : BitVec 6) (a : BitVec 4) (b : BitVec 6) (ord : Order) (sc : Scope) (sz : LdSize)
  | stOrdered (h : XHdr) (d : BitVec 6) (a : BitVec 4) (b : BitVec 6) (ord : Order) (sc : Scope) (sz : StSize)
  | amo (h : XHdr) (d : BitVec 6) (a : BitVec 4) (b : BitVec 6) (c : BitVec 6) (ord : Order) (sc : Scope) (sz : AmoSize) (op : AmoOp)
  | lr (h : XHdr) (d : BitVec 6) (a : BitVec 4) (b : BitVec 6) (ord : Order) (sc : Scope) (sz : AmoSize)
  | sc (h : XHdr) (d : BitVec 6) (a : BitVec 4) (b : BitVec 6) (c : BitVec 3) (ord : Order) (scp : Scope) (sz : AmoSize)
  | xcpIn (h : XHdr) (d : BitVec 6) (a : BitVec 4) (b : BitVec 4) (c : BitVec 4) (bar : BitVec 4)
  | xcpOut (h : XHdr) (d : BitVec 6) (a : BitVec 4) (b : BitVec 4) (c : BitVec 4) (bar : BitVec 4)
  | xcpV (h : XHdr) (d : BitVec 6) (a : BitVec 4) (b : BitVec 4) (bar : BitVec 4)
  | xgath (h : XHdr) (d : BitVec 6) (a : BitVec 4) (b : BitVec 4) (c : BitVec 4) (bar : BitVec 4)
  | xred (h : XHdr) (d : BitVec 6) (a : BitVec 4) (b : BitVec 4) (c : BitVec 4) (bar : BitVec 4) (ty : XredTy)
  | mma (h : XHdr) (ty : MTy) (d : BitVec 4) (a : BitVec 4) (b : BitVec 6) (c : BitVec 6) (bar : BitVec 4) (mM1 : BitVec 6) (row : BitVec 6) (z : Bool)
  | mmas (h : XHdr) (ty : MTy) (d : BitVec 4) (a : BitVec 4) (b : BitVec 6) (c : BitVec 6) (bar : BitVec 4) (mM1 : BitVec 6) (row : BitVec 6) (z : Bool) (sp : Sparsity)
  | tld (h : XHdr) (d : BitVec 4) (a : BitVec 4) (b : BitVec 6) (c : BitVec 6) (bar : BitVec 4) (rowsM1 : BitVec 6) (row : BitVec 6) (fmt : TldFmt)
  | tst (h : XHdr) (d : BitVec 4) (a : BitVec 4) (b : BitVec 6) (c : BitVec 6) (bar : BitVec 4) (rowsM1 : BitVec 6) (row : BitVec 6) (fmt : TstFmt) (rnd : Rnd) (scl : TstScale)
  | trd (h : XHdr) (d : BitVec 6) (a : BitVec 4) (b : BitVec 6) (col : Bool) (idx : BitVec 8)
  | twr (h : XHdr) (d : BitVec 4) (a : BitVec 6) (b : BitVec 6) (col : Bool) (idx : BitVec 8)
  | tscale (h : XHdr) (d : BitVec 4) (a : BitVec 6) (b : BitVec 4) (rowsM1 : BitVec 6) (row : BitVec 6) (srow : BitVec 6) (mode : TScaleMode) (rnd : Rnd)
  | tzero (h : XHdr) (d : BitVec 4) (a : BitVec 6) (rowsM1 : BitVec 6) (row : BitVec 6)
  /-- R38: HOLD of entry e of group gid reaches 4,096 and its held lanes are released. -/
  | holdTimeout (gid e : Nat)
  /-- R37: entry e of group gid rotates. -/
  | deferredRotation (gid e : Nat)
  /-- R49: the k-th outstanding variable-latency result of group gid lands. -/
  | variableLatencyResult (gid k : Nat)
  /-- R340: entry e of group gid resolves the link token its PC holds. -/
  | tokenResolution (gid e : Nat)
  /-- R161: the logical time of group gid gains one. -/
  | ltAdvance (gid : Nat)
  /-- R166: every stamp on the device is reduced. -/
  | rebase
  /-- R158: the k-th line of a core's coalescing buffer leaves for its home. -/
  | coalescingBufferTimeout (core k : Nat)
  /-- R163: the k-th line that has left a core's buffer is stored at its home. -/
  | storeAtHome (core k : Nat)
  /-- R162: the k-th outstanding line request is served at its home. -/
  | homeRead (k : Nat)
  /-- R162: the reply to the k-th request reaches its core. -/
  | lineReply (k : Nat)
  /-- R167: the k-th outstanding atomic is performed at its home. -/
  | amoAtHome (k : Nat)
  /-- R168: the k-th outstanding LR reads its line and reserves it. -/
  | lrAtHome (k : Nat)
  /-- R168: the k-th outstanding SC is decided at its home. -/
  | scAtHome (k : Nat)
  /-- R169: the k-th reservation ends by age. -/
  | reservationTimeout (k : Nat)
  /-- R170: the k-th precedence window ends. -/
  | scPrecedenceExpiry (k : Nat)
  /-- R156: the k-th outstanding vault access is performed at the vault. -/
  | vaultAccess (k : Nat)
  /-- R328: a request of another device arrives at this one. -/
  | remoteRequestAtTarget (q : RemoteReq)
  /-- R330: the answer to the k-th outstanding remote access arrives. -/
  | remoteCompletion (k : Nat) (r : RemoteReply)
  /-- R326: a Carillon port goes down. -/
  | linkPortDown (port : BitVec 5)
  /-- R183: the host reads one line of device memory. -/
  | hostCxlRead (port : Bool) (pa : BitVec 64)
  /-- R183: the host writes bytes of one line. -/
  | hostCxlWrite (port : Bool) (pa : BitVec 64) (msk : BitVec 128) (data : BitVec 1024)
  /-- R323: the host takes ownership of one line. -/
  | hostReadForOwnership (port : Bool) (pa : BitVec 64)
  /-- R323: the host writes back modified data of one line. -/
  | hostWriteBack (port : Bool) (pa : BitVec 64) (data : BitVec 1024)
  /-- R198: an engine operation moves its element el. -/
  | engineBurst (op el : Nat)
  /-- R195: bytes an engine operation has written are counted. -/
  | engineDelivery (op : Nat)
  /-- R205: a fault after issue is charged to the barrier of an engine operation. -/
  | engineFault (op : Nat)
  /-- R198: an engine operation completes. -/
  | engineOpComplete (op : Nat)
  /-- R251: the k-th operation of a core's matrix queue starts. -/
  | matrixOpStart (core k : Nat)
  /-- R256: one row of an operation in a core's matrix queue is performed. -/
  | matrixRowWrite (core k row : Nat)
  /-- R248: an operation of a core's matrix queue completes. -/
  | matrixOpComplete (core k : Nat)
  /-- R227: the open fault batch of a C-die closes on its timer. -/
  | pageFaultBatchTimer (die : Nat)
  /-- R229: the oldest closed batch of a C-die is written to its ring. -/
  | faultBatchWrite (die : Nat)
  /-- R228: system software resolves pages with RETRY. -/
  | fresRetry (pasid : BitVec 20) (va : BitVec 64) (pages : BitVec 24)
  /-- R228: system software resolves pages with DENY. -/
  | fresDeny (pasid : BitVec 20) (va : BitVec 64) (pages : BitVec 24)
  /-- R237: an invalidation of a range starts. -/
  | invRange (pasid : BitVec 20) (va : BitVec 64) (pages : BitVec 24) (s2 : Bool)
  /-- R237: an invalidation of one address space starts. -/
  | invPasid (pasid : BitVec 20)
  /-- R237: an invalidation of every translation starts. -/
  | invAll
  /-- R237: a command that invalidates nothing starts. -/
  | invNone
  /-- R238: a party acknowledges the k-th pending invalidation. -/
  | invAck (k party : Nat)
  /-- R222: a group is saved to a context frame. -/
  | groupSave (gid : Nat)
  /-- R222: a saved group is restored on a core. -/
  | groupRestore (gid core : Nat)
  /-- R294: the deadline of the k-th running pre-emption passes. -/
  | preemptDeadline (k : Nat)
  /-- R240: a context is torn down. -/
  | contextTeardown (pasid : BitVec 20) (code : BitVec 16)
  /-- R313: a taken migration runs. -/
  | migration (gid : Nat)
  /-- R279: a pair chooses a candidate and starts it. -/
  | placementChoice (pair cand : Nat)
  /-- R279: a pair reserves a candidate that has waited. -/
  | candidateReservation (pair cand : Nat)
  /-- R45: an ended team releases its tiles and vault space. -/
  | teamResourceRelease (team : Nat)
  /-- R285: the strike timer of a rod expires. -/
  | rodTimer (pair rod : Nat)
  /-- R288: the steal tick of a pair. -/
  | stealTick (pair : Nat)
  /-- R290: the budget of a slice reaches 0. -/
  | budgetExhausted (gid : Nat)
  /-- R219: a pending BUDGET is taken by the next entry that would issue. -/
  | budget (gid e : Nat)
  /-- R268: a host writes a notify page. -/
  | notifyWrite (func : BitVec 2) (off : BitVec 20) (bytes : BitVec 4) (val : BitVec 64)
  /-- R270: the k-th waiting completion record is written. -/
  | completionRecordWrite (k : Nat)
  /-- R319: a revocation starts. -/
  | revoke (pasid : BitVec 20) (fmask : BitVec 4)
  /-- R319: the revocation takes effect. -/
  | revokeEffect
  /-- R324: a flip to host bias starts. -/
  | biasToHost (pa : BitVec 64) (pages : BitVec 24)
  /-- R324: a flip to device bias starts. -/
  | biasToDevice (pa : BitVec 64) (pages : BitVec 24)
  /-- R324: the running bias command completes. -/
  | biasCommandComplete
  /-- R325: an interrupt table entry is examined. -/
  | irtsync (intf : BitVec 8) (vec : BitVec 5)
  /-- R361: the mailbox answers KEYNEW. -/
  | keynew (req : BitVec 64)
  /-- R361: the mailbox answers KEYFREE. -/
  | keyfree (req : BitVec 64)
  /-- R361: the mailbox answers ASDSET. -/
  | asdset (req : BitVec 64)
  /-- R361: the mailbox answers ATTEST. -/
  | attest (req : BitVec 64)
  /-- R332: PREPARE arrives. -/
  | gangPrepareMsg (gid : BitVec 32) (leader : BitVec 20) (timeout : BitVec 32)
  /-- R332: COMMIT arrives. -/
  | gangCommitMsg (gid : BitVec 32) (leader : BitVec 20)
  /-- R332: CLOSE arrives. -/
  | gangCloseMsg (gid : BitVec 32) (leader : BitVec 20)
  /-- R332: BREAK arrives. -/
  | gangBreakMsg (gid : BitVec 32) (leader : BitVec 20)
  /-- R332: TIMEOUT of the k-th member entry passes with no COMMIT. -/
  | gangMemberTimeout (k : Nat)
  /-- R332: the route to a device fails. -/
  | gangRouteFail (dev : BitVec 20)
  /-- R332: a member's answer reaches the leader. -/
  | gangReply (gid : BitVec 32) (dev : BitVec 20) (ack : Bool)
  /-- R297: TIMEOUT of the k-th open gang passes at the leader. -/
  | gangLeaderTimeout (k : Nat)
  /-- R347: a debugger halts a context. -/
  | asyncHalt (slot : BitVec 2)
  /-- R348: a group stops at an instruction boundary for a halt. -/
  | groupStop (gid : Nat)
  /-- R348: the oldest waiting stop record of a slot is written. -/
  | stopRecordWrite (slot : BitVec 2)
  /-- R350: the debugger reads a word of a stopped group. -/
  | daccRead (sel : BitVec 64)
  /-- R350: the debugger writes a word of a stopped group. -/
  | daccWrite (sel : BitVec 64) (val : BitVec 64)
  /-- R350: the debugger resumes a stopped group. -/
  | daccResume (sel : BitVec 64) (val : BitVec 64)
  /-- R350: the debugger ends a stopped group. -/
  | daccEnd (sel : BitVec 64)
  /-- R351: a core's trace control is written. -/
  | traceEnable (core : BitVec 6) (lo hi : BitVec 64)
  /-- R354: one offset of the device-time counters is measured. -/
  | skewMeasurement (k : Nat)
  /-- R367: a scrub reads and corrects one line. -/
  | scrub (vlt : Bool) (line : Nat) (err : ScrubErr)
  /-- R366: an HBM row is retired. -/
  | rowRetirement (row : Nat)
  /-- R366: a vault line is fenced. -/
  | lineFence (line : Nat)
  /-- R369: an island control register is written. -/
  | islctlWrite (n : Nat) (val : BitVec 64)
  /-- R369: an island takes its requested point. -/
  | operatingPointChange (n : Nat)
  /-- R370: the board controller writes PLIMIT. -/
  | plimitWrite (val : BitVec 64)
  /-- R370: one millisecond of the power limiter, with its average power. -/
  | powerLimiterTick (watts : Nat)
  /-- R225: a fault ring register is written. -/
  | fringWrite (c : BitVec 2) (val : BitVec 64)
  /-- R371: device reset and the boot sequence. -/
  | deviceReset (b : BootInput)
  /-- R9: a device register is written over BAR2, the sideband or by firmware. -/
  | registerWrite (off : BitVec 24) (val : BitVec 64)
  /-- R218: an uncorrectable error in register storage. -/
  | registerStorageError (gid : Nat)
  /-- R326: a flit is replayed. -/
  | flitReplay (port : BitVec 5) (ok : Bool)
deriving DecidableEq, Repr

end Sys2Proof
end

