-- ==== Sys2Proof/Word.lean ====
section
/-! DEFINITION. The word types of the machine and the finite maps its state is made of. -/

namespace Sys2Proof

/-- A byte (00 R6). -/
abbrev Byte := BitVec 8

/-- A 32-bit word: an instruction word, an s register, one lane of a v register (05 R58, R63). -/
abbrev W32 := BitVec 32

/-- A 64-bit word: an address, a pair of registers, a lane mask (05 R58, R60). -/
abbrev W64 := BitVec 64

/-- The 128 bytes of one line (01 R16), byte i in bits [8i+7:8i]. -/
abbrev Line := BitVec 1024

/-- A finite map from numbers, as a list of keys and values with rising keys. A key that is absent stands for a default
value that the map's reader names; no entry holds that default (Machine/Map.lean keeps this form). -/
abbrev Assoc (α : Type) := List (Nat × α)

end Sys2Proof
end

