-- ==== Sys2Proof/Config.lean ====
section
/-! DEFINITION. What one part fixes: stepping B0's own tag and sizes, and the free values of the model. An `opaque`
constant has no body: nothing proves a value of it, so a statement that holds, holds for every value. -/

namespace Sys2Proof.Config

/-- The part's own stepping tag, letter 'B' in [15:8] and digit '0' in [7:0] (00 R2; 21 R274). -/
def ownTag : BitVec 16 := 0x4230

/-- The call stack entry NONE of MEET (03 R29). -/
def none64 : BitVec 64 := 0xFFFFFFFFFFFFFFFF

/-- Bytes of one vault (01 R20). -/
def vaultSize : Nat := 67108864

/-- Bytes of one column slice (01 R21). -/
def sliceSize : Nat := 262144

/-- Bytes of device physical memory (25 R321). -/
def memSize : Nat := 549755813888

/-- First byte of the root region (31 R359). -/
def rootBase : Nat := 548682072064

/-- First address of the register window (31 R360). -/
def regBase : Nat := 0x7000000000000

/-- Bytes of the register window (31 R360). -/
def regSize : Nat := 0x1000000

/-- Lines of an L1 of 256 KiB (01 R27). -/
def l1Lines : Nat := 2048

/-- Words of an instruction cache of 128 KiB (01 R27). -/
def icacheWords : Nat := 32768

/-- Entries of a cluster translation unit (01 R27). -/
def tlbEntries : Nat := 16384

/-- Entries of a core's micro-TLB (13 R159). -/
def microEntries : Nat := 64

/-- Lines of an M-die's L2 of 64 MiB (01 R27). -/
def l2Lines : Nat := 524288

/-- Outstanding line requests of a copy unit (01 R27). -/
def copyRequests : Nat := 16384

/-- The bit of a core's 4,096-bit filter that a page of an address space sets; the spec gives no hash (13 R159; assumption 60). -/
opaque pageHash : Nat → Nat → Nat

/-- Bits of a free choice: every point where the spec lets the device take one outcome of a stated set draws one of
these at the state's counter `seq` (assumption 2). -/
opaque choice : Nat → Nat

/-- The phase of a pair's steal ticks, fixed at device reset: the state's counter `seq` then, and the pair (21 R288; assumption 64). -/
opaque stealPhase : Nat → Nat → Nat

/-- A free value drawn at the state's counter `seq` (assumption 2). -/
opaque freeWord : Nat → BitVec 64

/-- The choice among the results a float function may return, fixed per function, type, flush bits and operand
(07 R98, R99; assumption 2). -/
opaque funcChoice : Nat → Nat → Nat → Nat

/-- The bytes that XTS decryption of a line under another key slot gives: old key generation, new key generation, line
address and clear bytes (31 R362; assumption 6). -/
opaque xtsMix : Nat → Nat → Nat → BitVec 1024 → BitVec 1024

/-- SHA-512 of an image (31 R363, R364; assumption 6). -/
opaque sha512 : List (BitVec 8) → BitVec 512

/-- The Ed25519 signature of the device over a digest (31 R363; assumption 6). -/
opaque sign : BitVec 512 → BitVec 512

/-- Verification of an image's signature: kind (false root, true service), signature and digest (31 R364). -/
opaque sigValid : Bool → BitVec 512 → BitVec 512 → Bool

/-- The row of an HBM line within its M-die and stack, and the bank of a row: the spec counts errors by row and spares by bank and does not
say how addresses are laid out in them (31 R365, R366; assumption 9). -/
opaque hbmRow : Nat → Nat

/-- The bank of an HBM row. -/
opaque hbmBank : Nat → Nat

/-- The address a record gives an HBM row (31 R368). -/
opaque rowBase : Nat → BitVec 64

/-- The identity public key, four 64-bit words (31 R363). -/
opaque identityKey : Nat → BitVec 64

end Sys2Proof.Config
end

