-- ==== Sys2Proof/Machine/State.lean ====
section
/-! DEFINITION. The state of the machine as plain data: every register, table, queue and memory the spec names, the
agenda that says which agent moves next, and the state right after reset. -/

namespace Sys2Proof.Machine

/-- Why the machine stops. -/
inductive Fault where
  /-- 31 R372: a boot step has failed and the device stays stopped at it. Raised by `step` only, when a turn other than
  a reset or a write to a notify page comes up on a device whose boot has failed. Safe: the spec gives such a device no further step. -/
  | bootFailed
deriving DecidableEq, Repr

/-- Why an instruction has no meaning in the model. -/
inductive Refusal where
  /-- An instruction whose meaning is not written. Raised by `exec` only, by mnemonic. Safe. -/
  | notModelled (mnemonic : String)
deriving DecidableEq, Repr

/-- A call-stack entry (03 R30). -/
structure StackEnt where
  ra : W64
  meet : W64
deriving DecidableEq, Repr

/-- An address register (05 R60). SPACE is 0 global, 1 vault, 2 system. -/
structure AReg where
  ptr : W64
  base : W64
  limit : W64
  space : BitVec 4
  perm : BitVec 4
deriving DecidableEq, Repr

/-- An index register (05 R61). -/
structure IReg where
  count : BitVec 7
  base : BitVec 6
deriving DecidableEq, Repr

/-- Where a memory access lands once its address is checked and translated (13 R152, 25 R321). -/
inductive Place where
  /-- A byte of a vault: key core × 2^26 + offset. -/
  | vault (key : Nat)
  /-- Device physical memory, reached through translation or in system space. -/
  | mem (pa : Nat)
  /-- Host memory through a port, by physical address (25 R321). -/
  | host (pa : Nat)
  /-- A window address of another device (13 R153). -/
  | remote (dev win : Nat)
deriving DecidableEq, Repr

/-- What a parked lane waits for (03 R373), with the operands its completion needs. `tok` is the issue that parked it: each
wait has its effect once, and writes its results in that issue's place (03 R49; 23 R300). -/
inductive Wait where
  /-- BAR.WAIT: barrier at vault key `key`, expected parity, destinations (15 R197). -/
  | bar (key : Nat) (par : Bool) (d : BitVec 6) (q : BitVec 3) (tok : Nat)
  /-- TBAR: team barrier number (15 R206). -/
  | tbar (n : Nat)
  /-- CHIME.WAIT: context, chime, value (21 R293). -/
  | chime (ctx n : Nat) (x : W64)
  /-- QPOP.wait: the lane it stores for, the address and place of its 64 bytes as checked at issue, its destination (21 R271). -/
  | qpop (lane va : Nat) (place : Place) (sys : Bool) (d : BitVec 6) (tok : Nat)
  /-- QDONE on a full ring: interface and the record's TAG, CODE and STATUS (21 R272). -/
  | qdone (intf : Nat) (tag : W32) (code : BitVec 16) (status : BitVec 2)
  /-- A link cell at BINDING: its address in the context (27 R340). -/
  | cell (va : Nat)
  /-- GANG.PREP: handle and destination (21 R297). -/
  | gangPrep (handle : Nat) (d : BitVec 6) (tok : Nat)
  /-- GANG.COMMIT: handle and destination (21 R297). -/
  | gangCommit (handle : Nat) (d : BitVec 6) (tok : Nat)
deriving DecidableEq, Repr

/-- A page some access faults on (17 R226 to R228): the page address, virtual, or guest physical when `s2`, whether
a report entry names it (R229), and whether an instruction fetch met it (R234). -/
structure PageFault where
  pasid : BitVec 20
  page : Nat
  s2 : Bool
  recorded : Bool
  fetch : Bool
deriving DecidableEq, Repr

/-- A cause in one lane (17 R208, R209): its position in the order, code, INFO, ADDR, and the page for PAGE. -/
structure Cause where
  rank : Nat
  code : BitVec 16
  info : BitVec 16
  addr : W64
  page : Option PageFault
deriving DecidableEq, Repr

/-- The park mark of a lane (03 R373). A wait that ends while its group is saved is `satisfied`, with the status word and
the stamp it ended with, and completes at the restore (17 R221). `done` says that the page has been resolved while other pages of the same parked
entry have not (17 R228). -/
inductive Park where
  | none
  | waiting (w : Wait)
  | satisfied (w : Wait) (status : W32) (stamp : Nat)
  | faulted (f : PageFault) (done : Bool)
deriving DecidableEq, Repr

/-- One thread of a group, but for its v and p registers (03 R29). `held` marks a lane held at its MEET (R38),
`denied` a page whose fault was refused and that the replay raises PERM for (17 R228), `dbg` the one execution that
evaluates no watchpoint or breakpoint (17 R214). -/
structure Lane where
  pc : W64
  meet : W64
  stack : List StackEnt
  sd : W32
  exited : Bool
  held : Bool
  park : Park
  denied : Option PageFault
  dbg : Bool
deriving DecidableEq, Repr

/-- STATE of a split-table entry (03 R34). -/
inductive EState where | ready | held | faulted | waiting | split | migrating
deriving DecidableEq, Repr

/-- A split-table entry (03 R33); its ID is its index. `last` orders issues (21 R280); `busy` says that accesses of the
instruction it has issued are outstanding. -/
structure Entry where
  v : Bool
  mask : W64
  act : W64
  pc : W64
  meet : W64
  hold : Nat
  dcnt : Nat
  st : EState
  parent : Nat
  last : Nat
  busy : Bool
deriving DecidableEq, Repr

/-- A fault record (17 R210). -/
structure FaultRec where
  dtime : W64
  rgn1 : BitVec 12
  rgn0 : BitVec 12
  core : BitVec 6
  group : BitVec 4
  team : BitVec 30
  xpc : W64
  code : BitVec 16
  eqpidx : BitVec 12
  eqpv : Bool
  form : Bool
  res : BitVec 2
  info : BitVec 16
  lane : BitVec 6
  entry : BitVec 4
  opc1 : W32
  opc0 : W32
  addr : W64
  lanes : W64
  pc : W64
deriving DecidableEq, Repr

/-- A trap frame (17 R213): the record, the lane set H, PC, MEET and the resume kind in the record. -/
structure Frame where
  fr : FaultRec
  h : W64
  pc : W64
  meet : W64
deriving DecidableEq, Repr

/-- A register a variable-latency result is written to: lane registers by number and lane, uniform ones by number. -/
inductive Dest where
  | v (r l : Nat)
  | p (r l : Nat)
  | s (r : Nat)
  | q (r : Nat)
deriving DecidableEq, Repr

/-- An outstanding variable-latency result of a group on a D-core (03 R48, R49): the issue it belongs to, its register, and the
value once it has returned. -/
structure Pend where
  own : Nat
  dst : Dest
  val : Option W32
deriving DecidableEq, Repr

/-- The uniform operands an instruction has read (09 R102, R103). -/
structure Seen where
  s : List W32
  a : List AReg
  q : List Bool
deriving DecidableEq, Repr

/-- What a busy entry keeps of the instruction it has issued: its words, its active lanes and those an early release may trap, the issue it belongs to, the
uniform operands it read, and the causes it has found in lanes that it could not go on with (09 R103; 17 R209). -/
structure Flight where
  w0 : W32
  w1 : W32
  on : W64
  hint : W64
  tok : Nat
  seen : Seen
  causes : List (Nat × Cause)
deriving DecidableEq, Repr

/-- Where a group is: in a resident slot of its core, saved in a frame of its context's pool, or gone. -/
inductive Residency where
  /-- In resident slot `slot` of the group's core. -/
  | resident (slot : Nat)
  /-- Saved for a fault (17 R221): save-pool slot. -/
  | savedFault (slot : Nat)
  /-- Saved by pre-emption (17 R239): save-pool slot. -/
  | savedPreempt (slot : Nat)
  /-- Saved by YIELD after BUDGET, a candidate of its pair since `since` (21 R290): save-pool slot. -/
  | savedYield (slot : Nat) (since : Nat)
deriving DecidableEq, Repr

/-- What a slice keeps of its strike (21 R287): pair, rod, spill area, and whether its budget is limited (R290). -/
structure SliceInfo where
  pair : Nat
  rod : Nat
  area : Nat
  limited : Bool
deriving DecidableEq, Repr

/-- The kernel images a group runs (05 R59, R76; 21 R274): kernel object, image starts, stepping tags, .regs. -/
structure Kernel where
  kobj : W64
  ibD : W64
  ibL : W64
  hasD : Bool
  hasL : Bool
  tagD : BitVec 16
  tagL : BitVec 16
  regsD : Nat
  regsL : Nat
deriving DecidableEq, Repr

/-- A stop that a group has reached and that awaits its loads and results (29 R348): its kind, the record of a WATCH or BKPT, and the lanes
of the stopping entry. -/
structure StopReq where
  kind : Nat
  fr : Option FaultRec
  lanes : W64
deriving DecidableEq, Repr

/-- A group; of a migration under way `migCore` is the target core reserved, `migTiles` whether tiles of it are, and `migWord`
the word of its EQP, `arriving` says that it has issued nothing since one has brought it here (23 R314); `rlt` is the largest stamp of what its relaxed loads have read (13 R176), `elt` that of the accesses of its completed engine and matrix operations (13 R178), `yielded` says that its core's selector takes it last at the next selection (09 R109); `haltCyc` counts the cycles since a HALT write,
`stopReq` is a stop that awaits results, `stopLanes` are the lanes of the entry that stopped, and `kept` the results of waits that a
debugger's writes have ended (29 R347 to R350)
(03 R28, R29, R46, R55; 09 R130; 17 R212; 23 R309; 29 R342, R357). The lane list has length W, the entry
list 16. `flights` holds each busy entry's instruction. Register maps: v by 64 r + l, p by number as a lane mask, s, a, q and i by number. -/
structure Group where
  gid : Nat
  core : Nat
  res : Residency
  stopped : Option Nat
  stopReq : Option StopReq
  stopLanes : W64
  kept : List (Nat × Dest)
  halt : Bool
  haltCyc : Nat
  pasid : BitVec 20
  sys : Bool
  front : Bool
  team : Nat
  srTeam : Nat
  srGroup : Nat
  w : Nat
  ker : Kernel
  v : Assoc W32
  p : Assoc W64
  s : Assoc W32
  a : Assoc AReg
  q : Assoc Bool
  i : Assoc IReg
  lanes : List Lane
  ents : List Entry
  frames : List Frame
  rmode : W32
  tbase : W32
  deadline : W64
  budget : W32
  budgetPend : Bool
  lt : Nat
  eqp : Option (BitVec 12)
  rgn : List (BitVec 12)
  stalls : Assoc Nat
  retired : Nat
  migReq : Bool
  migCore : Option Nat
  migTiles : Bool
  migWord : W32
  arriving : Bool
  released : W64
  pend : List Pend
  flights : Assoc Flight
  spark : Bool
  rlt : Nat
  elt : Nat
  remFail : Option W64
  slice : Option SliceInfo
  last : Nat
  yielded : Bool
deriving DecidableEq, Repr

/-- What an outstanding access does. -/
inductive AccOp where
  | load
  | store
  | amo (op : AmoOp) (opnd cmp : W64)
  | lr
  | sc
  | pfL1
  | pfL2
deriving DecidableEq, Repr

/-- How far an outstanding access has come. -/
inductive AccSt where
  /-- Sent, not yet performed. -/
  | sent
  /-- Performed at its home; the reply, with the line's stamps, is on its way to the core (13 R162). -/
  | replied (val : W64) (ws le : Nat) (line : Line) (install : Bool)
  /-- Complete: the value, the stamp lt takes, the end of the lease it read under, and whether an SC wrote. -/
  | done (val : W64) (stamp le : Nat) (ok : Bool)
  /-- Ended with a fault code: ECC or REMOTE (17 R220), with its INFO. -/
  | failed (code : BitVec 16) (info : BitVec 16)
deriving DecidableEq, Repr

/-- An access to memory that has been issued and not yet taken up by its instruction, or a posted store. `ent` and
`lane` name the waiting entry and lane; a posted store or a prefetch has none waiting (`ent` 16). `acq` marks an acquire,
`va` the address the lane formed, `wide` a half of a 16-byte access, `sys` a system-space access, `tg` the sr.team and sr.group of its group as reports carry
them (17 R226), `port` the port a remote access has left by (25 R327, R330), `rst` the stamp of what a relaxed load has read beside the stamp lt takes (13 R157, R176),
`perm` the permissions of its translation, X W R in bits 2 to 0 (13 R158). -/
structure Acc where
  gid : Nat
  ent : Nat
  lane : Nat
  part : Nat
  core : Nat
  pasid : BitVec 20
  op : AccOp
  place : Place
  va : Nat
  n : Nat
  wide : Bool
  data : W64
  lt : Nat
  renew : Bool
  nt : Bool
  acq : Bool
  sys : Bool
  tg : W64
  port : Nat
  rst : Nat
  perm : BitVec 4
  st : AccSt
deriving DecidableEq, Repr

/-- A line in an L1 (13 R158): core, physical line, tag, permissions and stamps. -/
structure L1Line where
  core : Nat
  line : Nat
  pasid : BitVec 20
  vline : Nat
  perm : BitVec 4
  data : Line
  ws : Nat
  le : Nat
deriving DecidableEq, Repr

/-- One line of a coalescing buffer (13 R158, R163): core, physical line, the bytes written, the largest lt_s, and the
groups that wrote; `left` once it is on its way to its home. -/
structure BufLine where
  core : Nat
  line : Nat
  msk : BitVec 128
  data : Line
  lt : Nat
  gids : List Nat
  pasid : BitVec 20
  nt : Bool
  left : Bool
deriving DecidableEq, Repr

/-- Host state of a line as its home records it (25 R323): I, S, or E. A host that holds E may modify the line in its
own cache without the home learning of it (state M), until it writes the line back: the model's memory takes such data when they are made (assumption 73). -/
inductive Mesi where | i | s | e
deriving DecidableEq, Repr

/-- A line in an M-die's L2 with its directory entry (13 R160, R164, R188; 25 R323). `port` is the host port that holds a
copy. -/
structure HomeLine where
  wts : Nat
  rts : Nat
  pred : Nat
  written : Bool
  nt : Bool
  mesi : Mesi
  port : Bool
deriving DecidableEq, Repr

/-- A reservation (13 R168, R169): the lane, its line, and ages of 256 and 2,048 cycles as marks. -/
structure Resv where
  gid : Nat
  lane : Nat
  line : Nat
deriving DecidableEq, Repr

/-- Failures in a row of a lane's SCs to a line, and its precedence window (13 R170). -/
structure ScFail where
  gid : Nat
  lane : Nat
  line : Nat
  fails : Nat
  window : Bool
deriving DecidableEq, Repr

/-- A translation held by a cluster translation unit (13 R159, 17 R237): C-die, PASID, virtual page, physical page,
permissions X W R, and the stage-2 pages it used. -/
structure Tlb where
  die : Nat
  pasid : BitVec 20
  vpage : Nat
  ppage : Nat
  perm : BitVec 4
  s2pages : List Nat
deriving DecidableEq, Repr

/-- A translation in a core's micro-TLB (13 R159): core, PASID, virtual page, physical page, permissions. -/
structure Micro where
  core : Nat
  pasid : BitVec 20
  vpage : Nat
  ppage : Nat
  perm : BitVec 4
deriving DecidableEq, Repr

/-- A word held by an instruction cache (13 R178): core, PASID, virtual address. -/
structure ICode where
  core : Nat
  pasid : BitVec 20
  va : Nat
  word : W32
deriving DecidableEq, Repr

/-- A team's vault space after it has been given back: core, first offset, size, and the context that held it (03 R44; 31 R362). -/
structure PastSpace where
  core : Nat
  base : Nat
  size : Nat
  pasid : BitVec 20
deriving DecidableEq, Repr

/-- What a unit of the device writes, or what it reads for a message, and that waits for a bias command (25 R324). -/
inductive HeldWrite where
  /-- Words at a physical address. -/
  | words (pa : Nat) (ws : List Nat)
  /-- The addition of `x` to a context's chime with a stamp; `drops` where it is dropped for a context with V = 0 (21 R292). -/
  | chime (ctx : BitVec 20) (n x stamp : Nat) (drops : Bool)
  /-- STATE of a context's descriptor (21 R265), which the device goes by from now on. -/
  | ctx (ctx : BitVec 20) (v : Nat)
  /-- The examination of the remapping entry of an interface and vector, for an IRQ or for IRTSYNC (25 R325). -/
  | irq (intf vec : Nat) (irq : Bool)
  /-- The launch record and kernel object of a gang's PREPARE message (25 R332). -/
  | prepare (gid : W32) (leader : BitVec 20) (timeout : W32)
deriving DecidableEq, Repr

/-- An invalidation command that has not completed (17 R237, R238). Parties: 0 to 3 translation units, 4 to 67 cores,
68 to 71 copy units. -/
structure Inv where
  kind : BitVec 2
  pasid : BitVec 20
  va : Nat
  pages : Nat
  s2 : Bool
  acks : List Nat
deriving DecidableEq, Repr

/-- A launch record as read (21 R274). -/
structure Launch where
  args : List W32
  spillBase : W64
  spillSz : W32
  sigVal : W64
  sigCh : BitVec 12
  sigSvc : Bool
  sigEn : Bool
  vault64 : Nat
  voff64 : Nat
  vfix : Bool
  gz : Nat
  gy : Nat
  gx : Nat
  pasid : BitVec 20
  prio : Nat
  kindL : Bool
  span : Bool
  w : Nat
  tgrp : Nat
  tiles : Nat
  regsD : Nat
  regsL : Nat
  entryL : W64
  entryD : W64
  tbase : W32
  tagL : BitVec 16
  tagD : BitVec 16
  kobj : W64
deriving DecidableEq, Repr

/-- A pending or running grid (21 R276 to R279). `held` while a gang only reserves it (R297); `gbar` is the gang
barrier's offset in each team's space (25 R331). -/
structure Grid where
  id : Nat
  lrec : Launch
  ker : Kernel
  lt : Nat
  key : Nat
  candAt : Nat
  next : Nat
  ended : Nat
  stamp : Nat
  held : Bool
  gbar : Option Nat
deriving DecidableEq, Repr

/-- A started team (03 R43 to R45; 19 R242). `tiles` lists, for each core used, the physical tiles in team order; `gids` are the groups
that have not ended, of the `size` it started with. -/
structure Team where
  id : Nat
  grid : Option Nat
  index : Nat
  pasid : BitVec 20
  home : Nat
  cores : List Nat
  vbase : Nat
  vsize : Nat
  tiles : Assoc (List Nat)
  ntiles : Nat
  gids : List Nat
  ended : Bool
  stamp : Nat
  gbar : Option Nat
  size : Nat
deriving DecidableEq, Repr

/-- A rod configuration record as read (21 R282). -/
structure RodCfg where
  key : W64
  spillBase : W64
  spillSz : W32
  budget : W32
  rel : W32
  timer : Nat
  pasid : BitVec 20
  prio : Nat
  kindL : Bool
  w : Nat
  regs : Nat
  maxres : Nat
  tbase : W32
  kobj : W64
  tagL : BitVec 16
  tagD : BitVec 16
deriving DecidableEq, Repr

/-- State of a rod (21 R285). -/
inductive RodSt where | off | empty | filling | ready | draining
deriving DecidableEq, Repr

/-- A bead (21 R283). -/
structure Bead where
  args : List W32
  entry : W64
  deadline : W64
  stamp : Nat
  pasid : BitVec 20
  core : Nat
deriving DecidableEq, Repr

/-- A rod (21 R281 to R289): `cycles` is its strike timer, `readyAt` the device time it became READY, `candAt` since when it is a
candidate of its pair. -/
structure Rod where
  st : RodSt
  cfg : RodCfg
  ker : Kernel
  beads : List Bead
  cycles : Nat
  readyAt : Nat
  candAt : Option Nat
deriving DecidableEq, Repr

/-- A running pre-emption request (21 R294). -/
structure Preempt where
  pasid : BitVec 20
  drain : Bool
  deadline : Nat
  sig : Option (BitVec 12)
deriving DecidableEq, Repr

/-- A completion record that waits for room in its ring (21 R270). -/
structure Compl where
  intf : Nat
  tag : W32
  code : BitVec 16
  status : BitVec 2
deriving DecidableEq, Repr

/-- A gang opened by a front group (21 R297): the grid it reserves, the members, who has answered, since when the phase
runs, and whether its TIMEOUT has passed without a commit. -/
structure Gang where
  handle : Nat
  die : Nat
  gid : BitVec 32
  timeout : W32
  grid : Nat
  members : List (BitVec 20)
  acks : List (BitVec 20)
  prepared : Bool
  committing : Bool
  since : Nat
  broken : Bool
deriving DecidableEq, Repr

/-- A member entry of this device that holds a grid for a leader (25 R331, R332): its slot of the member table, the grid, and
when its reservation ends without a COMMIT. -/
structure Member where
  slot : Nat
  grid : Nat
  deadline : Nat
deriving DecidableEq, Repr

/-- A layout record as read (15 R199), by dimension. -/
structure Layout where
  strides : List Nat
  dims : List Nat
  boxes : List Nat
  fill : W32
  metaOff : Nat
  sparse : Nat
  oob : Nat
  playout : Nat
  rank : Nat
  esize : Nat
deriving DecidableEq, Repr

/-- One side of an engine operation: the address register as read, and for a vault the key of offset 0. -/
structure Side where
  space : Nat
  ptr : Int
  vkey : Nat
deriving DecidableEq, Repr

/-- What an engine operation moves (15 R201 to R204), with the operands read at issue. -/
inductive OpKind where
  | xcpIn (g p : Side) (o : Nat) (lay : Layout) (org : List Int)
  | xcpOut (g p : Side) (o : Nat) (lay : Layout) (org : List Int)
  | xcpV (src dst : Nat) (len : Nat)
  | xgath (g p : Side) (lay : Layout) (rows : List Int)
  | xred (ty : XredTy) (g p : Side) (o : Nat) (lay : Layout) (org : List Int)
deriving DecidableEq, Repr

/-- An engine operation in flight (15 R198, R205): `lanes` are those of the threads that issued it (13 R178), `bar` is the key of its
barrier, `barA` the vault address that named it (17 R226), `got` the elements read and not yet written, `moved` those written. -/
structure Op where
  id : Nat
  kind : OpKind
  gid : Nat
  lanes : W64
  team : Nat
  srTeam : Nat
  srGroup : Nat
  core : Nat
  pasid : BitVec 20
  sys : Bool
  bar : Nat
  barA : W64
  lt : Nat
  got : Assoc Nat
  moved : List Nat
  undelivered : Nat
  stamp : Nat
  fault : Option (BitVec 16)
  charged : Bool
  park : Option PageFault
  denied : Option PageFault
deriving DecidableEq, Repr

/-- What an entry of a matrix queue does (19 R253 to R261), with the operands read when it entered. Tiles are physical
tiles of the core. -/
inductive MatKind where
  | mma (ty : MTy) (tile row m : Nat) (z : Bool) (a : Nat) (b0 b1 b2 b3 : Nat) (sp : Option Sparsity)
  | tld (fmt : TldFmt) (tile row rows : Nat) (side : Side) (o : Nat) (stride : Int)
  | tst (fmt : TstFmt) (tile row rows : Nat) (side : Side) (o : Nat) (stride : Int) (rnd : Rnd)
      (scl : TstScale) (stile srow : Nat)
  | trd (tile : Nat) (col : Bool) (idx : Nat) (d : Nat) (lanes : W64) (tok : Nat)
  | twr (tile : Nat) (col : Bool) (idx : Nat) (vals : Assoc W32)
  | tscale (tile row rows : Nat) (stile srow : Nat) (mode : TScaleMode) (rnd : Rnd)
  | tzero (tile row rows : Nat)
deriving DecidableEq, Repr

/-- An entry of a matrix queue (19 R248, R251): `rows` are the rows done, `part` the elements moved of a row that has parked on a page. -/
structure MatOp where
  id : Nat
  kind : MatKind
  gid : Nat
  ent : Nat
  team : Nat
  srTeam : Nat
  srGroup : Nat
  pasid : BitVec 20
  sys : Bool
  w : Nat
  bar : Option Nat
  barA : W64
  lt : Nat
  started : Bool
  rows : List Nat
  part : Assoc Nat
  stamp : Nat
  fault : Option (BitVec 16)
  park : Option PageFault
  denied : Option PageFault
deriving DecidableEq, Repr

/-- A report entry of a fault batch (17 R226). -/
structure Report where
  kind : BitVec 4
  a : W64
  b : W64
  pasid : BitVec 20
  code : BitVec 16
  count : W32
  core : BitVec 6
  slot : BitVec 6
  entry : BitVec 4
  acc : BitVec 4
  s2 : Bool
deriving DecidableEq, Repr

/-- The fault batches of one C-die (17 R227, R229): the open batch, the time of its first entry, the reason it closed if
it waits for room, and the entries of kinds 4 to 6 held for later batches. -/
structure Batch where
  entries : List Report
  since : Nat
  closed : Option (BitVec 16)
  held : List Report
deriving DecidableEq, Repr

/-- A stop record that waits for its ring (29 R348): slot of the debug block, record, resident slot, kind, PASID. -/
structure StopRec where
  fr : FaultRec
  slot : Nat
  kind : Nat
  pasid : BitVec 20
deriving DecidableEq, Repr

/-- The steps that take time without an agent acting. -/
inductive Tick where
  /-- `n` nanoseconds of device time pass (01 R25). -/
  | ns (n : Nat)
  /-- A cycle of the SIMT clock of a group's core in which the group issues nothing (03 R33; 29 R357). -/
  | simt (gid : Nat)
  /-- An array-clock cycle of a core (21 R290). -/
  | array (core : Nat)
  /-- `n` cycles of the D-clock of a pair's D-core (21 R285). -/
  | dclock (pair n : Nat)
  /-- A host program stores `n` bytes in host memory, at a physical address of a host window (13 R184; 25 R321). -/
  | host (pa n v : Nat)
  /-- An M-die evicts a line from its L2 (13 R160). -/
  | evict (line : Nat)
  /-- The instruction cache of a group's core takes a word of code ahead of its issue, as fetch may (13 R178). -/
  | ifetch (gid va : Nat)
  /-- A host modifies a line that it holds in state E in its own cache: from then on the data are those (25 R323). -/
  | hostMod (line : Nat) (data : Line)
  /-- An M-die's L2 meets an error in a line it holds, corrected or not (17 R211; 31 R368). -/
  | l2Error (line : Nat) (corrected : Bool)
deriving DecidableEq, Repr

/-- One turn of the agenda: an entry of a group issues its next instruction, a device step of the opcode table takes
place, or time passes. -/
inductive Turn where
  | issue (gid ent : Nat)
  | event (i : Instr)
  | tick (t : Tick)
deriving DecidableEq, Repr

/-- What the device has sent out: interrupt messages, gang messages, remote requests and answers to them, and data of host reads
(21 R273; 25 R322, R325 to R329, R332). -/
inductive Out where
  /-- An interrupt message: port, address, data. -/
  | msi (port : Nat) (addr : W64) (data : W32)
  /-- A gang message to a device: 0 PREPARE, 1 COMMIT, 2 CLOSE, 3 BREAK, 4 ACK, 5 NAK. -/
  | gang (kind : Nat) (dev : BitVec 20) (gid : BitVec 32) (timeout : W32)
  /-- A request to another device, by a port (25 R327, R329). -/
  | ask (port : Nat) (dev : BitVec 20) (q : RemoteReq)
  /-- An answer to a remote request. -/
  | reply (dev : BitVec 20) (r : RemoteReply)
  /-- The data of a host read: port and line address (25 R322, R323). -/
  | line (port : Nat) (pa : Nat) (data : Line)
deriving DecidableEq, Repr

/-- The group, entry and words that an issue turn hands to `exec`. -/
structure Cursor where
  gid : Nat
  ent : Nat
  w0 : W32
  w1 : W32
deriving DecidableEq, Repr

/-- The state of the machine. -/
structure State where
  agenda : List Turn
  cur : Option Cursor
  seq : Nat
  bootStep : Nat
  bootCode : Nat
  failed : Bool
  rootSv : Nat
  svcSv : Nat
  dbgSeen : Bool
  rootHash : BitVec 512
  svcHash : BitVec 512
  cxl : BitVec 2
  now : Nat
  skew : Assoc Nat
  epoch : BitVec 16
  mem : List Host.Cell
  vault : List Host.Cell
  vs : Assoc Nat
  hs : Assoc Nat
  tiles : Assoc W32
  tileCtx : Assoc (BitVec 20)
  lineKey : Assoc Nat
  keyOwner : Assoc (BitVec 20)
  keyGen : Assoc Nat
  keys : Nat
  poison : List Nat
  vpoison : List Nat
  l2bad : List Nat
  rasRows : Assoc (List Nat)
  rasLines : Assoc (List Nat)
  rasPend : List Nat
  spareRows : Assoc Nat
  spareLines : Assoc Nat
  regs : Assoc W64
  mt : Assoc Nat
  home : Assoc HomeLine
  l1 : List L1Line
  cbuf : List BufLine
  accs : List Acc
  bars : List Nat
  resv : List Resv
  scf : List ScFail
  portLt : Assoc Nat
  tlb : List Tlb
  micro : List Micro
  filters : Assoc Nat
  icode : List ICode
  invs : List Inv
  groups : List Group
  teams : List Team
  pastSpace : List PastSpace
  grids : List Grid
  rods : Assoc Rod
  stealCyc : Assoc Nat
  stealDone : List Nat
  stealSeed : Nat
  nextId : Nat
  resvd : List (Nat × Nat)
  preempts : List Preempt
  lastPop : Assoc Nat
  announced : Assoc Nat
  compl : List Compl
  gangs : List Gang
  members : List Member
  ops : List Op
  mq : Assoc (List MatOp)
  batches : Assoc Batch
  stopQ : List (Nat × StopRec)
  biasRun : Option (Nat × Nat × Bool)
  biasQ : List HeldWrite
  revoking : Option (BitVec 20 × BitVec 4)
  portDown : List Nat
  rerouted : List Nat
  incns : Assoc Nat
  replays : Assoc Nat
  limLow : Nat
  sampleCnt : Assoc Nat
  samplePick : Assoc Nat
  tags : Assoc Nat
  outbox : List Out
deriving DecidableEq, Repr

/-- The machine right after reset is released: nothing runs, no memory is listed, every counter is zero and every
register has the value its map states (Machine/Regs.lean holds the values that are not zero); the first boot step has
not been completed (31 R371, R372). Fields without a stated value are 0 or empty (assumptions 1 to 7). -/
def State.reset : State where
  agenda := []
  cur := none
  seq := 0
  bootStep := 0
  bootCode := 0
  failed := false
  rootSv := 0
  svcSv := 0
  dbgSeen := false
  rootHash := 0
  svcHash := 0
  cxl := 0
  now := 0
  skew := []
  epoch := 0
  mem := []
  vault := []
  vs := []
  hs := []
  tiles := []
  tileCtx := []
  lineKey := []
  keyOwner := []
  keyGen := []
  keys := 0
  poison := []
  vpoison := []
  l2bad := []
  rasRows := []
  rasLines := []
  rasPend := []
  spareRows := []
  spareLines := []
  regs := []
  mt := []
  home := []
  l1 := []
  cbuf := []
  accs := []
  bars := []
  resv := []
  scf := []
  portLt := []
  tlb := []
  micro := []
  filters := []
  icode := []
  invs := []
  groups := []
  teams := []
  pastSpace := []
  grids := []
  rods := []
  stealCyc := []
  stealDone := []
  stealSeed := 0
  nextId := 0
  resvd := []
  preempts := []
  lastPop := []
  announced := []
  compl := []
  gangs := []
  members := []
  ops := []
  mq := []
  batches := []
  stopQ := []
  biasRun := none
  biasQ := []
  revoking := none
  portDown := []
  rerouted := []
  incns := []
  replays := []
  limLow := 0
  sampleCnt := []
  samplePick := []
  tags := []
  outbox := []

end Sys2Proof.Machine
end

