-- ==== Sys2Proof/Machine/Map.lean ====
section
/-! DEFINITION. Finite maps in their one canonical form (rising keys, no entry equal to the default), byte memories
over them, and little-endian words (00 R6). -/

namespace Sys2Proof.Machine

/-- The value of key `x`, or the default `d`. -/
def mapGet {α : Type} (d : α) : Assoc α → Nat → α
  | [], _ => d
  | (k, a) :: m, x => if k = x then a else mapGet d m x

/-- The map without key `x`. -/
def mapDel {α : Type} : Assoc α → Nat → Assoc α
  | [], _ => []
  | (k, a) :: m, x => if k = x then mapDel m x else (k, a) :: mapDel m x

/-- The map with key `x` at `v`, keys kept rising. -/
def mapIns {α : Type} : Assoc α → Nat → α → Assoc α
  | [], x, v => [(x, v)]
  | (k, a) :: m, x, v =>
    if x < k then (x, v) :: (k, a) :: m else if k = x then (x, v) :: m else (k, a) :: mapIns m x v

/-- Write `v` at key `x`; the default is never listed. -/
def mapPut {α : Type} [DecidableEq α] (d : α) (m : Assoc α) (x : Nat) (v : α) : Assoc α :=
  if v = d then mapDel m x else mapIns m x v

/-- Every key of the map is above `b`, keys rise, and no value is the default. -/
def mapWfAbove {α : Type} [DecidableEq α] (d : α) : Option Nat → Assoc α → Bool
  | _, [] => true
  | b, (k, a) :: m => (match b with | none => true | some j => decide (j < k)) && (a != d) && mapWfAbove d (some k) m

/-- The canonical form of a map over the default `d`. -/
def mapWf {α : Type} [DecidableEq α] (d : α) (m : Assoc α) : Bool := mapWfAbove d none m

/-- One byte of a memory; an unlisted byte reads 0 (assumption 5 for HBM; 31 R371 clears the vaults). -/
def readByte (m : List Host.Cell) (a : Nat) : Byte := mapGet 0 m a

/-- Store one byte. -/
def writeByte (m : List Host.Cell) (a : Nat) (b : Byte) : List Host.Cell := mapPut 0 m a b

/-- `n` bytes from `a`, little-endian (00 R6). -/
def readN (m : List Host.Cell) (a : Nat) : Nat → Nat
  | 0 => 0
  | n + 1 => (readByte m a).toNat + 256 * readN m (a + 1) n

/-- Store the low `n` bytes of `v` from `a`, little-endian (00 R6). -/
def writeN (m : List Host.Cell) (a : Nat) : Nat → Nat → List Host.Cell
  | 0, _ => m
  | n + 1, v => writeN (writeByte m a (BitVec.ofNat 8 v)) (a + 1) n (v / 256)

/-- Store a list of bytes from `a`. -/
def writeBytes (m : List Host.Cell) (a : Nat) : List Byte → List Host.Cell
  | [] => m
  | b :: bs => writeBytes (writeByte m a b) (a + 1) bs

/-- Store those bytes of the value that the mask selects, byte i of `msk`-bit i. -/
def writeMasked (m : List Host.Cell) (a : Nat) (msk : Nat) : Nat → Nat → List Host.Cell
  | 0, _ => m
  | n + 1, v =>
    writeMasked (if msk % 2 = 1 then writeByte m a (BitVec.ofNat 8 v) else m) (a + 1) (msk / 2) n (v / 256)

/-- The canonical form of a byte memory. -/
def Memory.wf (m : List Host.Cell) : Bool := mapWf (0 : Byte) m

/-- Bits [hi:lo] of a number. -/
def bits (x hi lo : Nat) : Nat := x / 2 ^ lo % 2 ^ (hi + 1 - lo)

/-- A field of `n` bits from a number. -/
def fld (n hi lo x : Nat) : BitVec n := BitVec.ofNat n (bits x hi lo)

/-- Bit i of a number. -/
def bit (x i : Nat) : Bool := x.testBit i

/-- The first element that satisfies `f`, replaced by `g` of it. -/
def updFirst {α : Type} (f : α → Bool) (g : α → α) : List α → List α
  | [] => []
  | x :: r => if f x then g x :: r else x :: updFirst f g r

/-- The list without its element at index `k`. -/
def dropAt {α : Type} : List α → Nat → List α
  | [], _ => []
  | _ :: r, 0 => r
  | x :: r, k + 1 => x :: dropAt r k

/-- The list with element `k` changed by `g`. -/
def updAt {α : Type} (g : α → α) : List α → Nat → List α
  | [], _ => []
  | x :: r, 0 => g x :: r
  | x :: r, k + 1 => x :: updAt g r k

/-- The larger of two stamps for each element of a list. -/
def maxList (b : Nat) (l : List Nat) : Nat := l.foldl Nat.max b

/-- The smallest element of a list, if it has one. -/
def minList : List Nat → Option Nat
  | [] => none
  | x :: r => some (r.foldl Nat.min x)

/-- The elements of a list without repeats, the first of each kept. -/
def dedup {α : Type} [DecidableEq α] (l : List α) : List α :=
  l.foldl (fun acc x => if acc.contains x then acc else acc ++ [x]) []

end Sys2Proof.Machine
end

