-- ==== Sys2Proof/Machine/Bits.lean ====
section
/-! DEFINITION. Lane masks, signed readings, and access to the registers, lanes and split-table entries of a group. -/

namespace Sys2Proof.Machine

/-- The lanes of a mask, ascending, below the width (00 R11, 03 R31). -/
def lanesOf (w : Nat) (m : W64) : List Nat := (List.range w).filter fun l => m.getLsbD l

/-- The mask of a list of lanes. -/
def maskOf (ls : List Nat) : W64 := ls.foldl (fun m l => m ||| BitVec.twoPow 64 l) 0

/-- The mask of the lanes below `w` that satisfy `f`. -/
def maskWhere (w : Nat) (f : Nat → Bool) : W64 := maskOf ((List.range w).filter f)

/-- The lowest lane of a mask. -/
def lowestLane (w : Nat) (m : W64) : Option Nat := (lanesOf w m).head?

/-- The lanes that do not exist carry no bit: the full mask of width `w` (03 R31). -/
def fullMask (w : Nat) : W64 := BitVec.ofNat 64 (2 ^ w - 1)

/-- `x` narrowed to n bits, unsigned (00 R11). -/
def narrow (n : Nat) (x : Int) : BitVec n := BitVec.ofInt n x

/-- Sat (00 R11). -/
def sat (x lo hi : Int) : Int := if x < lo then lo else if hi < x then hi else x

/-- A six-bit immediate read as two's complement (05 R64, S6). -/
def simm6 (x : BitVec 6) : Int := x.toInt

/-- A twelve-bit immediate read as two's complement (05 R64, I12). -/
def simm12 (x : BitVec 12) : Int := x.toInt

/-- A new lane's state (03 R46): PC at the entry, no meeting address, empty stack. -/
def newLane (pc : W64) (exited : Bool) : Lane :=
  ⟨pc, Config.none64, [], 0, exited, false, .none, none, false⟩

/-- A free split-table entry (03 R33, Reset column of entries 1 to 15). -/
def freeEntry : Entry := ⟨false, 0, 0, 0, Config.none64, 0, 0, .ready, 0, 0, false⟩

/-- No instruction in flight. -/
def noFlight : Flight := ⟨0, 0, 0, 0, 0, ⟨[], [], []⟩, []⟩

/-- An address register at group start: no range, no permission (03 R46). -/
def aregZero : AReg := ⟨0, 0, 0, 0, 0⟩

/-- An index register at group start (03 R46). -/
def iregZero : IReg := ⟨0, 0⟩

/-- The bits of sr.rmode that are not reserved (07 R90). -/
def rmodeMask : W32 := 0x1B

/-- The bits of sr.tbase that are not reserved (09 R131). -/
def tbaseMask : W32 := 0x80000FFF

/-- Lane `l` of a group; a lane that does not exist reads as exited (03 R31). -/
def laneAt (g : Group) (l : Nat) : Lane := g.lanes.getD l (newLane 0 true)

/-- Entry `e` of a group's split table. -/
def entAt (g : Group) (e : Nat) : Entry := g.ents.getD e freeEntry

/-- Change lane `l`. -/
def setLane (g : Group) (l : Nat) (x : Lane) : Group := { g with lanes := g.lanes.set l x }

/-- Change every lane of a mask. -/
def updLanes (g : Group) (m : W64) (f : Nat → Lane → Lane) : Group :=
  { g with lanes := g.lanes.mapIdx fun l x => if m.getLsbD l then f l x else x }

/-- Change entry `e`. -/
def setEnt (g : Group) (e : Nat) (x : Entry) : Group := { g with ents := g.ents.set e x }

/-- A lane register v r of lane l (05 R58). -/
def getV (g : Group) (r l : Nat) : W32 := mapGet 0 g.v (64 * r + l)

/-- Write a lane register. -/
def setV (g : Group) (r l : Nat) (x : W32) : Group := { g with v := mapPut 0 g.v (64 * r + l) x }

/-- A 64-bit value in a pair of lane registers: the lower number holds bits [31:0] (05 R58). -/
def getV2 (g : Group) (r l : Nat) : W64 := getV g (r + 1) l ++ getV g r l

/-- Write a pair of lane registers. -/
def setV2 (g : Group) (r l : Nat) (x : W64) : Group :=
  setV (setV g r l (x.extractLsb' 0 32)) (r + 1) l (x.extractLsb' 32 32)

/-- A uniform register (05 R58). -/
def getS (g : Group) (r : Nat) : W32 := mapGet 0 g.s r

/-- Write a uniform register. -/
def setS (g : Group) (r : Nat) (x : W32) : Group := { g with s := mapPut 0 g.s r x }

/-- A uniform pair (05 R58). -/
def getS2 (g : Group) (r : Nat) : W64 := getS g (r + 1) ++ getS g r

/-- Write a uniform pair. -/
def setS2 (g : Group) (r : Nat) (x : W64) : Group :=
  setS (setS g r (x.extractLsb' 0 32)) (r + 1) (x.extractLsb' 32 32)

/-- The lane mask of a predicate; p7 is pt and reads true in every lane (05 R58). -/
def getP (g : Group) (r : Nat) : W64 := if r = 7 then fullMask g.w else mapGet 0 g.p r

/-- A predicate of one lane. -/
def getPl (g : Group) (r l : Nat) : Bool := (getP g r).getLsbD l

/-- Write a predicate of one lane; a write to pt is discarded (05 R58). -/
def setPl (g : Group) (r l : Nat) (b : Bool) : Group :=
  let m := if b then mapGet 0 g.p r ||| BitVec.twoPow 64 l else mapGet 0 g.p r &&& ~~~ BitVec.twoPow 64 l
  if r = 7 then g else { g with p := mapPut 0 g.p r m }

/-- A uniform predicate; q7 is qt and reads true (05 R58). -/
def getQ (g : Group) (r : Nat) : Bool := if r = 7 then true else mapGet false g.q r

/-- Write a uniform predicate; a write to qt is discarded (05 R58). -/
def setQ (g : Group) (r : Nat) (b : Bool) : Group := if r = 7 then g else { g with q := mapPut false g.q r b }

/-- An address register (05 R60). -/
def getA (g : Group) (r : Nat) : AReg := mapGet aregZero g.a r

/-- Write an address register. -/
def setA (g : Group) (r : Nat) (x : AReg) : Group := { g with a := mapPut aregZero g.a r x }

/-- An index register (05 R61). -/
def getI (g : Group) (r : Nat) : IReg := mapGet iregZero g.i r

/-- Write an index register. -/
def setI (g : Group) (r : Nat) (x : IReg) : Group := { g with i := mapPut iregZero g.i r x }

/-- The lanes of a group that have not exited (03 R32). -/
def liveMask (g : Group) : W64 := maskWhere g.w fun l => !(laneAt g l).exited

/-- The core is an L-core: its number is even (01 R17). -/
def isLCore (c : Nat) : Bool := c % 2 == 0

/-- The C-die of a core (01 R17). -/
def dieOf (c : Nat) : Nat := c / 16

/-- The pair of a core (01 R17). -/
def pairOf (c : Nat) : Nat := c / 2

/-- The group runs the L-form: its core is an L-core (05 R59). -/
def formL (g : Group) : Bool := isLCore g.core

/-- Image start of the form the group runs (05 R59). -/
def imageStart (g : Group) : W64 := if formL g then g.ker.ibL else g.ker.ibD

/-- `.regs` of the form the group runs (05 R62). -/
def regsOf (g : Group) : Nat := if formL g then g.ker.regsL else g.ker.regsD

/-- Stepping tag of the form the group runs (05 R76). -/
def tagOf (g : Group) : BitVec 16 := if formL g then g.ker.tagL else g.ker.tagD

/-- Native mode: the image carries the part's own tag (05 R76). -/
def native (g : Group) : Bool := tagOf g == Config.ownTag

/-- The group is in a resident slot. -/
def isResident (g : Group) : Bool :=
  match g.res with
  | .resident _ => true
  | _ => false

/-- The resident slot of a group, 0 for a group that is not resident. -/
def slotOf (g : Group) : Nat :=
  match g.res with
  | .resident k => k
  | _ => 0

/-- The group of an identifier. -/
def getGroup (s : State) (gid : Nat) : Option Group := s.groups.find? fun g => g.gid == gid

/-- Replace the group that has `g`'s identifier. -/
def setGroup (s : State) (g : Group) : State :=
  { s with groups := s.groups.map fun x => if x.gid == g.gid then g else x }

/-- Change the group of an identifier, if it exists. -/
def updGroup (s : State) (gid : Nat) (f : Group → Group) : State :=
  { s with groups := s.groups.map fun x => if x.gid == gid then f x else x }

/-- The team of an identifier. -/
def getTeam (s : State) (id : Nat) : Option Team := s.teams.find? fun t => t.id == id

/-- Change the team of an identifier. -/
def updTeam (s : State) (id : Nat) (f : Team → Team) : State :=
  { s with teams := s.teams.map fun t => if t.id == id then f t else t }

/-- Take the next free choice: one bit at the counter, which advances (assumption 2). -/
def drawBit (s : State) : Bool × State := (Config.choice s.seq % 2 == 1, { s with seq := s.seq + 1 })

end Sys2Proof.Machine
end

