-- ==== Sys2Proof/Machine/Regs.lean ====
section
/-! DEFINITION. The register window (31 R360): offsets, the bits a plain write sets in each register, what a read returns,
and the fields the other files use. Commands that a write starts are in Machine/Commands.lean. -/

namespace Sys2Proof.Machine

/-- Bits [hi:lo] set. -/
def span (hi lo : Nat) : W64 := BitVec.ofNat 64 (2 ^ (hi + 1) - 2 ^ lo)

/-- Offset of a register of the translation-control block: FRINGc (17 R225). -/
def offFring (c : Nat) : Nat := 0x1000 + 8 * c
/-- FRES_VA (17 R228). -/
def offFresVa : Nat := 0x1020
/-- FRES_CMD (17 R228). -/
def offFresCmd : Nat := 0x1028
/-- INV_VA (17 R237). -/
def offInvVa : Nat := 0x1030
/-- INV_CMD (17 R237). -/
def offInvCmd : Nat := 0x1038
/-- Base of the address-space descriptors (17 R230). -/
def offAsd : Nat := 0x1040
/-- CTXTAB (21 R265). -/
def offCtxtab : Nat := 0x2000
/-- Word `w` of the descriptor of interface `i` (21 R267). -/
def offQif (i w : Nat) : Nat := 0x10000 + 64 * i + 8 * w
/-- FS2ROOT of function `f` (25 R318). -/
def offFs2root (f : Nat) : Nat := 0x20000 + 0x1000 * f
/-- FSTAT of function `f` (25 R318). -/
def offFstat (f : Nat) : Nat := 0x20008 + 0x1000 * f
/-- FKEY of function `f` (31 R360). -/
def offFkey (f : Nat) : Nat := 0x20010 + 0x1000 * f
/-- PAMAP (25 R319). -/
def offPamap : Nat := 0x30000
/-- REVOKE (25 R319). -/
def offRevoke : Nat := 0x30008
/-- BIASPA (25 R324). -/
def offBiaspa : Nat := 0x30010
/-- BIASCMD (25 R324). -/
def offBiascmd : Nat := 0x30018
/-- IRTBASE (25 R325). -/
def offIrtbase : Nat := 0x30020
/-- Base of the bias table (25 R322). -/
def offBias : Nat := 0x30028
/-- Base of the routing table (25 R327). -/
def offRoute : Nat := 0x30030
/-- Base of the export table (25 R328). -/
def offExport : Nat := 0x30038
/-- IRTSYNC (25 R325). -/
def offIrtsync : Nat := 0x30040
/-- Word `w` of member entry `k` (25 R331). -/
def offMember (k w : Nat) : Nat := 0x30400 + 32 * k + 8 * w
/-- Low half of DBGATTk (29 R344); the high half is 8 above. -/
def offDbgatt (k : Nat) : Nat := 0x40000 + 0x400 * k
/-- Low half of watchpoint `j` of slot `k` (29 R345). -/
def offWp (k j : Nat) : Nat := 0x40040 + 0x400 * k + 16 * j
/-- DACC (29 R350). -/
def offDacc : Nat := 0x43000
/-- DDATA (29 R350). -/
def offDdata : Nat := 0x43008
/-- SKEWd (29 R354). -/
def offSkew (d : Nat) : Nat := 0x43100 + 8 * d
/-- PSKEWp (29 R354). -/
def offPskew (p : Nat) : Nat := 0x43200 + 8 * p
/-- Low half of TRCTL of core `c` (29 R351). -/
def offTrctl (c : Nat) : Nat := 0x100000 + 0x1000 * c
/-- Low half of PRFCTL of core `c` (29 R355). -/
def offPrfctl (c : Nat) : Nat := 0x100010 + 0x1000 * c
/-- PRFPOS of core `c` (29 R355). -/
def offPrfpos (c : Nat) : Nat := 0x100020 + 0x1000 * c
/-- ISLCTLn (31 R369). -/
def offIslctl (n : Nat) : Nat := 0x200000 + 8 * n
/-- PLIMIT (31 R370). -/
def offPlimit : Nat := 0x200400
/-- RASRING (31 R368). -/
def offRasring : Nat := 0x200410
/-- RASTAIL (31 R368). -/
def offRastail : Nat := 0x200418
/-- MBOX (31 R361). -/
def offMbox : Nat := 0x200800

/-- The bits of a register that a write sets (access RW; 00 R5, R9; 31 R360). Every other bit of the window is RO, WO,
W1C, RZ or unassigned. -/
def regMask (off : Nat) : W64 :=
  if off = 0 then span 19 0
  else if 0x1000 ≤ off ∧ off < 0x1020 then span 63 6 ||| 1
  else if off = offFresVa ∨ off = offInvVa then span 63 12
  else if off = offFresCmd ∨ off = offInvCmd then span 63 17
  else if off = offAsd then span 63 0
  else if off = offCtxtab then span 63 12
  else if 0x10000 ≤ off ∧ off < 0x14000 then
    let w := off / 8 % 8
    if w = 7 ∨ w = 6 then span 63 0 else if w = 4 then span 31 0 else if w = 3 then span 63 42 else 0
  else if 0x20000 ≤ off ∧ off < 0x24000 then
    if off % 0x1000 = 0 then span 63 12 ||| 1
    else if off % 0x1000 = 8 then span 63 32
    else if off % 0x1000 = 16 then span 12 0 else 0
  else if off = offPamap then span 63 20 ||| 1
  else if off = offRevoke then span 63 40
  else if off = offBiaspa then span 63 12
  else if off = offBiascmd then span 63 40 ||| span 1 1
  else if off = offIrtbase then span 63 12 ||| 1
  else if off = offBias ∨ off = offRoute ∨ off = offExport then span 63 0
  else if 0x30400 ≤ off ∧ off < 0x30600 then
    let w := off / 8 % 4
    if w = 3 ∨ w = 2 then span 63 0 else if w = 1 then span 63 56 else 1
  else if 0x40000 ≤ off ∧ off < 0x41000 then
    let r := off % 0x400
    if r = 0 then span 63 32 ||| span 23 16 ||| span 1 0
    else if r = 8 then span 63 0
    else if 0x40 ≤ r ∧ r < 0xC0 then (if r % 16 = 0 then span 63 32 ||| span 3 0 else span 63 0)
    else 0
  else if off = offDacc then span 63 30 ||| span 1 1
  else if off = offDdata then span 63 0
  else if 0x100000 ≤ off ∧ off < 0x140000 then
    let r := off % 0x1000
    if r = 0 then span 63 40 ||| span 1 0
    else if r = 0x10 then span 63 36 ||| span 1 0
    else if r = 8 ∨ r = 0x18 then span 63 0 else 0
  else if 0x200000 ≤ off ∧ off < 0x200240 then span 8 8 ||| span 2 0
  else if off = offPlimit then span 11 0
  else if off = offRasring then span 63 8 ||| 1
  else if off = offMbox then span 63 6
  else 0

/-- The bits a write of 1 clears (00 R9 W1C): RF of FSTAT (25 R318). -/
def regW1c (off : Nat) : W64 := if 0x20000 ≤ off ∧ off < 0x24000 ∧ off % 0x1000 = 8 then 1 else 0

/-- The registers that only root firmware writes (31 R358, R360). -/
def rootOnly (off : Nat) : Bool :=
  off == 0 || off == offAsd || off == offPamap || off == offRevoke || off == offBias || off == offRoute ||
    off == offExport || (0x20000 ≤ off && off < 0x24000 && off % 0x1000 == 16)

/-- The stored word of a register. -/
def regGet (s : State) (off : Nat) : W64 := mapGet 0 s.regs off

/-- Set the stored word of a register. -/
def regSet (s : State) (off : Nat) (v : W64) : State := { s with regs := mapPut 0 s.regs off v }

/-- Set bits [hi:lo] of a stored register word. -/
def regSetField (s : State) (off hi lo : Nat) (v : Nat) : State :=
  regSet s off ((regGet s off &&& ~~~ span hi lo) ||| (BitVec.ofNat 64 (v * 2 ^ lo) &&& span hi lo))

/-- Bits [hi:lo] of a stored register word. -/
def regField (s : State) (off hi lo : Nat) : Nat := bits (regGet s off).toNat hi lo

/-- What a read of a register returns (00 R9; 31 R360): the stored word; BOOTSTAT (R372), the identity key (R363), the
DONE bits and PLIMIT's reset value (R370) are formed here. Bit 0 of the stored MBOX word marks an unanswered request, bit 3 of the
stored ISLCTLn word a request that has not taken effect (R369). -/
def regRead (s : State) (off : Nat) : W64 :=
  if off = 0x10 then BitVec.ofNat 64 (256 * (s.bootCode % 256) + s.bootStep % 256)
  else if 0x20 ≤ off ∧ off < 0x40 then Config.identityKey (off / 8 - 4)
  else if off = offInvCmd then regGet s off ||| (if s.invs.isEmpty then 2 else 0)
  else if off = offRevoke then regGet s off ||| (if s.revoking.isSome then 0 else 2)
  else if off = offBiascmd then regGet s off ||| (if s.biasRun.isSome then 0 else 4)
  else if off = offDacc then regGet s off ||| 4
  else if off = offMbox then (regGet s off &&& ~~~1#64) ||| (if (regGet s off).getLsbD 0 then 0 else 2)
  else if off = offPlimit then (if regGet s off = 0 then 2000 else regGet s off)
  else if 0x200000 ≤ off ∧ off < 0x200240 then regGet s off &&& ~~~8#64
  else regGet s off

/-- A plain write: bits of code RW take the written value, bits of code W1C written as 1 are cleared, every other bit
stays (00 R9). PLIMIT stores its saturated value (31 R370), and ISLCTLn a value its island admits (31 R369). -/
def regStore (s : State) (off : Nat) (v : W64) : State :=
  let m := regMask off
  let old := regGet s off
  let new := ((old &&& ~~~m) ||| (v &&& m)) &&& ~~~(v &&& regW1c off)
  if off = offPlimit then
    regSet s off (BitVec.ofNat 64 (max 1400 (min 2200 (v.toNat % 4096))))
  else if 0x200000 ≤ off ∧ off < 0x200240 then
    let req := v.toNat % 8
    let req := if off < offIslctl 64 then (if req ≤ 4 then req else 4) else (if req ≤ 2 then req else 2)
    regSet s off ((new &&& ~~~ span 2 0) ||| 8 ||| BitVec.ofNat 64 req)
  else regSet s off new

/-- LIMIT of PLIMIT in watts (31 R370). -/
def plimit (s : State) : Nat := (regRead s offPlimit).toNat % 4096

/-- CUR of an island (31 R369). -/
def islCur (s : State) (n : Nat) : Nat := regField s (offIslctl n) 6 4

/-- The clocks of a core are stopped: its island holds its pipelines and its matrix array (01 R26; 31 R369). -/
def gated (s : State) (core : Nat) : Bool := islCur s core == 4

/-- Device time of a die's counter: C-die 0's time and the die's offset (01 R25; 29 R354). -/
def dtime (s : State) (die : Nat) : W64 := BitVec.ofNat 64 (s.now + mapGet 0 s.skew die)

/-- DEVID (25 R326). -/
def devid (s : State) : Nat := regField s 0 19 0

/-- INCN (25 R326). -/
def incn (s : State) : Nat := regField s 8 31 0

/-- Fields of an interface descriptor (21 R267). -/
structure Qif where
  rbase : Nat
  cbase : Nat
  rtail : Nat
  rhead : Nat
  ctail : Nat
  chead : Nat
  func : Nat
  rsize : Nat
  csize : Nat
  prio : Nat
  front : Nat
  en : Bool
deriving DecidableEq, Repr

/-- The descriptor of interface `i`. -/
def qif (s : State) (i : Nat) : Qif :=
  let w := fun k => (regGet s (offQif i k)).toNat
  ⟨w 7, w 6, bits (w 5) 63 32, bits (w 5) 31 0, bits (w 4) 63 32, bits (w 4) 31 0, bits (w 3) 63 56, bits (w 3) 55 52,
    bits (w 3) 51 48, bits (w 3) 47 45, bits (w 3) 44 43, bit (w 3) 42⟩

/-- The interfaces below `i` whose FUNC names `f` (25 R316). -/
def funcBelow (s : State) (f i : Nat) : Nat := ((List.range i).filter fun j => (qif s j).func == f).length

/-- The interface acts as enabled: EN = 1, sizes 6 to 15, FUNC 0 to 3, and among the first 64 of its function
(21 R267; 25 R316). -/
def qifLive (s : State) (i : Nat) : Bool :=
  let q := qif s i
  q.en && 6 ≤ q.rsize && 6 ≤ q.csize && q.func ≤ 3 && funcBelow s q.func i < 64

/-- The enabled debug slot that serves a context, the lowest-numbered one (29 R344). -/
def debugSlot (s : State) (pasid : BitVec 20) : Option Nat :=
  (List.range 4).find? fun k => regField s (offDbgatt k) 0 0 == 1 && regField s (offDbgatt k) 63 44 == pasid.toNat

/-- Word of a member entry (25 R331). -/
def memberWord (s : State) (k w : Nat) : Nat := (regGet s (offMember k w)).toNat

/-- GBAR64 of a member entry (25 R331). -/
def memberGbar (s : State) (k : Nat) : Nat := 256 * bits (memberWord s k 2) 11 0 + bits (memberWord s k 1) 63 56

end Sys2Proof.Machine
end

