-- ==== Sys2Proof/Machine/Walk.lean ====
section
/-! DEFINITION. Physical memory under encryption (31 R362) and poison (31 R366), and address translation: descriptors,
range trees, radix tables and stage 2 (17 R230 to R236; 25 R321). -/

namespace Sys2Proof.Machine

/-- The key a slot holds: its slot and how many keys were drawn when it was filled; slot 0 is the service key
(31 R361, R362). -/
def keyOf (s : State) (slot : Nat) : Nat := if slot = 0 then 0 else 8192 * mapGet 0 s.keyGen slot + slot

/-- Line number of an address. -/
def lineOf (a : Nat) : Nat := a / 128

/-- The 128 bytes of a physical line as stored. -/
def rawLine (s : State) (l : Nat) : Line := BitVec.ofNat 1024 (readN s.mem (128 * l) 128)

/-- A physical line as a reader with key `k` sees it (31 R362). -/
def clearLine (s : State) (k l : Nat) : Line :=
  let w := mapGet 0 s.lineKey l
  if w = k then rawLine s l else Config.xtsMix w k l (rawLine s l)

/-- `n` bytes of device memory inside one line, read with key `k` (31 R362). Host windows are not encrypted. -/
def memRead (s : State) (k pa n : Nat) : Nat :=
  let l := lineOf pa
  if Config.memSize ≤ pa ∨ mapGet 0 s.lineKey l = k then readN s.mem pa n
  else bits (clearLine s k l).toNat (8 * (pa % 128) + 8 * n - 1) (8 * (pa % 128))

/-- Make a line one that key `k` wrote, keeping what that key reads in it (31 R362). -/
def rekey (s : State) (k l : Nat) : State :=
  if mapGet 0 s.lineKey l = k then s
  else { s with mem := writeN s.mem (128 * l) 128 (clearLine s k l).toNat, lineKey := mapPut 0 s.lineKey l k }

/-- Store `n` bytes of device or host memory inside one line with key `k`; a write to a poisoned line is dropped
(31 R362, R366). -/
def memWrite (s : State) (k pa n v : Nat) : State :=
  if s.poison.contains (lineOf pa) && pa < Config.memSize then s
  else if Config.memSize ≤ pa then { s with mem := writeN s.mem pa n v }
  else
    let s := rekey s k (lineOf pa)
    { s with mem := writeN s.mem pa n v }

/-- Store a number as little-endian 64-bit words from `pa`. -/
def memWriteWords (s : State) (k pa : Nat) : List Nat → State
  | [] => s
  | w :: ws => memWriteWords (memWrite s k pa 8 w) k (pa + 8) ws

/-- `n` 64-bit words from `pa`, the first lowest. -/
def memReadWords (s : State) (k pa : Nat) : Nat → List Nat
  | 0 => []
  | n + 1 => memRead s k pa 8 :: memReadWords s k (pa + 8) n

/-- A list of 64-bit words as one number, the first lowest. -/
def wordsVal : List Nat → Nat
  | [] => 0
  | w :: ws => w % 2 ^ 64 + 2 ^ 64 * wordsVal ws

/-- The `n` low 64-bit words of a number, the first lowest. -/
def valWords (v : Nat) : Nat → List Nat
  | 0 => []
  | n + 1 => v % 2 ^ 64 :: valWords (v / 2 ^ 64) n

/-- The root region (31 R359). -/
def inRoot (pa : Nat) : Bool := Config.rootBase ≤ pa && pa < Config.memSize

/-- The host memory windows (25 R321). -/
def inHost (pa : Nat) : Bool := 0x1000000000000 ≤ pa && pa < 0x3000000000000

/-- The register window (31 R360). -/
def inRegs (pa : Nat) : Bool := Config.regBase ≤ pa && pa < Config.regBase + Config.regSize

/-- The host port of a host-window address (25 R321). -/
def hostPort (pa : Nat) : Nat := pa / 0x1000000000000 - 1

/-- INFO of an uncorrectable error in a line of device memory (17 R211): 2 when its M-die's L2 has lost it, 0 when HBM has. -/
def eccInfo (s : State) (l : Nat) : BitVec 16 := if s.l2bad.contains l then 2 else 0

/-- How a translation fails (17 R234, R235): a missing page, PERM with its INFO, or an uncorrectable error met by the
walk, with its INFO. -/
inductive XErr where
  | page (page : Nat) (s2 : Bool)
  | perm (info : Nat)
  | ecc (info : BitVec 16)
deriving DecidableEq, Repr

/-- A finished translation: physical address, permissions X W R in bits 2 to 0, the guest pages used. -/
structure XOk where
  pa : Nat
  perm : Nat
  s2pages : List Nat
deriving DecidableEq, Repr

/-- The permission bits an access needs, R = 1, W = 2, X = 4 (17 R234). -/
def hasPerm (perm need : Nat) : Bool := perm &&& need == need

/-- A 64-bit word that a walk reads, with the key of slot 0; the walker reads the root region too (31 R362; assumption 8). Outside device
and host memory it is refused as the access would be (25 R321). -/
def walkWord (s : State) (pa : Nat) : Except XErr Nat :=
  if !(pa < Config.memSize || inHost pa) then .error (.perm 4)
  else if pa < Config.memSize && s.poison.contains (lineOf pa) then .error (.ecc (eccInfo s (lineOf pa)))
  else .ok (memRead s 0 pa 8)

/-- Reserved bits of a radix entry (17 R233). -/
def radixRsv : Nat := 2 ^ 64 - 2 ^ 52 + 0xF00 + 0x30

/-- A walk: it may fail, and it collects the guest pages it reads through stage 2 (17 R235, R237). -/
abbrev XM := StateT (List Nat) (Except XErr)

/-- The radix entry of a level-4 index, or of another valid member of its 64 KiB block when both have C64 set, whether or not the own
entry is valid: which one is the device's choice `ch` (17 R236). Answers the entry and the index it stands at. -/
def c64Entry (read : Nat → XM Nat) (t idx ch : Nat) : XM (Nat × Nat) := do
  let e ← read (t + 8 * idx)
  if bit e 7 then
    let j := idx / 16 * 16 + ch % 16
    let e' ← read (t + 8 * j)
    if bit e' 7 && bit e' 0 then return (e', j) else return (e, idx)
  else return (e, idx)

/-- Levels `l` to 4 of a radix walk of offset `o` from table `t` (17 R233, R234): the leaf's address and permissions.
`lvls` counts the levels left, `miss` is the PAGE of a V = 0. -/
def radixWalk (read : Nat → XM Nat) (miss : XErr) (o ch : Nat) : Nat → Nat → XM (Nat × Nat)
  | 0, _ => throw (.perm 4)
  | lvls + 1, t => do
    let idx := bits o (9 * lvls + 20) (9 * lvls + 12)
    let (e, j) ← if lvls = 0 then c64Entry read t idx ch else (fun e => (e, idx)) <$> read (t + 8 * idx)
    if !bit e 0 then throw miss
    else if e &&& radixRsv != 0 then throw (.perm 4)
    else if lvls = 3 && bit e 6 then throw (.perm 4)
    else
      let pa := bits e 51 12 * 4096
      if lvls = 0 || bit e 6 then
        let size := 2 ^ (9 * lvls + 12)
        if pa % size != 0 then throw (.perm 4)
        else if j = idx then return (pa + o % size, bits e 3 1)
        else return (pa / 65536 * 65536 + o % 65536, bits e 3 1)
      else radixWalk read miss o ch lvls pa

/-- Stage 2 of guest physical address `g` from the table at `root` (17 R235). -/
def stage2 (s : State) (root ch g need : Nat) : Except XErr Nat :=
  if 2 ^ 48 ≤ g then .error (.perm 2)
  else do
    let ((pa, perm), _) ← (radixWalk (fun a => walkWord s a) (.page (g / 4096 * 4096) true) g ch 4 root).run []
    if hasPerm perm need then return pa else .error (.perm 2)

/-- A range-tree walk (17 R231) from a node: internal nodes down to the leaf, at most six nodes. -/
def treeLeaf (read : Nat → XM Nat) (v : Nat) : Nat → Nat → XM Nat
  | 0, _ => throw (.perm 4)
  | fuel + 1, node => do
    let h ← read node
    let n := h % 32
    if h &&& (2 ^ 64 - 1 - 0x11F) != 0 then throw (.perm 4)
    else if bit h 8 then
      if 7 < n then throw (.perm 4)
      else
        let w1 ← read (node + 8)
        let w2 ← read (node + 16)
        let w3 ← read (node + 24)
        if w1 != 0 || w2 != 0 || w3 != 0 then throw (.perm 4) else return node
    else if n < 2 || 16 < n then throw (.perm 4)
    else
      let k ← (List.range n).foldlM (init := 0) fun k j =>
        if j = 0 then return 0 else do
          let key ← read (node + 8 * j)
          return if key ≤ v then j else k
      let c ← read (node + 128 + 8 * k)
      treeLeaf read v fuel c

/-- A reserved bit of a range entry's attributes is set (17 R232, R234). -/
def rangeBad (attr : Nat) : Bool := attr &&& (2 ^ 64 - 1 - 0xF00F) != 0

/-- The words LIMIT, BASE, TARGET and attributes of the lowest valid range entry of a leaf that holds `v`
(17 R231, R232). A reserved bit of any entry that the walk reads, those before the one it takes too, is
PERM with INFO 4, and so is KIND 2 to 15 of the entry it takes (R234; log entry 84). -/
def leafEntry (read : Nat → XM Nat) (v node : Nat) : Nat → Nat → XM (Option (Nat × Nat × Nat))
  | 0, _ => return none
  | cnt + 1, j => do
    let at_ ← read (node + 32 + 32 * j)
    let base ← read (node + 32 + 32 * j + 16)
    let lim ← read (node + 32 + 32 * j + 24)
    if rangeBad at_ then throw (.perm 4)
    else if bit at_ 0 && base ≤ v && v < lim then
      if 1 < bits at_ 15 12 then throw (.perm 4) else
        let tgt ← read (node + 32 + 32 * j + 8)
        return some (base, tgt, at_)
    else leafEntry read v node cnt (j + 1)

/-- Address of the descriptor of an address space (17 R230). -/
def asdAddr (s : State) (pasid : BitVec 20) : Nat := (regGet s offAsd).toNat + 64 * pasid.toNat

/-- A word of the descriptor of an address space, read with the key of slot 0 (31 R362; assumption 8). -/
def asdWord (s : State) (pasid : BitVec 20) (w : Nat) : Nat := memRead s 0 (asdAddr s pasid + 8 * w) 8

/-- The encryption key of an address space (31 R362); PASID 0 is the front groups', slot 0. -/
def pasidKey (s : State) (pasid : BitVec 20) : Nat :=
  if pasid = 0 then 0 else keyOf s (bits (asdWord s pasid 0) 45 33)

/-- What a physical address that translation produces names (25 R321; 31 R359). -/
def targetOk (pa : Nat) : Bool := (pa < Config.rootBase) || inHost pa

/-- A word of a translation structure at `a`: through stage 2 with permission R when the space has one (17 R235). -/
def treeWord (s : State) (s2 : Bool) (root2 ch a : Nat) : XM Nat :=
  if s2 then do
    modify (a / 4096 :: ·)
    let pa ← stage2 s root2 ch a 1
    walkWord s pa
  else walkWord s a

/-- The stage-1 leaf for `v` in the tree at `node`: address and permissions (17 R231 to R234). -/
def stage1 (read : Nat → XM Nat) (v ch node : Nat) : XM (Nat × Nat) := do
  let leaf ← treeLeaf read v 6 node
  let h ← read leaf
  match ← leafEntry read v leaf (h % 32) 0 with
  | none => throw (.page (v / 4096 * 4096) false)
  | some (base, tgt, attr) =>
    if bits attr 15 12 = 0 then return (tgt + (v - base), bits attr 3 1)
    else if 2 ^ 48 ≤ v - base then throw (.page (v / 4096 * 4096) false)
    else
      let (pa, perm) ← radixWalk read (.page (v / 4096 * 4096) false) (v - base) ch 4 tgt
      return (pa, perm &&& bits attr 3 1)

/-- The descriptor of an address space is usable: V set and no reserved bit set (17 R230, R234). -/
def asdOk (s : State) (pasid : BitVec 20) : Bool :=
  let w0 := asdWord s pasid 0
  bit w0 0 && (w0 &&& (2 ^ 64 - 1 - (2 ^ 46 - 2 ^ 33) - 3) == 0) && (List.range 5).all fun k => asdWord s pasid (k + 1) == 0

/-- Translation of a local virtual address for an access that needs `need`, to a target that `ok` admits (17 R230 to R236;
25 R321). `ch` is the choice of R236. -/
def translateTo (ok : Nat → Bool) (s : State) (pasid : BitVec 20) (v need ch : Nat) : Except XErr XOk := do
  if s.poison.contains (lineOf (asdAddr s pasid)) then throw (.ecc (eccInfo s (lineOf (asdAddr s pasid))))
  else if !asdOk s pasid then throw (.perm 4)
  else
    let s2 := bit (asdWord s pasid 0) 1
    let root2 := asdWord s pasid 7
    let ((pa, perm), pages) ← (stage1 (treeWord s s2 root2 ch) v ch (asdWord s pasid 6)).run []
    if !hasPerm perm need then throw (.perm 1)
    else
      let fin ← if s2 then stage2 s root2 ch pa need else pure pa
      if ok fin then return ⟨fin, perm, if s2 then pa / 4096 :: pages else []⟩ else throw (.perm 4)

/-- Translation of a data access (17 R234; 25 R321; 31 R359). -/
def translate (s : State) (pasid : BitVec 20) (v need ch : Nat) : Except XErr XOk := translateTo targetOk s pasid v need ch

end Sys2Proof.Machine
end

