-- ==== Sys2Proof/Machine/Home.lean ====
section
/-! DEFINITION. The home of a line (13 R160 to R164, R169; 25 R322, R323), the L1s, the coalescing buffers (13 R158,
R163), vault bytes and stamps (13 R154, R157), and the free draws of the model. -/

namespace Sys2Proof.Machine

/-- The next free choice as a number (assumption 2). -/
def drawNat (s : State) : Nat × State := (Config.choice s.seq, { s with seq := s.seq + 1 })

/-- The next free 64-bit value (assumption 2). -/
def drawWord (s : State) : W64 × State := (Config.freeWord s.seq, { s with seq := s.seq + 1 })

/-- A free line: sixteen free words (assumption 2). -/
def drawLine (s : State) : Line × State :=
  ((List.range 16).foldl (fun (x : Line) i => x ||| ((Config.freeWord (s.seq + i)).setWidth 1024 <<< (64 * i))) 0,
    { s with seq := s.seq + 16 })

/-- Raise the logical time of a group (13 R161). -/
def raiseLt (s : State) (gid v : Nat) : State := updGroup s gid fun g => { g with lt := max g.lt v }

/-- Home M-die of a line (01 R16). -/
def mdieOf (l : Nat) : Nat := (bits l 2 1) ^^^ (bits l 12 11)

/-- The directory entry of a line that enters the L2 now (13 R160, R164). Whether a line brought back counts as written since its previous
grant R164 does not say: here it does not, so that a renewal right after the fill lengthens its lease (DESIGN CHOICE, unsafe; assumption
86). -/
def freshLine (s : State) (l : Nat) : HomeLine :=
  let m := mapGet 0 s.mt (mdieOf l)
  ⟨m, m, 64, false, false, .i, false⟩

/-- The directory entry of a line, which is brought into the L2 if absent (13 R160). -/
def homeAt (s : State) (l : Nat) : HomeLine := mapGet (freshLine s l) s.home l

/-- One step longer on the ladder of lease lengths (13 R164). -/
def longer (n : Nat) : Nat := if n ≤ 8 then 64 else if n ≤ 64 then 512 else 4096

/-- One step shorter (13 R164). -/
def shorter (n : Nat) : Nat := if 4096 ≤ n then 512 else if 512 ≤ n then 64 else 8

/-- The 4 KiB page of a line is in host bias (25 R322). -/
def hostBias (s : State) (l : Nat) : Bool :=
  let page := l / 32
  bit (memRead s 0 ((regGet s offBias).toNat + page / 8) 1) (page % 8)

/-- A running bias command holds the accesses to a line's page (25 R324). -/
def biasHeld (s : State) (l : Nat) : Bool :=
  match s.biasRun with
  | some (p0, n, _) => p0 ≤ l / 32 && l / 32 < p0 + n && 128 * l < Config.memSize
  | none => false

/-- The key of host accesses through a port (31 R362). -/
def hostKey (s : State) (port : Bool) : Nat := keyOf s (regField s (offFkey (if port then 2 else 0)) 12 0)

/-- The reservations on a line are lost (13 R169). -/
def dropResv (s : State) (l : Nat) : State := { s with resv := s.resv.filter fun r => r.line != l }

/-- Address of the routing entry of a device (25 R327). -/
def routeAddr (s : State) (dev : Nat) : Nat := (regGet s offRoute).toNat + 2 * dev

/-- Routing entries that software rewrites are no longer those a port has made unreachable (25 R330): the devices whose entries have
bytes among those that `msk` selects in a line. -/
def noteRoutes (s : State) (l : Nat) (msk : BitVec 128) : State :=
  if s.portDown.isEmpty then s
  else
    let b := routeAddr s 0
    { s with rerouted := s.rerouted ++ (List.range 128).filterMap fun i =>
        let a := 128 * l + i
        if msk.getLsbD i && b ≤ a && a < b + 2 ^ 21 then some ((a - b) / 2) else none }

/-- `n` bytes at `a` as the mask and data of a line. -/
def maskAt (a n : Nat) : BitVec 128 := BitVec.ofNat 128 ((2 ^ n - 1) * 2 ^ (a % 128))

/-- Data that a host modifies under its ownership of a line are the line's from then on (25 R323; assumption 73): a host write, which
ends the reservations on the line (13 R169), and rewrites routing entries (25 R330). -/
def hostWrites (s : State) (l : Nat) (port : Bool) (x : Nat) : State :=
  dropResv (memWrite (noteRoutes s l (BitVec.allOnes 128)) (hostKey s port) (128 * l) 128 x) l

/-- The stamp of a line of host memory: the largest lt it has been written under, by the device or by a host program (13 R174, R183,
R184; assumption 70). -/
def hostStamp (s : State) (pa : Nat) : Nat := mapGet 0 s.hs (lineOf pa)

/-- A store of `n` bytes of host memory under `lt` (25 R321, R330). -/
def hostPut (s : State) (pa n v lt : Nat) : State :=
  let s := memWrite (noteRoutes s (lineOf pa) (maskAt pa n)) 0 pa n v
  { s with hs := mapPut 0 s.hs (lineOf pa) (max (hostStamp s pa) lt) }

/-- A line leaves its M-die's L2 (13 R160), the host's copy with it: modified data have been written already (assumption 73). -/
def evictHome (s : State) (x : Nat × HomeLine) : State :=
  { s with mt := mapPut 0 s.mt (mdieOf x.1) (max (mapGet 0 s.mt (mdieOf x.1)) x.2.rts), home := mapDel s.home x.1 }

/-- The lines of an M-die's L2. -/
def homeLines (s : State) (m : Nat) : Assoc HomeLine := s.home.filter fun x => mdieOf x.1 == m

/-- A line that an M-die's L2 replaces next: one of those marked non-temporal first (13 R160, R188), which one being the device's
choice (assumption 2). -/
def victim (s : State) (m : Nat) : Option (Nat × HomeLine) × State :=
  let ls := homeLines s m
  let cs := if ls.any fun x => x.2.nt then ls.filter fun x => x.2.nt else ls
  let (k, s) := drawNat s
  let j := k % cs.length
  (cs[j]?, s)

/-- Set the directory entry of a line; a full L2 first lets a line go for one that enters it (01 R27; 13 R160). -/
def setHome (s : State) (l : Nat) (h : HomeLine) : State :=
  let s := if (homeLines s (mdieOf l)).length < Config.l2Lines || s.home.any fun x => x.1 == l then s
    else
      match victim s (mdieOf l) with
      | (some x, s) => evictHome s x
      | (none, s) => s
  { s with home := mapIns s.home l h }

/-- The host's copy of a line goes to state `dst`. The data of a copy that the host has modified are the line's already (25 R323;
assumption 73). -/
def backInval (s : State) (l : Nat) (dst : Mesi) : State :=
  let h := homeAt s l
  match h.mesi with
  | .i => s
  | .s => if dst = .i then setHome s l { h with mesi := .i } else s
  | .e => setHome s l { h with mesi := dst }

/-- A load, prefetch or renewal at home: the lease it grants and the stamps it replies (13 R162, R164). A renewal is granted with the
prediction it has just lengthened (assumption 69). -/
def homeGrant (s : State) (l lt : Nat) (renew nt : Bool) : State × Nat × Nat :=
  let s := backInval s l .s
  let h := homeAt s l
  let pred := if renew && !h.written then longer h.pred else h.pred
  let rts := max h.rts (max lt h.wts + pred)
  (setHome s l { h with rts := rts, pred := pred, written := false, nt := h.nt || nt }, h.wts, rts)

/-- Stamps of a write performed at home (13 R163, R164, R169). Answers ws. -/
def homeStamp (s : State) (l lt : Nat) (nt : Bool) : State × Nat :=
  let s := backInval s l .i
  let h := homeAt s l
  let ws := max lt (h.rts + 1)
  let pred := if lt ≤ h.rts then shorter h.pred else h.pred
  (dropResv (setHome s l { h with wts := ws, rts := ws, pred := pred, written := true, nt := h.nt || nt }) l, ws)

/-- Merge the bytes of `d` that `msk` selects into a line. -/
def mergeLine (x : Line) (msk : BitVec 128) (d : Line) : Line :=
  let full : Line := BitVec.ofNat 1024 ((List.range 128).foldl (fun m i => if msk.getLsbD i then m + 255 * 2 ^ (8 * i) else m) 0)
  (x &&& ~~~ full) ||| (d &&& full)

/-- The home recalls a host's copy of a line of device memory for a unit of the device that reads it (`dst` S) or writes it (I)
(25 R323). -/
def recallHost (s : State) (pa : Nat) (dst : Mesi) : State := if pa < Config.memSize then backInval s (lineOf pa) dst else s

/-- A store of some bytes of a line, performed at home with key `k` (13 R163; 31 R362, R366). Answers ws. -/
def homeStore (s : State) (k l : Nat) (msk : BitVec 128) (d : Line) (lt : Nat) (nt : Bool) : State × Nat :=
  let (s, ws) := homeStamp (noteRoutes s l msk) l lt nt
  let s := if s.poison.contains l then s
    else let s := rekey s k l; { s with mem := writeMasked s.mem (128 * l) msk.toNat 128 d.toNat }
  (s, ws)

/-- A value placed at the offset of `a` in a line. -/
def dataAt (a v : Nat) : Line := BitVec.ofNat 1024 (v * 2 ^ (8 * (a % 128)))

/-- `n` bytes at offset `a` of a line. -/
def lineBytes (x : Line) (a n : Nat) : Nat := x.toNat / 2 ^ (8 * (a % 128)) % 2 ^ (8 * n)

/-- A store of `n` bytes inside one line at a physical address, wherever that is: device memory at its home, host memory at
its port (13 R163; 25 R321). Answers ws. -/
def physStore (s : State) (k pa n v lt : Nat) : State × Nat :=
  if pa < Config.memSize then homeStore s k (lineOf pa) (maskAt pa n) (dataAt pa (v % 2 ^ (8 * n))) lt false
  else (hostPut s pa n v lt, lt)

/-- A load of `n` bytes inside one line, performed where the address lies; no L1 takes part. Answers the value and ws. -/
def physLoad (s : State) (k pa n lt : Nat) : State × Nat × Nat :=
  if pa < Config.memSize then
    let (s, ws, _) := homeGrant s (lineOf pa) lt false false
    (s, memRead s k pa n, ws)
  else (s, memRead s k pa n, hostStamp s pa)

/-- Words written by the device itself (records, frames, rings), each performed at home with lt 0. Answers the largest
ws. -/
def devWriteWords (s : State) (k pa : Nat) : List Nat → State × Nat
  | [] => (s, 0)
  | w :: ws =>
    let (s, t) := physStore s k pa 8 w 0
    let (s, t') := devWriteWords s k (pa + 8) ws
    (s, max t t')

/-- A running bias command holds some of `n` words at a physical address (25 R324). -/
def wordsHeld (s : State) (pa n : Nat) : Bool :=
  s.biasRun.isSome && (List.range n).any fun i => biasHeld s (lineOf (pa + 8 * i))

/-- A write of a unit waits for the running bias command (25 R324). -/
def holdWrite (s : State) (x : HeldWrite) : State := { s with biasQ := s.biasQ ++ [x] }

/-- A unit of the device writes the words of a record, which wait while a bias command holds a page of them (25 R324). -/
def unitWrite (s : State) (pa : Nat) (ws : List Nat) : State :=
  if wordsHeld s pa ws.length then holdWrite s (.words pa ws) else (devWriteWords s 0 pa ws).1

/-- The L1 of a core holds a physical line (13 R158, R159). -/
def l1Find (s : State) (core l : Nat) : Option L1Line := s.l1.find? fun x => x.core == core && x.line == l

/-- The elements `sel` selects are fewer than `n`, after one of them has made room if need be; which one goes is the device's choice
(assumption 2). -/
def makeRoom {α : Type} (s : State) (n : Nat) (sel : α → Bool) (l : List α) : List α × State :=
  let mine := (List.range l.length).filter fun k => (l[k]?).any sel
  if mine.length < n then (l, s)
  else
    let (k, s) := drawNat s
    (dropAt l (mine.getD (k % mine.length) 0), s)

/-- A core's filter and micro-TLB take the translation of a line that its L1 holds under a tag (13 R159). -/
def notePage (s : State) (x : Micro) : State :=
  let f := mapGet 0 s.filters x.core ||| 2 ^ (Config.pageHash x.pasid.toNat x.vpage % 4096)
  let s := { s with filters := mapPut 0 s.filters x.core f }
  let core := x.core
  let same := fun (y : Micro) => y.core == x.core && y.pasid == x.pasid && y.vpage == x.vpage
  if s.micro.any same then { s with micro := s.micro.map fun y => if same y then x else y }
  else
    let (m, s) := makeRoom s Config.microEntries (fun (y : Micro) => y.core == core) s.micro
    { s with micro := m ++ [x] }

/-- A filter is cleared when the L1 and the micro-TLB of its core are both empty (13 R159). -/
def settleFilters (s : State) : State :=
  { s with filters := s.filters.filter fun x => (s.l1.any fun y => y.core == x.1) || s.micro.any fun y => y.core == x.1 }

/-- Put a line into an L1, in place of the copy it holds (13 R159); a full L1 lets a line go (01 R27). -/
def l1Put (s : State) (x : L1Line) : State :=
  let s := notePage s ⟨x.core, x.pasid, x.vline / 32, x.line / 32, x.perm⟩
  if (l1Find s x.core x.line).isSome then
    { s with l1 := s.l1.map fun y => if y.core == x.core && y.line == x.line then x else y }
  else
    let (l, s) := makeRoom s Config.l1Lines (fun (y : L1Line) => y.core == x.core) s.l1
    { s with l1 := l ++ [x] }

/-- Change the L1 copy of a line, if there is one. -/
def l1Upd (s : State) (core l : Nat) (f : L1Line → L1Line) : State :=
  { s with l1 := s.l1.map fun y => if y.core == core && y.line == l then f y else y }

/-- The L1 copy of a line that another key reads leaves, so that no clear bytes of one key's context reach another's (31 R362). -/
def l1KeyDrop (s : State) (core l k : Nat) : State :=
  { s with l1 := s.l1.filter fun y => !(y.core == core && y.line == l && pasidKey s y.pasid != k) }

/-- A store entering the coalescing buffer: it is merged into a line that has not left, of any group of the core whose data have the same
key, written into the L1 copy if there is one, and visible to the core (13 R158; 31 R362). -/
def bufferStore (s : State) (x : BufLine) : State :=
  let same := fun (y : BufLine) =>
    y.core == x.core && y.line == x.line && pasidKey s y.pasid == pasidKey s x.pasid && !y.left
  let s := l1Upd (l1KeyDrop s x.core x.line (pasidKey s x.pasid)) x.core x.line fun y => { y with data := mergeLine y.data x.msk x.data }
  if s.cbuf.any same then
    { s with cbuf := updFirst same (fun y =>
        { y with msk := y.msk ||| x.msk, data := mergeLine y.data x.msk x.data, lt := max y.lt x.lt,
                 gids := y.gids ++ x.gids.filter (fun g => !y.gids.contains g), nt := y.nt || x.nt }) s.cbuf }
  else { s with cbuf := s.cbuf ++ [x] }

/-- A core holds this store of a line buffered, for readers with key `k` (13 R158; 31 R362). -/
def bufferedFor (s : State) (core l k : Nat) (y : BufLine) : Bool := y.core == core && y.line == l && pasidKey s y.pasid == k

/-- A line's data merged with the stores its core has buffered (13 R158). -/
def mergeBuffered (s : State) (core l k : Nat) (x : Line) : Line :=
  s.cbuf.foldl (fun d y => if bufferedFor s core l k y then mergeLine d y.msk y.data else d) x

/-- The largest lt of the buffered stores that bytes of a load come from, 0 without one (13 R158, R176). -/
def bufferedLt (s : State) (core k pa n : Nat) : Nat :=
  s.cbuf.foldl (fun t y => if bufferedFor s core (lineOf pa) k y && (y.msk &&& maskAt pa n) != 0 then max t y.lt else t) 0

/-- A reply on its way that carries a line from before a write of its own core is not installed: loads of one thread never move back
(13 R175). -/
def staleReply (core l : Nat) (a : Acc) : Acc :=
  match a.st, a.place with
  | .replied v ws le d _, .mem pa =>
    if a.core = core ∧ lineOf pa = l then { a with st := .replied v ws le d false } else a
  | _, _ => a

/-- The core's L1 copy of a line takes a write just performed at home and its stamp (13 R163). Its other bytes are brought
up to home as well, so that a copy with le = ws hides no earlier write that an acquire ordered (13 R174, R175; assumption
12); a poisoned line has none to give. -/
def ackCopy (s : State) (core l k : Nat) (msk : BitVec 128) (d : Line) (ws : Nat) : State :=
  let now := fun (x : Line) => if s.poison.contains l then x else clearLine s k l
  let s := { s with accs := s.accs.map fun a => staleReply core l a }
  l1Upd (l1KeyDrop s core l k) core l fun z =>
    { z with data := mergeBuffered s core l k (mergeLine (now z.data) msk d), ws := ws, le := ws }

/-- Perform one buffered line at its home (13 R163): each writing group's lt is raised, the core's L1 copy takes the bytes
and the stamp. Answers ws. -/
def performBuf (s : State) (y : BufLine) : State × Nat :=
  let (s, ws) := homeStore s (pasidKey s y.pasid) y.line y.msk y.data y.lt y.nt
  let s := y.gids.foldl (fun s g => raiseLt s g ws) s
  (ackCopy s y.core y.line (pasidKey s y.pasid) y.msk y.data ws, ws)

/-- Perform a list of buffered lines in order. Answers the largest ws. -/
def performBufs (s : State) : List BufLine → State × Nat
  | [] => (s, 0)
  | y :: ys =>
    let (s, t) := performBuf s y
    let (s, t') := performBufs s ys
    (s, max t t')

/-- Every store a core holds buffered leaves and is performed (13 R173). -/
def drainCore (s : State) (core : Nat) : State × Nat :=
  performBufs { s with cbuf := s.cbuf.filter fun y => y.core != core } (s.cbuf.filter fun y => y.core == core)

/-- The stores a core holds buffered for one line leave and are performed. -/
def drainLine (s : State) (core l : Nat) : State × Nat :=
  let sel := fun (y : BufLine) => y.core == core && y.line == l
  performBufs { s with cbuf := s.cbuf.filter fun y => !sel y } (s.cbuf.filter sel)

/-- Key of a vault byte: core and offset (13 R154). -/
def vaultKey (core off : Nat) : Nat := core * Config.vaultSize + off

/-- Stamp of the vault line of a key (13 R157). -/
def vsAt (s : State) (key : Nat) : Nat := mapGet 0 s.vs (key / 128)

/-- A write to vault bytes at stamp `lt` (13 R157); a poisoned line drops it (31 R366). -/
def vaultWrite (s : State) (key n v lt : Nat) : State :=
  let s := if s.vpoison.contains (key / 128) then s else { s with vault := writeN s.vault key n v }
  { s with vs := mapPut 0 s.vs (key / 128) (max (mapGet 0 s.vs (key / 128)) lt) }

/-- Read vault bytes. -/
def vaultRead (s : State) (key n : Nat) : Nat := readN s.vault key n

end Sys2Proof.Machine
end

