-- ==== Sys2Proof/Machine/Split.lean ====
section
/-! DEFINITION. The split table of a group (03 R33 to R42, R52, R53, R373): lanes and entries move between its states
by the operations below, and `tidy` brings the table into the form R37 to R40 and R373 ask for after a change. -/

namespace Sys2Proof.Machine

/-- The lanes of a group that satisfy `f`. -/
def laneWhere (g : Group) (f : Lane → Bool) : W64 := maskWhere g.w fun l => f (laneAt g l)

/-- The lane is parked (03 R373). -/
def isParked (x : Lane) : Bool :=
  match x.park with
  | .none => false
  | _ => true

/-- The lane is parked on a page (03 R373). -/
def isFaulted (x : Lane) : Bool :=
  match x.park with
  | .faulted _ _ => true
  | _ => false

/-- Lanes of MASK held in children of entry e: its fault children while it is not SPLIT (03 R35, R52). -/
def childMask (g : Group) (e : Nat) : W64 :=
  (List.range 16).foldl (fun m j =>
    let x := entAt g j
    if x.v && j != e && x.parent == e then m ||| x.mask else m) 0

/-- The lanes that are in entry e itself: active or deferred. -/
def ownMask (g : Group) (e : Nat) : W64 := (entAt g e).mask &&& ~~~ childMask g e

/-- The deferred lanes of an entry (03 R35). -/
def deferredMask (g : Group) (e : Nat) : W64 := ownMask g e &&& ~~~ (entAt g e).act

/-- The lane can issue: not exited, parked or held (03 R32, R38, R373). -/
def canRun (x : Lane) : Bool := !x.exited && !isParked x && !x.held

/-- The lane set of the top frame, or every lane without one (17 R213). -/
def frameSet (g : Group) : W64 :=
  match g.frames.getLast? with
  | some f => f.h
  | none => fullMask g.w

/-- The entry's lanes may move: its ACT lies in the top frame's lane set (17 R213). -/
def inFrame (g : Group) (e : Nat) : Bool := ((entAt g e).act &&& ~~~ frameSet g) == 0

/-- The lanes of a mask whose PC is that of its lowest lane (03 R35 to R37). -/
def firstPc (g : Group) (m : W64) : W64 :=
  match lowestLane g.w m with
  | some l => m &&& laneWhere g fun x => x.pc == (laneAt g l).pc
  | none => 0

/-- The free entries, lowest first. -/
def freeEnts (g : Group) : List Nat := (List.range 16).filter fun j => !(entAt g j).v

/-- PC and MEET of an entry as the lanes of its ACT hold them (03 R33). -/
def refreshEnt (g : Group) (x : Entry) : Entry :=
  match lowestLane g.w x.act with
  | some l => { x with pc := (laneAt g l).pc, meet := (laneAt g l).meet }
  | none => x

/-- The lanes of a mask divided by their next PCs, or by PC and MEET together when `meet` says so (03 R35; 09 R108), in
ascending order of their lowest lanes. -/
def pcSets (g : Group) (meet : Bool) (m : W64) : List W64 :=
  let key := fun (x : Lane) => if meet then (x.pc, x.meet) else (x.pc, 0#64)
  (dedup ((lanesOf g.w m).map fun l => key (laneAt g l))).map fun p => m &&& laneWhere g fun x => key x == p

/-- A new child of entry `e` (03 R35). Its HOLD and DCNT start at 0, also where it takes deferred lanes of `e`, held ones among them: a
hold in progress counts anew (DESIGN CHOICE, unsafe: R35 names neither; assumption 65). -/
def childEnt (g : Group) (e : Nat) (mask act : W64) (st : EState) : Entry :=
  refreshEnt g ⟨true, mask, act, (entAt g e).pc, (entAt g e).meet, 0, 0, st, e, (entAt g e).last, false⟩

/-- Put entries into free slots, lowest first. -/
def placeEnts (g : Group) : List Nat → List Entry → Group
  | i :: is, x :: xs => placeEnts (setEnt g i x) is xs
  | _, _ => g

/-- The set among `sets` that holds the lowest of the lanes `on`, or the first without such a lane (03 R36). -/
def setOfLowest (g : Group) (on : W64) (sets : List W64) : W64 :=
  ((lowestLane g.w on).bind fun l => sets.find? fun m => m.getLsbD l).getD (sets.headD 0)

/-- The ACT lanes of entry `e`, `on` of them active, have their next PCs: split, defer or go on (03 R35, R36; 09 R108 when `meet`). A
SPLIT entry keeps its PC and MEET (assumption 65). -/
def regroup (g : Group) (e : Nat) (on : W64) (meet : Bool) : Group :=
  let x := entAt g e
  let live := x.act &&& liveMask g
  let sets := pcSets g meet live
  if sets.length ≤ 1 then setEnt g e (refreshEnt g x)
  else
    let dfr := deferredMask g e &&& liveMask g
    let need := sets.length + (if dfr = 0 then 0 else 1)
    let free := freeEnts g
    if need ≤ free.length then
      let kids := sets.map fun m => childEnt g e m m .ready
      let rest := if dfr = 0 then [] else [childEnt g e dfr (firstPc g (dfr &&& laneWhere g fun l => !isParked l)) .ready]
      placeEnts (setEnt g e { x with st := .split, act := 0 }) free (kids ++ rest)
    else
      setEnt g e (refreshEnt g { x with act := setOfLowest g (live &&& on) sets, dcnt := 0 })

/-- Lanes of an entry that reach their MEET are held and do not issue (03 R38). -/
def holdLanes (g : Group) (e : Nat) : Group :=
  updLanes g ((entAt g e).act &&& laneWhere g canRun) fun _ x =>
    if x.pc == x.meet && x.meet != Config.none64 then { x with held := true } else x

/-- Exited lanes leave every MASK and ACT; an entry without a lane is freed, but for entry 0 (03 R40). -/
def dropExited (g : Group) : Group :=
  let live := liveMask g
  { g with ents := g.ents.mapIdx fun j x =>
      let y := { x with mask := x.mask &&& live, act := x.act &&& live }
      if y.v && y.mask == 0 && j != 0 then freeEntry else y }

/-- The frames whose lanes have all exited are popped (17 R213). -/
def popDead (g : Group) : Nat → List Frame → List Frame
  | 0, fs => fs
  | n + 1, fs =>
    match fs.getLast? with
    | some f => if (f.h &&& liveMask g) == 0 then popDead g n fs.dropLast else fs
    | none => fs

/-- The lanes of entry `e` whose hold ends because no other lane of the parent's MASK can still come
(03 R38 (a)). -/
def releasable (g : Group) (e : Nat) : W64 :=
  let pm := (entAt g (entAt g e).parent).mask &&& liveMask g
  laneWhere g (fun x => x.held && (pm &&& laneWhere g fun y => !((y.held && y.pc == x.pc) || isParked y)) == 0) &&&
    ownMask g e

/-- Release held lanes: MEET becomes NONE and HOLD 0 (03 R38). -/
def releaseLanes (g : Group) (e : Nat) (m : W64) : Group :=
  let m := m &&& laneWhere g fun x => x.held
  if m = 0 then g
  else
    setEnt (updLanes g m fun _ x => { x with held := false, meet := Config.none64 }) e { entAt g e with hold := 0 }

/-- Bring one entry to the state R37, R38 and R373 give it: lanes that no longer run leave ACT while others run, the entry
rotates when none of its ACT lanes can run, and it is HELD, WAITING or FAULTED when none of its lanes can. MEET is that of the lowest
ACT lane, and a lane that leaves ACT alone sets DCNT to 0 (assumption 65). Where all its ACT lanes have exited and the deferred lanes left
are only held or parked, R37, R38 and R373 give neither STATE nor ACT: ACT is left empty and the entry is HELD, or WAITING or FAULTED if
some lane is parked (DESIGN CHOICE, unsafe; assumption 65). -/
def settleEnt (g : Group) (e : Nat) : Group :=
  let x := entAt g e
  if !x.v || x.st == .split || x.st == .migrating then g
  else
    let own := ownMask g e &&& liveMask g
    let run := own &&& laneWhere g canRun &&& frameSet g
    let act := x.act &&& laneWhere g canRun &&& own
    if act != 0 then setEnt g e (refreshEnt g { x with act := act, st := .ready, dcnt := if act == x.act then x.dcnt else 0 })
    else if run != 0 then setEnt g e (refreshEnt g { x with act := firstPc g run, st := .ready, dcnt := 0 })
    else
      let act := x.act &&& own
      let parkedM := own &&& laneWhere g isParked
      let st : EState :=
        if own = 0 || laneWhere g canRun &&& own != 0 then .ready
        else if parkedM = 0 || (act != 0 && (act &&& parkedM) == 0) then .held
        else if (parkedM &&& ~~~ laneWhere g isFaulted) == 0 then .faulted
        else .waiting
      setEnt g e (refreshEnt g { x with act := act, st := st })

/-- Children of entry `c` become children of `p` when `c` joins `p` (03 R39, R40; assumption 65). -/
def adopt (g : Group) (c p : Nat) : Group :=
  { g with ents := g.ents.mapIdx fun j x => if x.v && j != c && x.parent == c then { x with parent := p } else x }

/-- Fold child `c` into its parent `p` (03 R40), with the child's HOLD and DCNT (assumption 65). -/
def foldInto (g : Group) (c p : Nat) : Group :=
  let x := entAt g c
  let g := adopt g c p
  setEnt (setEnt g p { entAt g p with act := x.act, pc := x.pc, meet := x.meet, hold := x.hold, dcnt := x.dcnt, st := .ready })
    c freeEntry

/-- Fuse entry `c` into entry `p` (03 R39), with the larger HOLD (assumption 65). -/
def fuseInto (g : Group) (c p : Nat) : Group :=
  let x := entAt g c
  let y := entAt g p
  let g := adopt g c p
  setEnt (setEnt g p { y with mask := y.mask ||| x.mask, act := y.act ||| x.act, dcnt := max y.dcnt x.dcnt,
                              hold := max y.hold x.hold }) c freeEntry

/-- The first pair (c, p) for which R40 folds c into p. -/
def findFold (g : Group) : Option (Nat × Nat) :=
  (List.range 16).findSome? fun c =>
    let x := entAt g c
    let p := x.parent
    let y := entAt g p
    if x.v && c != p && x.st == .ready && !x.busy && x.act != 0 && y.v && x.mask == y.mask && inFrame g c &&
      (y.st == .split || y.act == 0) then some (c, p) else none

/-- The first pair (c, p) for which R39 fuses c into p: p the lower-numbered, or p the READY parent of fault child c. -/
def findFuse (g : Group) : Option (Nat × Nat) :=
  (List.range 16).findSome? fun c =>
    let x := entAt g c
    if x.v && x.st == .ready && !x.busy && x.act != 0 && inFrame g c then
      (List.range 16).findSome? fun p =>
        let y := entAt g p
        if y.v && p != c && y.st == .ready && !y.busy && y.act != 0 && inFrame g p && x.pc == y.pc && x.meet == y.meet &&
          ((x.parent == p && c != p) || (x.parent == y.parent && p < c && y.parent != c)) then some (c, p) else none
    else none

/-- One round of tidying: exits, releases (all judged before any takes place), entry states, then at most one fold or fusion. -/
def tidyRound (g : Group) : Group :=
  let g := dropExited g
  let g := { g with frames := popDead g 4 g.frames }
  let h := g
  let g := (List.range 16).foldl (fun g e => if (entAt g e).v then releaseLanes g e (releasable h e) else g) g
  let g := (List.range 16).foldl settleEnt g
  match findFold g with
  | some (c, p) => foldInto g c p
  | none =>
    match findFuse g with
    | some (c, p) => fuseInto g c p
    | none => g

/-- Tidy a split table after a change: rounds until nothing changes (03 R37 to R41, R373). Each round but the last frees
an entry, releases lanes or changes a state, so 64 rounds are enough. -/
def tidyN : Nat → Group → Group
  | 0, g => g
  | n + 1, g =>
    let g' := tidyRound g
    if g'.ents == g.ents && g'.lanes == g.lanes && g'.frames == g.frames then g' else tidyN n g'

/-- The split table in its settled form. -/
def tidy (g : Group) : Group := tidyN 64 g

/-- One issue cycle of the group passes: DCNT of entries with deferred lanes and HOLD of entries with held lanes gain
one, up to 4,096, while an entry of the group is READY or HELD (03 R33). -/
def issueCycle (g : Group) : Group :=
  if g.ents.any fun x => x.v && (x.st == .ready || x.st == .held) then
    { g with ents := g.ents.mapIdx fun j x =>
        if !x.v then x
        else
          let own := ownMask g j
          { x with
            dcnt := if deferredMask g j != 0 then min 4096 (x.dcnt + 1) else x.dcnt
            hold := if (own &&& laneWhere g fun l => l.held) != 0 then min 4096 (x.hold + 1) else x.hold } }
  else g

/-- Rotate an entry whose deferred lanes have waited: its running ACT lanes become deferred (03 R37). -/
def rotate (g : Group) (e : Nat) : Group :=
  let x := entAt g e
  let dfr := deferredMask g e &&& liveMask g &&& laneWhere g canRun &&& frameSet g
  if dfr = 0 then g else setEnt g e (refreshEnt g { x with act := firstPc g dfr, dcnt := 0 })

/-- Some lanes of an entry park. The entry keeps its ACT when it has no other lane that can run (03 R373); `tidy` then
gives it WAITING or FAULTED, or rotates it. -/
def parkLanes (g : Group) (m : W64) (p : Nat → Park) : Group := updLanes g m fun l x => { x with park := p l }

/-- The faulting lanes `m` of entry `e` leave in a fault child, if an entry is free (03 R52). -/
def faultChild (g : Group) (e : Nat) (m : W64) : Option Group :=
  match freeEnts g with
  | [] => none
  | i :: _ =>
    let x := entAt g e
    let g := setEnt g i (childEnt g e m m .faulted)
    some (setEnt g e { x with act := x.act &&& ~~~ m })

/-- The entry may issue: READY with lanes to run, in the top frame's lane set, and the group not parked by an S bit
(03 R42, R48; 17 R213). -/
def entReady (g : Group) (e : Nat) : Bool :=
  let x := entAt g e
  x.v && x.st == .ready && x.act != 0 && inFrame g e

end Sys2Proof.Machine
end

