-- ==== Sys2Proof/Machine/Pending.lean ====
section
/-! DEFINITION. Outstanding variable-latency results of a D-core (03 R48, R49; 23 R300): a result takes its place in the order of
writes when its instruction issues, returns later, and is written when it lands or discarded after a later write of its register. -/

namespace Sys2Proof.Machine

/-- The words of a D-core's native code, whose results are written later (03 R48; 05 R76; 23 R300). -/
def latent (g : Group) : Bool := !formL g && native g

/-- Write a register. -/
def setDest (g : Group) (d : Dest) (x : W32) : Group :=
  match d with
  | .v r l => setV g r l x
  | .p r l => setPl g r l (x != 0)
  | .s r => setS g r x
  | .q r => setQ g r (x != 0)

/-- A returned result is written; one that has not returned writes nothing. -/
def landPend (g : Group) (p : Pend) : Group :=
  match p.val with
  | some x => setDest g p.dst x
  | none => g

/-- The outstanding results become `ps`; an S bit's group goes on when none is left (05 R69). -/
def setPend (g : Group) (ps : List Pend) : Group := { g with pend := ps, spark := g.spark && !ps.isEmpty }

/-- Result `k` lands: earlier results of its register that have not are discarded (03 R49). -/
def landAt (g : Group) (k : Nat) (p : Pend) : Group :=
  setPend (landPend g p) ((g.pend.take k).filter (fun q => q.dst != p.dst) ++ g.pend.drop (k + 1))

/-- The results that have not returned and that no later result of their register has overtaken. -/
def unreturned : List Pend → List Pend
  | [] => []
  | p :: ps => if p.val.isNone && !(ps.any fun q => q.dst == p.dst && q.val.isSome) then p :: unreturned ps else unreturned ps

/-- Every result that has returned is written, in order (03 R48, R49). -/
def landAll (g : Group) : Group := setPend (g.pend.foldl landPend g) (unreturned g.pend)

/-- A write to a register ends the outstanding results of it (03 R49). -/
def dropPend (g : Group) (d : Dest) : Group :=
  if g.pend.isEmpty then g else setPend g (g.pend.filter fun p => p.dst != d)

/-- The results an issue has not returned are no longer awaited. -/
def dropOwn (g : Group) (own : Nat) : Group :=
  if g.pend.isEmpty then g else setPend g (g.pend.filter fun p => p.own != own || p.val.isSome)

/-- The destinations of an issue take their place among the outstanding results of a D-core's native code. -/
def openPend (g : Group) (own : Nat) (ds : List Dest) : Group :=
  if latent g then { g with pend := g.pend ++ ds.map fun d => ⟨own, d, none⟩ } else g

/-- A result of an issue returns: to its place among the outstanding results, nowhere if a later write has ended it, and at once into
its register where results are not outstanding (03 R48 to R50; 23 R300), unless a debugger's write has ended it (29 R350). -/
def fillPend (g : Group) (own : Nat) (d : Dest) (x : W32) : Group :=
  if latent g then { g with pend := g.pend.map fun p => if p.own = own ∧ p.dst = d then { p with val := some x } else p }
  else if g.kept.contains (own, d) then g
  else setDest g d x

/-- A variable-latency result that is known when its instruction issues (03 R48, R50; 23 R300). -/
def later (g : Group) (d : Dest) (x : W32) : Group :=
  if latent g then { g with pend := g.pend ++ [⟨0, d, some x⟩] } else setDest g d x

/-- A variable-latency write to a lane register. -/
def lateV (g : Group) (r l : Nat) (x : W32) : Group := later g (.v r l) x

/-- A variable-latency write to a run of lane registers from one value, low word first. -/
def lateVn (g : Group) (r l : Nat) : Nat → Nat → Group
  | 0, _ => g
  | n + 1, x => lateVn (lateV g r l (BitVec.ofNat 32 x)) (r + 1) l n (x / 2 ^ 32)

/-- The registers of a run of `n` from `r` in one lane. -/
def runDests (r l n : Nat) : List Dest := (List.range n).map fun k => .v (r + k) l

/-- The results of an issue for a run of lane registers return, low word first. -/
def fillVn (g : Group) (own r l : Nat) : Nat → Nat → Group
  | 0, _ => g
  | n + 1, x => fillVn (fillPend g own (.v r l) (BitVec.ofNat 32 x)) own (r + 1) l n (x / 2 ^ 32)

/-- A fixed-latency write to a lane register. -/
def putV (g : Group) (r l : Nat) (x : W32) : Group := setV (dropPend g (.v r l)) r l x

/-- A fixed-latency write to a pair of lane registers, low word first (05 R58). -/
def putV2 (g : Group) (r l : Nat) (x : W64) : Group :=
  putV (putV g r l (x.extractLsb' 0 32)) (r + 1) l (x.extractLsb' 32 32)

/-- A fixed-latency write to a lane predicate. -/
def putP (g : Group) (r l : Nat) (b : Bool) : Group := setPl (dropPend g (.p r l)) r l b

/-- A fixed-latency write to a uniform register. -/
def putS (g : Group) (r : Nat) (x : W32) : Group := setS (dropPend g (.s r)) r x

/-- A fixed-latency write to a uniform pair. -/
def putS2 (g : Group) (r : Nat) (x : W64) : Group :=
  putS (putS g r (x.extractLsb' 0 32)) (r + 1) (x.extractLsb' 32 32)

/-- A fixed-latency write to a uniform predicate. -/
def putQ (g : Group) (r : Nat) (b : Bool) : Group := setQ (dropPend g (.q r)) r b

/-- The results a wait writes when it ends (15 R197; 21 R271, R297). -/
def waitDests : Wait → List Dest
  | .bar _ _ d q _ => [.s d.toNat, .q q.toNat]
  | .qpop _ _ _ _ d _ => [.s d.toNat]
  | .gangPrep _ d _ => [.s d.toNat, .s (d.toNat + 1)]
  | .gangCommit _ d _ => [.s d.toNat]
  | _ => []

/-- The issue a wait with results belongs to. -/
def waitTok : Wait → Nat
  | .bar _ _ _ _ t => t
  | .qpop _ _ _ _ _ t => t
  | .gangPrep _ _ t => t
  | .gangCommit _ _ t => t
  | _ => 0

end Sys2Proof.Machine
end

