-- ==== Sys2Proof/Machine/Wake.lean ====
section
/-! DEFINITION. Fall-through addresses (09 R101), trace records (29 R351, R352), the end of waits (03 R373), contexts and
chimes (21 R265, R292, R293). -/

namespace Sys2Proof.Machine

/-- Slot of a D-form word in its packet, 0 to 2 (05 R67). -/
def slotOfPc (g : Group) (pc : W64) : Nat := ((((pc.toNat : Int) - (imageStart g).toNat) % 12) / 4).toNat

/-- Address of the packet of a D-form word (05 R67). -/
def packetOf (g : Group) (pc : W64) : W64 :=
  BitVec.ofInt 64 ((pc.toNat : Int) - (((pc.toNat : Int) - (imageStart g).toNat) % 12))

/-- The fall-through of an instruction at `pc` (09 R101). -/
def nextPc (g : Group) (pc : W64) (control two : Bool) : W64 :=
  if two then pc + 8 else if control && !formL g then packetOf g pc + 12 else pc + 4

/-- An address that a branch may take: a packet start in the D-form, a multiple of 4 in the L-form (05 R74). -/
def targetAligned (g : Group) (t : W64) : Bool :=
  if formL g then t.toNat % 4 == 0 else ((t.toNat : Int) - (imageStart g).toNat) % 12 == 0

/-- TRCTL of a core is enabled for a context (29 R351). -/
def tracing (s : State) (core : Nat) (pasid : BitVec 20) : Bool :=
  regField s (offTrctl core) 0 0 == 1 && regField s (offTrctl core) 63 44 == pasid.toNat

/-- Eight bytes into the trace buffer of a core: WPOS moves on; without WRAP a full buffer turns the trace off
(29 R351). -/
def traceWord (s : State) (core v : Nat) : State :=
  let r := offTrctl core
  let size := 2 ^ (regField s r 43 40 + 12)
  let wpos := regField s r 39 8
  if regField s r 0 0 = 0 then s
  else if regField s r 1 1 = 0 && size ≤ wpos then regSetField s r 0 0 0
  else
    let s := unitWrite s ((regGet s (r + 8)).toNat + wpos % size) [v]
    let s := regSetField s r 39 8 ((wpos + 8) % 2 ^ 32)
    if regField s r 1 1 = 0 && size ≤ wpos + 8 then regSetField s r 0 0 0 else s

/-- Words into the trace buffer of a core. -/
def traceWords (s : State) (core : Nat) (ws : List Nat) : State := ws.foldl (fun s w => traceWord s core w) s

/-- PAD records up to the next multiple of 4,096 (29 R351). -/
def tracePad (s : State) (core : Nat) : State :=
  let p := regField s (offTrctl core) 39 8 % 4096
  if p = 0 then s else traceWords s core (List.replicate ((4096 - p) / 8) 0)

/-- The code of STATE (03 R34). -/
def stateCode : EState → Nat
  | .ready => 0
  | .held => 1
  | .faulted => 2
  | .waiting => 3
  | .split => 4
  | .migrating => 5

/-- The region numbers a record carries (29 R342). -/
def rgn0 (g : Group) : BitVec 12 := g.rgn.headD 0
/-- The second region number a record carries (29 R342). -/
def rgn1 (g : Group) : BitVec 12 := (g.rgn.drop 1).headD 0

/-- The GSTATE records of a core: one for each entry in use of each traced resident group (29 R352). -/
def gstates (s : State) (core : Nat) : List (List Nat) :=
  (s.groups.filter fun g => g.core == core && isResident g && tracing s core g.pasid).flatMap fun g =>
    ((List.range 16).filter fun e => (entAt g e).v).map fun e =>
      let x := entAt g e
      [2 + slotOf g * 2 ^ 8 + e * 2 ^ 16 + (if formL g then 1 else 0) * 2 ^ 24 + stateCode x.st * 2 ^ 28 +
        (rgn0 g).toNat * 2 ^ 32 + (rgn1 g).toNat * 2 ^ 48, x.pc.toNat, x.act.toNat, g.lt % 2 ^ 48]

/-- Write trace records in order: before one that would cross a multiple of 4,096 the rest is PAD, and a SYNC stands at
every such boundary; a SYNC counts the GSTATE records that follow it (29 R351, R352). -/
def traceList (s : State) (core : Nat) : List (List Nat) → State
  | [] => s
  | r :: rs =>
    let s := if 4096 < regField s (offTrctl core) 39 8 % 4096 + 8 * r.length then tracePad s core else s
    let s := if regField s (offTrctl core) 39 8 % 4096 = 0 && r.headD 0 % 16 != 1 then
        traceWords s core [1 + core * 2 ^ 8 + ((r :: rs).filter fun x => x.headD 0 % 16 == 2).length % 256 * 2 ^ 16,
          (dtime s (dieOf core)).toNat] else s
    traceList (traceWords s core r) core rs

/-- A record of a core's trace (29 R351): at a boundary it follows a SYNC and the GSTATE records. -/
def traceRec (s : State) (core : Nat) (r : List Nat) : State :=
  let p := regField s (offTrctl core) 39 8 % 4096
  if p = 0 || 4096 < p + 8 * r.length then
    let s := tracePad s core
    let gs := gstates s core
    traceList s core ([1 + core * 2 ^ 8 + gs.length % 256 * 2 ^ 16, (dtime s (dieOf core)).toNat] :: (gs ++ [r]))
  else traceWords s core r

/-- FLOW records for the entries that were created, freed, changed their ACT, or moved other than to the fall-through: `fall` of the
entry that issued, or the next word of an instruction whose wait has ended or that a debugger resumes after (29 R352). The state already
holds the group as it is now, so that a SYNC among the records shows it so. -/
def flow (s : State) (g0 g1 : Group) (fall : Option (Nat × W64)) : State :=
  if isResident g1 && tracing s g1.core g1.pasid then
    (List.range 16).foldl (fun s e =>
      let x := entAt g0 e
      let y := entAt g1 e
      let falls := match fall with | some (e', pc) => e' == e && pc == y.pc | none => y.pc == nextPc g0 x.pc false false
      if x.v != y.v || x.act != y.act || (x.pc != y.pc && !falls) then
        traceRec s g1.core [3 + slotOf g1 * 2 ^ 8 + e * 2 ^ 16 + (if formL g1 then 1 else 0) * 2 ^ 24, y.pc.toNat,
          y.act.toNat]
      else s) s
  else s

/-- Replace a group after an event that is no retirement, with its FLOW records. -/
def putGroup (s : State) (g : Group) : State :=
  match getGroup s g.gid with
  | some g0 => flow (setGroup s g) g0 g none
  | none => s

/-- The lanes of a group whose wait satisfies `sel`. -/
def waitingOn (g : Group) (sel : Wait → Bool) : W64 :=
  laneWhere g fun x =>
    match x.park with
    | .waiting w => sel w
    | _ => false

/-- The waits of a group that satisfy `sel`, each once. -/
def waitsOf (g : Group) (sel : Wait → Bool) : List Wait :=
  dedup ((List.range g.w).filterMap fun l =>
    match (laneAt g l).park with
    | .waiting w => if sel w then some w else none
    | _ => none)

/-- What the end of a wait does to its group: BAR.WAIT returns its status (15 R197), QPOP, GANG.PREP and GANG.COMMIT theirs
(21 R271, R297), each in the place its issue took (03 R49; 23 R300), and the stamp raises lt (13 R179, R180; 21 R293). -/
def waitEffect (g : Group) (w : Wait) (status : W32) (stamp : Nat) : Group :=
  let g := { g with lt := max g.lt stamp }
  match w with
  | .bar _ _ d q t => fillPend (fillPend g t (.s d.toNat) status) t (.q q.toNat) (if status.getLsbD 17 then 0 else 1)
  | .qpop _ _ _ _ d t => fillPend g t (.s d.toNat) status
  | .gangPrep h d t =>
    let g := fillPend g t (.s d.toNat) status
    if status = 0 then fillPend g t (.s (d.toNat + 1)) (BitVec.ofNat 32 h) else dropOwn g t
  | .gangCommit _ d t => fillPend g t (.s d.toNat) status
  | _ => g

/-- A lane whose wait has ended goes on at the fall-through; at a link cell it resolves its token again (03 R373; 27 R340). -/
def endWait (g : Group) (w : Wait) (x : Lane) : Lane :=
  match w with
  | .cell _ => { x with park := .none }
  | _ => { x with park := .none, pc := nextPc g x.pc false false }

/-- End the waits of a group that satisfy `sel`: each such wait has its effect once (03 R373). In a saved group the
lanes are marked, and the waits end at its restore (17 R221). -/
def wakeGroup (g : Group) (sel : Wait → Bool) (status : W32) (stamp : Nat) : Group :=
  let m := waitingOn g sel
  if m = 0 then g
  else if isResident g then
    let g' := (waitsOf g sel).foldl (fun g w => waitEffect g w status stamp) g
    tidy (updLanes g' m fun _ x => match x.park with | .waiting w => endWait g w x | _ => x)
  else
    updLanes g m fun _ x => match x.park with | .waiting w => { x with park := .satisfied w status stamp } | _ => x

/-- The waits that ended while a group was saved complete (17 R221). -/
def completeSatisfied (g : Group) : Group :=
  let ws := dedup ((List.range g.w).filterMap fun l =>
    match (laneAt g l).park with
    | .satisfied w st t => some (w, st, t)
    | _ => none)
  if ws.isEmpty then g
  else
    let g' := ws.foldl (fun g (w, st, t) => waitEffect g w st t) g
    tidy (updLanes g' (fullMask g.w) fun _ x => match x.park with | .satisfied w _ _ => endWait g w x | _ => x)

/-- End waits in every group. -/
def wakeAll (s : State) (sel : Group → Wait → Bool) (status : W32) (stamp : Nat) : State :=
  s.groups.foldl (fun s g =>
    if waitingOn g (sel g) = 0 then s else putGroup s (wakeGroup g (sel g) status stamp)) s

/-- Word `w` of the descriptor of a context, word 0 lowest (21 R265). -/
def ctxAddr (s : State) (c : BitVec 20) (w : Nat) : Nat := (regGet s offCtxtab).toNat + 64 * c.toNat + 8 * w

/-- A word of a context descriptor as it stands (21 R265). -/
def ctxWord (s : State) (c : BitVec 20) (w : Nat) : Nat := memRead s 0 (ctxAddr s c w) 8

/-- V of a context descriptor (21 R265). -/
def ctxValid (s : State) (c : BitVec 20) : Bool := bit (ctxWord s c 0) 0

/-- The STATE of a context that the device has set while a bias command holds the descriptor (25 R324). -/
def heldState (s : State) (c : BitVec 20) : Option Nat :=
  s.biasQ.foldl (fun r x => match x with | .ctx c' v => if c' = c then some v else r | _ => r) none

/-- STATE of a context: 0 active, 1 pre-empting, 2 pre-empted, 3 torn down (21 R265). -/
def ctxState (s : State) (c : BitVec 20) : Nat := (heldState s c).getD (bits (ctxWord s c 0) 2 1)

/-- Set STATE of a context (21 R265); while a bias command holds the descriptor its bytes follow later (25 R324). -/
def setCtxState (s : State) (c : BitVec 20) (v : Nat) : State :=
  if wordsHeld s (ctxAddr s c 0) 1 then holdWrite s (.ctx c v)
  else
    let w := ctxWord s c 0
    (physStore s 0 (ctxAddr s c 0) 8 (w - 2 * bits w 2 1 + 2 * v) 0).1

/-- Address of a chime (21 R292). -/
def chimeAddr (s : State) (c : BitVec 20) (n : Nat) : Nat := ctxWord s c 7 + 16 * n

/-- VALUE of a chime. -/
def chimeValue (s : State) (c : BitVec 20) (n : Nat) : Nat := memRead s 0 (chimeAddr s c n) 8

/-- CS of a chime. -/
def chimeCs (s : State) (c : BitVec 20) (n : Nat) : Nat := memRead s 0 (chimeAddr s c n + 8) 6

/-- One update of a chime with a stamp (21 R292, R293): VALUE and CS change, and every wait that VALUE now satisfies
ends, its group taking CS. -/
def chimeUpdate (s : State) (c : BitVec 20) (n : Nat) (value : Nat) (stamp : Nat) : State :=
  let a := chimeAddr s c n
  let cs := max (chimeCs s c n) stamp
  let (s, _) := devWriteWords s 0 a [value % 2 ^ 64, cs % 2 ^ 48]
  wakeAll s (fun _ w => match w with | .chime c' n' x => c' == c.toNat && n' == n && x.toNat ≤ value | _ => false) 0 cs

/-- Add to a chime, saturating (21 R293). -/
def chimeAddBy (s : State) (c : BitVec 20) (n x stamp : Nat) : State :=
  let s := recallHost s (chimeAddr s c n) .i
  chimeUpdate s c n (min (chimeValue s c n + x) (2 ^ 64 - 1)) stamp

/-- A running bias command holds a chime (25 R324). -/
def chimeHeld (s : State) (c : BitVec 20) (n : Nat) : Bool := wordsHeld s (chimeAddr s c n) 2

/-- The device adds to a chime, once no bias command holds it: for the signal of a pre-emption, or, where `drops`, for an update that is
dropped when the context's descriptor has V = 0 at that moment (21 R292, R294; 25 R324). -/
def chimeSignal (s : State) (c : BitVec 20) (n x stamp : Nat) (drops : Bool) : State :=
  if chimeHeld s c n then holdWrite s (.chime c n x stamp drops)
  else if drops && !ctxValid s c then s
  else chimeAddBy s c n x stamp

/-- An update by the device itself: dropped when the context's descriptor has V = 0 (21 R292). -/
def chimeDevice (s : State) (c : BitVec 20) (n x stamp : Nat) : State := chimeSignal s c n x stamp true

end Sys2Proof.Machine
end

