-- ==== Sys2Proof/Machine/Report.lean ====
section
/-! DEFINITION. Fault reports: batches, their merging and the fault rings (17 R225 to R229). -/

namespace Sys2Proof.Machine

/-- A report with every field 0 but its kind (17 R226). -/
def report0 (kind : BitVec 4) : Report := ⟨kind, 0, 0, 0, 0, 0, 0, 0, 0, 0, false⟩

/-- The 32 bytes of a report entry as four words (17 R226). -/
def reportWords (r : Report) : List Nat :=
  valWords (r.a.toNat * 2 ^ 192 + r.b.toNat * 2 ^ 128 + r.pasid.toNat * 2 ^ 108 + r.code.toNat * 2 ^ 92 +
    r.count.toNat * 2 ^ 60 + r.core.toNat * 2 ^ 54 + r.slot.toNat * 2 ^ 48 + r.entry.toNat * 2 ^ 44 +
    r.acc.toNat * 2 ^ 40 + (if r.s2 then 2 ^ 39 else 0) + r.kind.toNat) 4

/-- The order of page entries: S2, then PASID, then address (17 R227). -/
def pageKey (r : Report) : Nat := (if r.s2 then 2 ^ 84 else 0) + r.pasid.toNat * 2 ^ 64 + r.a.toNat

/-- Insert a page entry in order; equal pages merge, their ACC becomes the union (17 R227). -/
def insPage (r : Report) : List Report → List Report
  | [] => [r]
  | x :: xs =>
    if pageKey r < pageKey x then r :: x :: xs
    else if pageKey r = pageKey x then { x with acc := x.acc ||| r.acc } :: xs
    else x :: insPage r xs

/-- Runs of contiguous pages become ranges (17 R227). The list is sorted. -/
def pageRuns : List Report → List Report
  | [] => []
  | r :: rs =>
    match pageRuns rs with
    | [] => [r]
    | y :: ys =>
      if r.s2 == y.s2 && r.pasid == y.pasid && r.a.toNat + 4096 * r.count.toNat == y.a.toNat then
        { r with count := r.count + y.count, acc := r.acc ||| y.acc } :: ys
      else r :: y :: ys

/-- The entries of a closed batch in the order they are written (17 R227). -/
def batchEntries (b : Batch) (time : W64) (code : BitVec 16) : List Report :=
  let pages := pageRuns ((b.entries.filter (·.kind == 1)).foldl (fun l r => insPage r l) [])
  let rest := b.entries.filter (·.kind == 2) ++ b.entries.filter (·.kind == 3) ++ b.entries.filter (fun r => 4 ≤ r.kind.toNat)
  let n := 1 + pages.length + rest.length
  { report0 0 with a := time, count := BitVec.ofNat 32 n, code := code } :: (pages ++ rest)

/-- An open batch with nothing in it. -/
def batch0 : Batch := ⟨[], 0, none, []⟩

/-- The batch of a C-die. -/
def batchAt (s : State) (die : Nat) : Batch := mapGet batch0 s.batches die

/-- Set the batch of a C-die. -/
def setBatch (s : State) (die : Nat) (b : Batch) : State := { s with batches := mapPut batch0 s.batches die b }

/-- Word of the ring descriptor of a C-die, word 0 lowest (17 R225). -/
def ringWord (s : State) (die w : Nat) : Nat := memRead s 0 (regField s (offFring die) 63 6 * 64 + 8 * w) 8

/-- The ring has room for `k` entries (17 R225). -/
def ringRoom (s : State) (die k : Nat) : Bool :=
  let size := bits (ringWord s die 6) 63 32
  let head := bits (ringWord s die 6) 31 0
  let tail := bits (ringWord s die 5) 63 32
  let used := (tail + 2 ^ 32 - head) % 2 ^ 32
  regField s (offFring die) 0 0 == 1 && (64 ≤ size && size ≤ 65536 && size &&& (size - 1) == 0) &&
    ringWord s die 7 % 4096 == 0 && ((List.range 5).all fun w => ringWord s die w == 0) && used ≤ size && used + k ≤ size

/-- Write entries at the ring's tail, from count `n`. Answers the largest stamp. -/
def ringWrite (s : State) (base size : Nat) : Nat → List Report → State × Nat
  | _, [] => (s, 0)
  | n, r :: rs =>
    let (s, t) := devWriteWords s 0 (base + 32 * (n % size)) (reportWords r)
    let (s, t') := ringWrite s base size (n + 1) rs
    (s, max t t')

/-- A running bias command holds the ring's descriptor or the places of its next `k` entries (25 R324). -/
def ringHeld (s : State) (die k : Nat) : Bool :=
  let size := bits (ringWord s die 6) 63 32
  wordsHeld s (regField s (offFring die) 63 6 * 64) 8 ||
    (List.range k).any fun i => wordsHeld s (ringWord s die 7 + 32 * ((bits (ringWord s die 5) 63 32 + i) % size)) 4

/-- Write a closing batch if the ring has room and no bias command holds it: entries, TAIL, then the chime (17 R225, R227; 25 R324); held
entries open the next batch (17 R229). -/
def tryWrite (s : State) (die : Nat) : State :=
  let b := batchAt s die
  match b.closed with
  | none => s
  | some code =>
    let es := batchEntries b (dtime s die) code
    if ringRoom s die es.length && !ringHeld s die es.length then
      let tail := bits (ringWord s die 5) 63 32
      let w5 := ringWord s die 5
      let (s, t) := ringWrite s (ringWord s die 7) (bits (ringWord s die 6) 63 32) tail es
      let (s, t') := physStore s 0 (regField s (offFring die) 63 6 * 64 + 44) 4 ((tail + es.length) % 2 ^ 32) 0
      let s := setBatch s die { batch0 with entries := b.held, since := s.now }
      chimeDevice s (BitVec.ofNat 20 w5) (bits w5 31 20) 1 (max t t')
    else s

/-- Close the open batch of a C-die for a reason and write it if there is room (17 R227, R229). -/
def closeBatch (s : State) (die : Nat) (code : BitVec 16) : State :=
  let b := batchAt s die
  if b.closed.isSome then tryWrite s die
  else if b.entries.isEmpty then s
  else tryWrite (setBatch s die { b with closed := some code }) die

/-- Add one entry to a C-die's batch (17 R227): the 32nd page entry closes it. While it waits for room it takes entries up
to 256; beyond them page and parking entries are dropped and kinds 4 to 6 are held (17 R229). -/
def addReport (s : State) (die : Nat) (r : Report) : State :=
  let b := batchAt s die
  match b.closed with
  | some _ =>
    if b.entries.length < 256 then setBatch s die { b with entries := b.entries ++ [r] }
    else if 4 ≤ r.kind.toNat then setBatch s die { b with held := b.held ++ [r] }
    else s
  | none =>
    let es := b.entries ++ [r]
    let s := setBatch s die { b with entries := es, since := if b.entries.isEmpty then s.now else b.since }
    if 32 ≤ (es.filter (·.kind == 1)).length then closeBatch s die 1 else s

/-- A page or parking entry added now gets a place (17 R229). -/
def batchTakes (s : State) (die : Nat) : Bool :=
  (batchAt s die).closed.isNone || (batchAt s die).entries.length < 256

/-- A page entry (17 R226). `acc` has fetch, engine, write and read in bits 3 to 0. -/
def pageReport (f : PageFault) (acc : BitVec 4) : Report :=
  { report0 1 with a := BitVec.ofNat 64 f.page, count := 1, pasid := f.pasid, acc := acc, s2 := f.s2 }

/-- B of the reports of kinds 4 and 5: sr.team and sr.group (17 R226). -/
def teamGroup (team grp : Nat) : W64 := BitVec.ofNat 64 (team % 2 ^ 30 * 16 + grp % 16)

end Sys2Proof.Machine
end

