-- ==== Sys2Proof/Machine/Barrier.lean ====
section
/-! DEFINITION. Transaction barriers in vault memory (15 R194, R195), team barriers (15 R206), and reads of a kernel object
(27 R333, R334; 23 R304). -/

namespace Sys2Proof.Machine

/-- A transaction barrier as its 64 bytes read (15 R194); `rsv` keeps bits [95:4] as they stand. -/
structure Bar where
  cs : Nat
  fcode : Nat
  ops : Nat
  pcode : Nat
  init : Nat
  pend : Nat
  slots : List Nat
  rsv : Nat
  fail : Bool
  lerr : Bool
  phase : Bool
  valid : Bool
deriving DecidableEq, Repr

/-- The barrier at a vault key. -/
def readBar (s : State) (key : Nat) : Bar :=
  let x := vaultRead s key 64
  ⟨bits x 511 464, bits x 463 448, bits x 447 432, bits x 431 416, bits x 415 384, bits x 383 352,
    (List.range 4).map fun k => bits x (351 - 64 * k) (288 - 64 * k), bits x 95 4, bit x 3, bit x 2, bit x 1, bit x 0⟩

/-- One bit as a number. -/
def bitNat (b : Bool) : Nat := if b then 1 else 0

/-- The 64 bytes of a barrier. -/
def barVal (b : Bar) : Nat :=
  let sl := fun k => b.slots.getD k 0 % 2 ^ 64
  b.cs % 2 ^ 48 * 2 ^ 464 + b.fcode % 2 ^ 16 * 2 ^ 448 + b.ops % 2 ^ 16 * 2 ^ 432 + b.pcode % 2 ^ 16 * 2 ^ 416 +
    b.init % 2 ^ 32 * 2 ^ 384 + b.pend % 2 ^ 32 * 2 ^ 352 + sl 0 * 2 ^ 288 + sl 1 * 2 ^ 224 + sl 2 * 2 ^ 160 +
    sl 3 * 2 ^ 96 + b.rsv % 2 ^ 92 * 2 ^ 4 + bitNat b.fail * 8 + bitNat b.lerr * 4 + bitNat b.phase * 2 + bitNat b.valid

/-- Write a barrier; its bytes take no stamp of their own, CS is theirs (15 R194). -/
def writeBar (s : State) (key : Nat) (b : Bar) : State :=
  if s.vpoison.contains (key / 128) then s else { s with vault := writeN s.vault key 64 (barVal b) }

/-- The status word a completed phase leaves (15 R197). -/
def barStatus (b : Bar) : W32 := BitVec.ofNat 32 (bitNat b.lerr * 2 ^ 17 + bitNat b.phase * 2 ^ 16 + b.fcode % 2 ^ 16)

/-- V of a producer slot. -/
def slotV (x : Nat) : Bool := bit x 63
/-- CORE of a producer slot. -/
def slotCore (x : Nat) : Nat := bits x 53 48
/-- REM of a producer slot, signed. -/
def slotRem (x : Nat) : Int := (BitVec.ofNat 48 x).toInt

/-- Record a failure of the current phase: the first code stays (15 R195). -/
def barFail (b : Bar) (code : Nat) : Bar := { b with fail := true, pcode := if b.pcode = 0 then code else b.pcode }

/-- Add bytes to the slot of a core, taking the lowest free slot if none names it; OVERRUN if none is free
(15 R195, R196). -/
def barRem (b : Bar) (core : Nat) (d : Int) : Bar :=
  let set := fun (k : Nat) (x : Nat) =>
    { b with slots := b.slots.set k (2 ^ 63 + bits x 62 54 * 2 ^ 54 + core * 2 ^ 48 + (BitVec.ofInt 48 (slotRem x + d)).toNat) }
  match (List.range 4).find? fun k => slotV (b.slots.getD k 0) && slotCore (b.slots.getD k 0) == core with
  | some k => set k (b.slots.getD k 0)
  | none =>
    match (List.range 4).find? fun k => !slotV (b.slots.getD k 0) with
    | some k => set k 0
    | none => barFail b 0x0603

/-- A phase completes (15 R195). -/
def barComplete (b : Bar) : Bar :=
  { b with lerr := b.fail, fcode := b.pcode, fail := false, pcode := 0, pend := b.init, slots := [0, 0, 0, 0],
           phase := !b.phase }

/-- The completion rows of R195 after an event; `issue` marks an operation's issue. Answers whether a phase
completed. -/
def barRows (b : Bar) (issue : Bool) : Bar × Bool :=
  let used := b.slots.filter slotV
  if !b.fail && b.pend == 0 && (used.all fun x => slotRem x == 0) && !issue then (barComplete b, true)
  else
    let b := if !b.fail && b.pend == 0 && (used.any fun x => slotRem x < 0) then barFail b 0x0603 else b
    if b.fail && b.pend == 0 && b.ops == 0 then (barComplete b, true) else (b, false)

/-- The entries parked on a barrier whose phase of parity `par` has completed are released (15 R195, R197). -/
def barRelease (s : State) (key : Nat) (par : Bool) (b : Bar) : State :=
  wakeAll s (fun _ w => match w with | .bar k p _ _ _ => k == key && p == par | _ => false) (barStatus b) b.cs

/-- One event at a barrier, performed as one step with the completion it brings (15 R195). -/
def barEvent (s : State) (key : Nat) (issue : Bool) (f : Bar → Bar) : State :=
  let b := f (readBar s key)
  let (b', done) := barRows b issue
  let s := writeBar s key b'
  if done then barRelease s key b.phase b' else s

/-- A phase is made to complete at once in the error phase with a code, whatever PEND and OPS (17 R240; 25 R332). -/
def barBreak (s : State) (key : Nat) (code : Nat) (f : Bar → Bar) : State :=
  let b := f (readBar s key)
  let b' := barComplete { b with fail := true, pcode := code }
  barRelease (writeBar s key b') key b.phase b'

/-- An arrival with the arriving thread's lt (15 R195). -/
def barArrive (s : State) (key lt : Nat) : State :=
  barEvent s key false fun b =>
    let b := { b with cs := max b.cs lt }
    if b.pend = 0 then barFail b 0x0603 else { b with pend := b.pend - 1 }

/-- A delivery of bytes by an operation issued on a core, with the stamp of the write (15 R195). -/
def barDeliver (s : State) (key core n stamp : Nat) : State :=
  barEvent s key false fun b => let b := barRem b core (-(n : Int)); { b with cs := max b.cs stamp }

/-- A fault of an operation after its issue (15 R195, R205). -/
def barFault (s : State) (key code : Nat) : State := barEvent s key false fun b => barFail b code

/-- An operation that names the barrier is issued (15 R195). -/
def barOpIssue (s : State) (key : Nat) : State := barEvent s key true fun b => { b with ops := b.ops + 1 }

/-- An operation that names the barrier completes (15 R195). Where a plain store has set OPS to 0 the spec gives OPS - 1
neither a floor nor a wrap: it stays 0 (DESIGN CHOICE, unsafe; assumption 74). -/
def barOpDone (s : State) (key : Nat) : State := barEvent s key false fun b => { b with ops := b.ops - 1 }

/-- An entry is parked on the barrier (15 R196). -/
def barParked (s : State) (key : Nat) : Bool :=
  s.groups.any fun g => waitingOn g (fun w => match w with | .bar k _ _ _ _ => k == key | _ => false) != 0

/-- The lanes of a group that have arrived at team barrier `n`. -/
def tbarArrived (g : Group) (n : Nat) : W64 := waitingOn g fun w => match w with | .tbar k => k == n | _ => false

/-- Team barrier `n` of a team departs if every group of it has arrived or ended (15 R206; 13 R180); a stopped group counts as neither
(17 R217; 29 R349). -/
def tbarCheck (s : State) (team n : Nat) : State :=
  let gs := s.groups.filter fun g => g.team == team
  if (gs.any fun g => tbarArrived g n != 0) && gs.all fun g => g.stopped.isNone && (liveMask g &&& ~~~ tbarArrived g n) == 0 then
    wakeAll s (fun g w => g.team == team && match w with | .tbar k => k == n | _ => false) 0
      (maxList 0 (gs.map (·.lt)))
  else s

/-- Read `n` bytes of a context's memory as the device itself does for records: translated, without a cache
(17 R212; 27 R340). -/
def peek (s : State) (pasid : BitVec 20) (va n : Nat) : Option Nat :=
  if 2 ^ 57 ≤ va then none
  else
    match translate s pasid va 1 0 with
    | .ok x => some (memRead s (pasidKey s pasid) x.pa n)
    | .error _ => none

/-- `n` 64-bit words of a context's memory as one number. -/
def peekWords (s : State) (pasid : BitVec 20) (va : Nat) : Nat → Option Nat
  | 0 => some 0
  | n + 1 => do
    let x ← peek s pasid va 8
    let y ← peekWords s pasid (va + 8) n
    some (x + 2 ^ 64 * y)

/-- A record of the equivalence-point table (23 R304). -/
structure EqpRec where
  laddr : Nat
  daddr : Nat
  lmap : Nat
  dmap : Nat
  index : Nat
  nmap : Nat
  valid : Bool
  rsv : Nat
deriving DecidableEq, Repr

/-- Search `n` records from `va` for an index (23 R304). -/
def eqpSearch (s : State) (pasid : BitVec 20) (idx : Nat) : Nat → Nat → Option EqpRec
  | 0, _ => none
  | n + 1, va =>
    match peekWords s pasid va 4 with
    | none => none
    | some x =>
      if bits x 63 52 = idx then
        some ⟨bits x 255 192, bits x 191 128, bits x 127 96, bits x 95 64, idx, bits x 51 41, bit x 0, bits x 40 1⟩
      else eqpSearch s pasid idx n (va + 32)

/-- Header of a kernel object as one number (27 R333); none when it cannot be read or carries no MAGIC. -/
def kobjHeader (s : State) (pasid : BitVec 20) (kobj : Nat) : Option Nat :=
  match peekWords s pasid kobj 8 with
  | some x => if bits x 15 0 = 0xA17D then some x else none
  | none => none

/-- The equivalence-point table of a kernel object: its address and its header words (23 R304; 27 R333). -/
def eqpTable (s : State) (pasid : BitVec 20) (kobj : Nat) : Option (Nat × Nat) := do
  let h ← kobjHeader s pasid kobj
  if bits h 319 288 = 0 then none
  else
    let t := kobj + bits h 319 288
    some (t, ← peekWords s pasid t 4)

/-- The record of equivalence point `idx` in a kernel object (23 R304). -/
def eqpFind (s : State) (pasid : BitVec 20) (kobj idx : Nat) : Option EqpRec := do
  let (t, h) ← eqpTable s pasid kobj
  eqpSearch s pasid idx (min (bits h 63 0) 4096) (t + 32)

/-- The image directory entry of a form and tag (05 R59; 27 R334). -/
def imageFind (s : State) (pasid : BitVec 20) (kobj : Nat) (formL : Bool) (tag : BitVec 16) : Nat → Nat → Option Nat
  | 0, _ => none
  | n + 1, va =>
    match peekWords s pasid va 4 with
    | none => none
    | some x =>
      if bit x 0 == formL && bits x 31 24 == tag.toNat / 256 && bits x 23 16 == tag.toNat % 256 then
        some (kobj + bits x 255 192)
      else imageFind s pasid kobj formL tag n (va + 32)

/-- The image start of a form: the directory entry with the record's tag, or else the entry address (05 R59). -/
def imageBase (s : State) (pasid : BitVec 20) (kobj : Nat) (formL : Bool) (tag : BitVec 16) (entry : W64) : W64 :=
  match kobjHeader s pasid kobj with
  | none => entry
  | some h =>
    match imageFind s pasid kobj formL tag (bits h 255 252) (kobj + bits h 287 256) with
    | some ib => BitVec.ofNat 64 ib
    | none => entry

/-- The kernel has an image of a form: a directory entry with the tag, or an entry address (05 R59). -/
def imagePresent (s : State) (pasid : BitVec 20) (kobj : Nat) (formL : Bool) (tag : BitVec 16) (entry : W64) : Bool :=
  entry != 0 ||
    match kobjHeader s pasid kobj with
    | none => false
    | some h => (imageFind s pasid kobj formL tag (bits h 255 252) (kobj + bits h 287 256)).isSome

end Sys2Proof.Machine
end

