-- ==== Sys2Proof/Machine/Life.lean ====
section
/-! DEFINITION. The end of groups, teams, grids and contexts (03 R45; 17 R218, R239, R240; 21 R277, R294; 29 R357), and the
room of cores (21 R278). -/

namespace Sys2Proof.Machine

/-- Resident slots of a core (01 R19). -/
def coreSlots (c : Nat) : Nat := if isLCore c then 8 else 48

/-- The slot is the front group's own (21 R266). -/
def frontSlot (c k : Nat) : Bool := c % 16 == 0 && k == 0

/-- The groups resident on a core. -/
def residents (s : State) (c : Nat) : List Group := s.groups.filter fun g => g.core == c && isResident g

/-- The free slots of a core, less those a migration has reserved (21 R278; 23 R310). -/
def freeSlots (s : State) (c : Nat) : List Nat :=
  let free := (List.range (coreSlots c)).filter fun k =>
    !frontSlot c k && !((residents s c).any fun g => slotOf g == k)
  free.drop (s.groups.filter fun g => g.migCore == some c).length

/-- Lane registers a D-core has in use, migrations on their way included (21 R278). -/
def laneRegs (s : State) (c : Nat) : Nat :=
  if isLCore c then 0
  else ((residents s c).map fun g => g.ker.regsD * g.w).sum +
    ((s.groups.filter fun g => g.migCore == some c).map fun g => g.ker.regsD * g.w).sum

/-- Register room for `n` more groups on a core (21 R278). -/
def regRoom (s : State) (c n regs w : Nat) : Bool := isLCore c || laneRegs s c + n * regs * w ≤ 196608

/-- A record of a core's profile buffer; PRFPOS counts it whether or not it fits (29 R355). -/
def profRec (s : State) (core : Nat) (ws : List Nat) : State :=
  let r := offPrfctl core
  let size := 2 ^ (regField s r 43 40 + 12)
  let pos := (regGet s (offPrfpos core)).toNat
  let s := if pos + 8 * ws.length ≤ size then unitWrite s ((regGet s (r + 8)).toNat + pos) ws else s
  regSet s (offPrfpos core) (BitVec.ofNat 64 (pos + 8 * ws.length))

/-- The stall record of a group that ends (29 R357). -/
def stallRecord (s : State) (g : Group) : State :=
  let r := offPrfctl g.core
  if regField s r 0 0 == 1 && regField s r 63 44 == g.pasid.toNat then
    profRec s g.core ([2 + g.core * 2 ^ 8 + g.srGroup * 2 ^ 16 + g.srTeam * 2 ^ 32, g.ker.kobj.toNat, g.retired % 2 ^ 64,
      (rgn0 g).toNat + (rgn1 g).toNat * 2 ^ 16 + g.pasid.toNat * 2 ^ 32] ++
      (List.range 8).map fun i => mapGet 0 g.stalls i)
  else s

/-- The reservations and the failure counts of the lanes of a mask are lost (13 R169). -/
def loseResv (s : State) (gid : Nat) (m : W64) : State :=
  { s with resv := s.resv.filter fun r => !(r.gid == gid && m.getLsbD r.lane),
           scf := s.scf.filter fun r => !(r.gid == gid && m.getLsbD r.lane) }

/-- A rod of a pair. -/
def rod0 : Rod :=
  ⟨.off, ⟨0, 0, 0, 0, 0, 0, 0, 0, false, 0, 0, 0, 0, 0, 0, 0⟩, ⟨0, 0, 0, false, false, 0, 0, 0, 0⟩, [], 0, 0, none⟩

/-- Rod `r` of pair `p` (21 R281). -/
def getRod (s : State) (p r : Nat) : Rod := mapGet rod0 s.rods (64 * p + r)

/-- Set a rod. -/
def setRod (s : State) (p r : Nat) (x : Rod) : State := { s with rods := mapPut rod0 s.rods (64 * p + r) x }

/-- A pre-emption request completes when every group of its context is saved, or for a drain when no team of it remains
(17 R239; 21 R294). -/
def preemptCheck (s : State) : State :=
  s.preempts.foldl (fun s p =>
    let busy := if p.drain then s.teams.any fun t => t.pasid == p.pasid
      else s.groups.any fun g => g.pasid == p.pasid && isResident g
    if busy || ctxState s p.pasid != 1 then s
    else
      let s := { (setCtxState s p.pasid 2) with preempts := s.preempts.filter fun q => q.pasid != p.pasid }
      match p.sig with
      | some ch => chimeSignal s 0 ch.toNat 1 0 false
      | none => s) s

/-- A group ends: its stall record, its reservations, a remote store's failure it has not reported (17 R220), its place in its team (03 R45) and at the team's barriers (15 R206). -/
def endGroup (s : State) (g : Group) : State :=
  let s := stallRecord s g
  let s := loseResv s g.gid (fullMask 64)
  let s := match g.remFail with
    | some _ => addReport s (dieOf g.core)
        { report0 4 with b := teamGroup g.srTeam g.srGroup, pasid := g.pasid, code := 0x0602, count := 1,
                         core := BitVec.ofNat 6 g.core, slot := BitVec.ofNat 6 (slotOf g) }
    | none => s
  let s := { s with groups := s.groups.filter fun x => x.gid != g.gid,
                    accs := s.accs.filter fun a => !(a.gid == g.gid && a.ent < 16) }
  let s := updTeam s g.team fun t =>
    { t with gids := t.gids.filter (· != g.gid), ended := (t.gids.filter (· != g.gid)).isEmpty, stamp := max t.stamp g.lt }
  preemptCheck ((List.range 16).foldl (fun s n => tbarCheck s g.team n) s)

/-- Put a changed group in place, with its trace records; it ends when its last lane has exited (03 R32). -/
def commit (s : State) (g0 g1 : Group) (fall : Option (Nat × W64)) : State :=
  let s := flow (setGroup s g1) g0 g1 fall
  if liveMask g1 = 0 then endGroup s g1 else s

/-- The engine and matrix operations of a team are all complete (03 R45). -/
def teamIdle (s : State) (id : Nat) : Bool :=
  !(s.ops.any fun o => o.team == id) && !(s.mq.any fun q => q.2.any fun o => o.team == id)

/-- Teams of a grid (21 R274). -/
def gridTeams (l : Launch) : Nat := (l.gx + 1) * (l.gy + 1) * (l.gz + 1)

/-- A team's vault space is given back: its last holder is the team's context (03 R44; 31 R362). -/
def passSpace (s : State) (t : Team) : State :=
  let inside := fun (p : PastSpace) => p.core == t.home && t.vbase ≤ p.base && p.base + p.size ≤ t.vbase + t.vsize
  { s with pastSpace := ⟨t.home, t.vbase, t.vsize, t.pasid⟩ :: s.pastSpace.filter fun p => !inside p }

/-- A team gives back its vault space and tiles; the grid it ends completes (03 R45; 21 R277). -/
def releaseTeam (s : State) (t : Team) : State :=
  let s := passSpace s t
  let s := { s with teams := s.teams.filter fun x => x.id != t.id
                    bars := s.bars.filter fun b => !(vaultKey t.home t.vbase ≤ b && b < vaultKey t.home (t.vbase + t.vsize)) }
  let s := match t.grid with
    | none => s
    | some gr =>
      let s := { s with grids := s.grids.map fun (x : Grid) =>
        if x.id == gr then { x with ended := x.ended + 1, stamp := max x.stamp t.stamp } else x }
      match s.grids.find? fun (x : Grid) => x.id == gr with
      | none => s
      | some x =>
        if x.ended < gridTeams x.lrec then s
        else
          let s := { s with grids := s.grids.filter fun (y : Grid) => y.id != gr }
          if x.lrec.sigEn then
            chimeDevice s (if x.lrec.sigSvc then 0 else x.lrec.pasid) x.lrec.sigCh.toNat x.lrec.sigVal.toNat x.stamp
          else s
  preemptCheck s

/-- The barriers that operations of a context name, with how many of its operations name each. -/
def namedBars (s : State) (pasid : BitVec 20) : List Nat :=
  (s.ops.filter fun o => o.pasid == pasid).map (·.bar) ++
    s.mq.flatMap fun q => (q.2.filter fun o => o.pasid == pasid).filterMap (·.bar)

/-- Tear a context down (17 R240), with the code its barriers and its report take and the PC of its report. -/
def teardown (s : State) (pasid : BitVec 20) (code : BitVec 16) (pc : W64) : State :=
  let mine := s.groups.filter fun g => g.pasid == pasid
  let dies := dedup (mine.map fun g => dieOf g.core)
  let bars := namedBars s pasid
  let s := mine.foldl (fun s g => loseResv s g.gid (fullMask 64)) s
  let s := (s.teams.filter fun t => t.pasid == pasid).foldl passSpace s
  let s := { s with
    groups := s.groups.filter fun g => g.pasid != pasid
    accs := s.accs.filter fun a => !(a.pasid == pasid && a.ent < 16)
    ops := s.ops.filter fun o => o.pasid != pasid
    mq := (s.mq.map fun q => (q.1, q.2.filter fun o => o.pasid != pasid)).filter fun q => !q.2.isEmpty
    teams := s.teams.filter fun t => t.pasid != pasid
    bars := s.bars.filter fun b => !(s.teams.any fun t =>
      t.pasid == pasid && vaultKey t.home t.vbase ≤ b && b < vaultKey t.home (t.vbase + t.vsize))
    grids := s.grids.filter fun x => x.lrec.pasid != pasid
    resvd := s.resvd.filter fun r => !(mine.any fun g => g.gid == r.2) && !(s.grids.any fun x => x.id == r.2 && x.lrec.pasid == pasid)
    tlb := s.tlb.filter fun t => t.pasid != pasid
    l1 := s.l1.filter fun t => t.pasid != pasid
    micro := s.micro.filter fun t => t.pasid != pasid
    tileCtx := s.tileCtx.filter fun t => t.2 != pasid
    rods := (s.rods.map fun (k, r) =>
      (k, if r.cfg.pasid == pasid && r.st != .off then
        { r with beads := [], st := if r.st == .draining then .off else .empty } else r)).filter fun x => x.2 != rod0 }
  let s := mine.foldl (fun s g => flow s g { g with ents := List.replicate 16 freeEntry } none) s
  let s := (dedup bars).foldl (fun s key =>
    barBreak s key code.toNat fun b => { b with ops := b.ops - (bars.filter (· == key)).length }) s
  let s := dies.foldl (fun s d => addReport (settleFilters s) d { report0 6 with a := pc, pasid := pasid, code := code }) s
  setCtxState s pasid 3

end Sys2Proof.Machine
end

