-- ==== Sys2Proof/Machine/Stores.lean ====
section
/-! DEFINITION. How an access of a group is made and how a store leaves it (13 R156, R158, R163; 25 R321, R327). -/

namespace Sys2Proof.Machine

/-- The place `k` bytes further on. -/
def placeAdd : Place → Nat → Place
  | .vault a, k => .vault (a + k)
  | .mem a, k => .mem (a + k)
  | .host a, k => .host (a + k)
  | .remote d a, k => .remote d (a + k)

/-- The port that the routing entry of a device names (25 R327). -/
def entryPort (s : State) (dev : Nat) : Nat := memRead s 0 (routeAddr s dev) 2 % 32

/-- The port a request to a device leaves by; none when its routing entry says unreachable, or names a port that has gone down
since software wrote it (25 R327, R330). -/
def routeOf (s : State) (dev : Nat) : Option Nat :=
  let p := entryPort s dev
  if p ≤ 17 && (!s.portDown.contains p || s.rerouted.contains dev) then some p else none

/-- A request to another device that cannot leave: no route, and not this device (25 R327). -/
def noRoute (s : State) : Place → Bool
  | .remote d _ => d != devid s && (routeOf s d).isNone
  | _ => false

/-- Bytes of one part. -/
def partBytes (n : Nat) : Nat := if n = 16 then 8 else n

/-- Part `part` of an access of `n` bytes of a lane of a group, as it is sent; `ent` is the entry that waits, 16 for none. -/
def accOf (g : Group) (ent lane x : Nat) (p : Place) (part n : Nat) (op : AccOp) (data : W64) (nt acq renew sys : Bool) : Acc :=
  { gid := g.gid, ent := ent, lane := lane, part := part, core := g.core, pasid := g.pasid
    op := op, place := placeAdd p (8 * part), va := x + 8 * part, n := partBytes n, wide := n == 16, data := data, lt := g.lt
    renew := renew, nt := nt, acq := acq, sys := sys, tg := teamGroup g.srTeam g.srGroup, port := 31, rst := 0, perm := 0
    st := .sent }

/-- What a remote access asks of its target. -/
def remoteOpOf (a : Acc) : RemoteOp :=
  match a.op with
  | .store => .store (a.data.setWidth 128)
  | .amo op x y => .amo op x y
  | _ => .load

/-- The permissions of the translation of a page as a line's tag carries them: those the translation unit of the core holds, else those of
a walk (13 R158, R159). -/
def tagPerm (s : State) (core : Nat) (pasid : BitVec 20) (va : Nat) : BitVec 4 :=
  match s.tlb.find? fun t => t.die == dieOf core && t.pasid == pasid && t.vpage == va / 4096 with
  | some t => t.perm
  | none =>
    match translate s pasid va 1 (Config.choice s.seq) with
    | .ok y => BitVec.ofNat 4 y.perm
    | .error _ => 0

/-- Key of what a cluster translation unit holds of a window page of a device (25 R329). -/
def incnKey (die dev win : Nat) : Nat := (die * 2 ^ 20 + dev) * 2 ^ 31 + win / 4096

/-- The INCN a cluster's unit holds for a window page of a device; one it does not hold it has from the device, a free value (25 R329;
assumption 2). -/
def heldIncn (s : State) (die dev win : Nat) : W32 × State :=
  match mapGet 0 s.incns (incnKey die dev win) with
  | 0 =>
    let (x, s) := drawNat s
    (BitVec.ofNat 32 x, { s with incns := mapPut 0 s.incns (incnKey die dev win) (x % 2 ^ 32 + 1) })
  | n + 1 => (BitVec.ofNat 32 n, s)

/-- The unit drops what it holds for a window page whose device has answered REMOTE (25 R329). -/
def dropIncn (s : State) (die dev win : Nat) : State := { s with incns := mapPut 0 s.incns (incnKey die dev win) 0 }

/-- A request leaves for another device by the port its routing entry names, with the INCN the unit holds (25 R327, R329). -/
def askRemote (s : State) (core dev win n lt : Nat) (op : RemoteOp) : State :=
  if dev = devid s then s
  else
    match routeOf s dev with
    | none => s
    | some p =>
      let (i, s) := heldIncn s (dieOf core) dev win
      { s with outbox := s.outbox ++ [.ask p (BitVec.ofNat 20 dev)
          ⟨BitVec.ofNat 20 (devid s), i, BitVec.ofNat 43 win, n, BitVec.ofNat 48 lt, op⟩] }

/-- A remote access leaves by its port. The two halves of an access of 16 bytes leave as one request, with the second, whose first half
is `lo` (13 R185 to R187; 25 R328). -/
def sendRemote (s : State) (a : Acc) (lo : W64) : State × Acc :=
  match a.place with
  | .remote d w =>
    let s :=
      if !a.wide then askRemote s a.core d w a.n a.lt (remoteOpOf a)
      else if a.part = 0 then s
      else askRemote s a.core d (w - 8) 16 a.lt (match a.op with | .store => .store (a.data ++ lo) | _ => remoteOpOf a)
    (s, { a with port := (routeOf s d).getD 31 })
  | _ => (s, a)

/-- Remote accesses of a list leave in order. -/
def sendRemotes (s : State) : List Acc → State × List Acc
  | [] => (s, [])
  | a :: as =>
    let (s, a) := if a.st == .sent then sendRemote s a 0 else (s, a)
    let (s, as) := sendRemotes s as
    (s, a :: as)

/-- A store leaves its group (13 R156, R158, R163; 25 R321, R327): into the coalescing buffer, in system space to its home, to the
vault, host or remote device as a posted store. One that no route serves has failed; of several failures the first is kept (17 R220;
assumption 88). -/
def groupStore (s : State) (g : Group) (a : Acc) : State × Group :=
  match a.place with
  | .mem pa =>
    if a.sys then
      let (s, ws) := physStore s 0 pa a.n a.data.toNat g.lt
      (raiseLt s g.gid ws, { g with lt := max g.lt ws })
    else
      (bufferStore s ⟨g.core, lineOf pa, maskAt pa a.n, dataAt pa (a.data.toNat % 2 ^ (8 * a.n)), g.lt, [g.gid], g.pasid, a.nt, false⟩,
        g)
  | p =>
    if noRoute s p then (s, { g with remFail := if g.remFail.isSome then g.remFail else some (BitVec.ofNat 64 a.va) })
    else
      let (s, a) := sendRemote s a ((s.accs.getLast?.map (·.data)).getD 0)
      ({ s with accs := s.accs ++ [a] }, g)

/-- Words stored from a place on, each as one store of eight bytes. -/
def storeWords (s : State) (g : Group) (lane va : Nat) (p : Place) (sys : Bool) : List Nat → State × Group
  | [] => (s, g)
  | w :: ws =>
    let (s, g) := groupStore s g (accOf g 16 lane va p 0 8 .store (BitVec.ofNat 64 w) false false false sys)
    storeWords s g lane (va + 8) (placeAdd p 8) sys ws

end Sys2Proof.Machine
end

