-- ==== Sys2Proof/Machine/Rings.lean ====
section
/-! DEFINITION. Request and completion rings (21 R267 to R272; 25 R316 to R320): their addresses, pops, completion records, and the
waits of QPOP and QDONE. -/

namespace Sys2Proof.Machine

/-- The physical address of a ring access of an interface, or the fault code it fails with (25 R320): through the function's stage
2 while FS2ROOT.EN is set. -/
def ringAddr (s : State) (i : Nat) (a need : Nat) : Except (BitVec 16) Nat :=
  let f := (qif s i).func
  let ok := fun (pa : Nat) => if targetOk pa then Except.ok pa else .error 0x0304
  if regField s (offFs2root f) 0 0 = 1 then
    match stage2 s (regField s (offFs2root f) 63 12 * 4096) (Config.choice s.seq) a need with
    | .ok pa => ok pa
    | .error (.page _ _) => .error 0x0303
    | .error (.perm _) => .error 0x0304
    | .error (.ecc _) => .error 0x0601
  else ok a

/-- A failed ring access (25 R320): EN becomes 0, and the function's first fault is recorded. -/
def ringFail (s : State) (i : Nat) (code : BitVec 16) : State :=
  let f := (qif s i).func
  let s := regSetField s (offQif i 3) 42 42 0
  if regField s (offFstat f) 0 0 = 1 then s
  else regSetField (regSetField (regSetField s (offFstat f) 31 16 code.toNat) (offFstat f) 15 8 i) (offFstat f) 0 0 1

/-- The completion ring of an interface has room (21 R270). -/
def complRoom (s : State) (i : Nat) : Bool := (((qif s i).ctail + 2 ^ 32 - (qif s i).chead) % 2 ^ 32) < 2 ^ (qif s i).csize

/-- Write a completion record and advance CTAIL (21 R270, R272); a failed write leaves CTAIL as it is (25 R320). -/
def writeCompl (s : State) (r : Compl) (die : Nat) : State :=
  let q := qif s r.intf
  match ringAddr s r.intf (q.cbase + 16 * (q.ctail % 2 ^ q.csize)) 2 with
  | .error code => ringFail s r.intf code
  | .ok pa =>
    let (s, _) := devWriteWords s 0 pa [r.tag.toNat + r.intf * 2 ^ 32 + r.status.toNat * 2 ^ 40 + r.code.toNat * 2 ^ 48,
      (dtime s die).toNat]
    regSetField s (offQif r.intf 4) 63 32 ((q.ctail + 1) % 2 ^ 32)

/-- A running bias command holds the place of the next completion record of an interface (25 R324). -/
def complHeld (s : State) (i : Nat) : Bool :=
  let q := qif s i
  match ringAddr s i (q.cbase + 16 * (q.ctail % 2 ^ q.csize)) 2 with
  | .ok pa => wordsHeld s pa 2
  | .error _ => false

/-- The `k`-th waiting completion record of a refused packet is written when its ring has room and no earlier one of its interface
waits; one whose interface is not enabled is dropped (21 R270; 25 R320). -/
def complStep (s : State) (k : Nat) : State :=
  match s.compl[k]? with
  | none => s
  | some r =>
    if (s.compl.take k).any fun x => x.intf == r.intf then s
    else if !qifLive s r.intf then { s with compl := dropAt s.compl k }
    else if complRoom s r.intf && !complHeld s r.intf then writeCompl { s with compl := dropAt s.compl k } r (qif s r.intf).front
    else s

/-- The waiting records of an interface go first, as far as there is room (21 R269). -/
def complFlush (s : State) (i : Nat) : Nat → State
  | 0 => s
  | n + 1 =>
    match (List.range s.compl.length).find? fun k => (s.compl[k]?).any fun r => r.intf == i with
    | none => s
    | some k => complFlush (complStep s k) i n

/-- A record of QDONE can be written now: none of its interface waits, the ring has room, and no bias command holds its place (21 R269,
R272; 25 R324). -/
def complNow (s : State) (i : Nat) : Bool := complRoom s i && !complHeld s i && !(s.compl.any fun r => r.intf == i)

/-- The interfaces a C-die's QPOP takes packets from (21 R271). -/
def popSet (s : State) (die : Nat) : List Nat :=
  (List.range 256).filter fun i => let q := qif s i; qifLive s i && q.front == die && q.rtail != q.rhead

/-- The interface the next pop takes (21 R271): the highest PRIO, then the first after the last one popped, with wrap-around. -/
def popPick (s : State) (die : Nat) : Option Nat :=
  let is := popSet s die
  let top := maxList 0 (is.map fun i => (qif s i).prio)
  let is := is.filter fun i => (qif s i).prio == top
  let last := mapGet 255 s.lastPop die
  match is.find? fun i => last < i with
  | some i => some i
  | none => is.head?

/-- A PASID is assigned to a function (25 R319). -/
def pamapOk (s : State) (pasid : BitVec 20) (f : Nat) : Bool :=
  regField s offPamap 0 0 == 1 && bit (memRead s 0 (regField s offPamap 63 20 * 2 ^ 20 + pasid.toNat) 1) f

/-- A packet is refused (21 R269). -/
def pktRefused (s : State) (i h : Nat) : Bool :=
  let pasid : BitVec 20 := fld 20 63 44 h
  bits h 43 32 != 0 || pasid == 0 || !pamapOk s pasid (qif s i).func || !ctxValid s pasid || ctxState s pasid == 3

/-- One turn of QPOP's loop (21 R271): nothing to take, a packet with its words and the port lt recorded for it, or the loop goes
on. -/
inductive Pop where
  | empty
  | packet (i : Nat) (words : List Nat) (lt : Nat)
  | loop
deriving DecidableEq, Repr

/-- Read the eight words of a packet; none when an uncorrectable error lies in them. -/
def readPacket (s : State) (pa : Nat) : State × Option (List Nat) :=
  if pa < Config.memSize && s.poison.contains (lineOf pa) then (s, none)
  else
    (List.range 8).foldl (fun (x : State × Option (List Nat)) k =>
      let (s, v, _) := physLoad x.1 0 (pa + 8 * k) 8 0
      (s, x.2.map (· ++ [v]))) (s, some [])

/-- One turn of QPOP's loop on a C-die (21 R271; 25 R320). -/
def popStep (s : State) (die : Nat) : State × Pop :=
  match popPick s die with
  | none => (s, .empty)
  | some i =>
    let q := qif s i
    match ringAddr s i (q.rbase + 64 * (q.rhead % 2 ^ q.rsize)) 1 with
    | .error code => (ringFail s i code, .loop)
    | .ok pa =>
      let (s, ws) := readPacket s pa
      match ws with
      | none => (ringFail s i 0x0601, .loop)
      | some ws =>
        let s := { regSetField s (offQif i 5) 31 0 ((q.rhead + 1) % 2 ^ 32) with lastPop := mapPut 255 s.lastPop die i }
        let h := ws.headD 0
        if pktRefused s i h then
          ({ s with compl := s.compl ++ [⟨i, BitVec.ofNat 32 h, 0, 1⟩] }, .loop)
        else (s, .packet i ws (mapGet 0 s.announced (i * 65536 + q.rhead % 65536)))

/-- The records that groups parked at QDONE wait to write, in turn (21 R272): a disabled interface ends the wait without one. -/
def qdoneGo (s : State) : State :=
  s.groups.foldl (fun s g =>
    match getGroup s g.gid with
    | none => s
    | some g =>
      (waitsOf g fun w => match w with | .qdone .. => true | _ => false).foldl (fun s w =>
        match w with
        | .qdone i tag code st =>
          let wake := fun (s : State) => match getGroup s g.gid with
            | some g => putGroup s (wakeGroup g (· == w) 0 0)
            | none => s
          if !qifLive s i then wake s
          else
            let s := complFlush s i s.compl.length
            if complNow s i then wake (writeCompl s ⟨i, tag, code, st⟩ (dieOf g.core))
            else if !qifLive s i then wake s else s
        | _ => s) s) s

/-- QPOP's loop (21 R271): `fuel` bounds the packets refused and rings failed in one execution. -/
def popLoop (s : State) (die : Nat) : Nat → State × Pop
  | 0 => (s, .empty)
  | fuel + 1 =>
    let (s, r) := popStep s die
    match r with
    | .loop => popLoop s die fuel
    | r => (s, r)

/-- Packets and failing rings a C-die's loop can meet: every interface fails once, and refuses at most its ring. -/
def popFuel (s : State) (die : Nat) : Nat :=
  1 + ((popSet s die).map fun i => 1 + ((qif s i).rtail + 2 ^ 32 - (qif s i).rhead) % 2 ^ 32).sum

/-- sD of a QPOP that took a packet of interface `i` (21 R271). -/
def popStatus (i : Nat) : W32 := BitVec.ofNat 32 (2 ^ 31 + i)

/-- A running bias command holds the place of a packet that QPOP is to store in system space; other stores wait in their core's buffer
(25 R324). -/
def packetHeld (s : State) (p : Place) (sys : Bool) : Bool :=
  sys && match p with | .mem pa => biasHeld s (lineOf pa) | _ => false

/-- A parked QPOP repeats its loop (21 R271; 03 R373): with a packet it stores it and completes, else it goes on waiting. -/
def qpopWait (s : State) (gid : Nat) (w : Wait) : State :=
  match w, getGroup s gid with
  | .qpop lane va p sys _ _, some g =>
    if packetHeld s p sys then s else
    let (s, r) := popLoop s (dieOf g.core) (popFuel s (dieOf g.core))
    match r, getGroup s gid with
    | .packet i ws lt, some g =>
      let (s, g) := storeWords s g lane va p sys ws
      putGroup s (wakeGroup g (· == w) (popStatus i) lt)
    | _, _ => s
  | _, _ => s

/-- Parked QPOPs of C-dies with a packet repeat their loop (21 R271). -/
def qpopGo (s : State) : State :=
  s.groups.foldl (fun s g =>
    (waitsOf g fun w => match w with | .qpop .. => true | _ => false).foldl (fun s w => qpopWait s g.gid w) s) s

/-- Interfaces have changed: parked QDONEs are tested again, and parked QPOPs repeat their loop (21 R271, R272). -/
def queueWake (s : State) : State := qdoneGo (qpopGo (qdoneGo s))

/-- A notify write of a function to BAR0 (21 R268; 25 R317): accepted, or counted in NDROP. -/
def notify (s : State) (f : Nat) (off bytes val : Nat) (lt : Nat) : State :=
  let i := off / 4096
  let q := qif s i
  let t := val % 2 ^ 32
  if off % 4096 = 0 && bytes == 8 && bits val 63 40 == 0 && bits val 39 32 == i && i < 256 && q.func == f && qifLive s i &&
      (t + 2 ^ 32 - q.rtail) % 2 ^ 32 ≤ 2 ^ q.rsize && (t + 2 ^ 32 - q.rhead) % 2 ^ 32 ≤ 2 ^ q.rsize then
    let n := (t + 2 ^ 32 - q.rtail) % 2 ^ 32
    let s := regSetField s (offQif i 5) 63 32 t
    queueWake { s with announced := (List.range n).foldl (fun m k =>
      mapPut 0 m (i * 65536 + (q.rtail + k) % 65536) lt) s.announced }
  else
    let d := regField s (offFstat f) 63 32
    regSetField s (offFstat f) 63 32 (min (d + 1) (2 ^ 32 - 1))

end Sys2Proof.Machine
end

