-- ==== Sys2Proof/Machine/Float.lean ====
section
/-! DEFINITION. Floating-point values as exact dyadics, rounding into every format (07 R84 to R97), and the float
functions with their error bounds (07 R98, R99). -/

namespace Sys2Proof.Machine

/-- A format (07 R84, R85): exponent and fraction widths, bias, and how its top exponent is used: 0 infinities and NaNs,
1 E4M3 (one NaN, no infinity), 2 FP4 (numbers only). -/
structure Fmt where
  eb : Nat
  mb : Nat
  bias : Nat
  kind : Nat
deriving DecidableEq, Repr

/-- FP64 (07 R84). -/
def fp64 : Fmt := ⟨11, 52, 1023, 0⟩
/-- FP32 (07 R84). -/
def fp32 : Fmt := ⟨8, 23, 127, 0⟩
/-- FP16 (07 R84). -/
def fp16 : Fmt := ⟨5, 10, 15, 0⟩
/-- BF16 (07 R84). -/
def bfp16 : Fmt := ⟨8, 7, 127, 0⟩
/-- FP8 E5M2 (07 R84). -/
def fpE5m2 : Fmt := ⟨5, 2, 15, 0⟩
/-- FP8 E4M3 (07 R84). -/
def fpE4m3 : Fmt := ⟨4, 3, 7, 1⟩
/-- FP4 E2M1 (07 R84). -/
def fpE2m1 : Fmt := ⟨2, 1, 1, 2⟩

/-- A value: NaN, a signed infinity, or (−1)^neg × m × 2^e exactly. -/
inductive FVal where
  | nan
  | inf (neg : Bool)
  | fin (neg : Bool) (m : Nat) (e : Int)
deriving DecidableEq, Repr

/-- Rounding directions of a result (07 R88). -/
inductive RMode where | rn | rz | ru | rd
deriving DecidableEq, Repr

/-- The direction a two-bit mode field names (07 R90). -/
def rmodeOf (x : BitVec 2) : RMode := if x = 0 then .rn else if x = 1 then .rz else if x = 2 then .ru else .rd

/-- The direction of a rounding code, `dyn` where the code is 0 (05 R66). The stochastic code has no direction here. -/
def codeMode (dyn : RMode) : Rnd → RMode
  | .dyn => dyn
  | .rn => .rn
  | .rz => .rz
  | .ru => .ru
  | .rd => .rd
  | .rs => .rn

/-- The value of a bit pattern (07 R84, R85). -/
def decodeF (f : Fmt) (x : Nat) : FVal :=
  let m := x % 2 ^ f.mb
  let e := x / 2 ^ f.mb % 2 ^ f.eb
  let neg := x / 2 ^ (f.mb + f.eb) % 2 == 1
  if f.kind = 0 ∧ e = 2 ^ f.eb - 1 then (if m = 0 then .inf neg else .nan)
  else if f.kind = 1 ∧ e = 2 ^ f.eb - 1 ∧ m = 2 ^ f.mb - 1 then .nan
  else if e = 0 then .fin neg m (1 - (f.bias : Int) - f.mb)
  else .fin neg (2 ^ f.mb + m) ((e : Int) - f.bias - f.mb)

/-- The pattern is a subnormal (07 R92). -/
def isSubnormal (f : Fmt) (x : Nat) : Bool := x / 2 ^ f.mb % 2 ^ f.eb == 0 && x % 2 ^ f.mb != 0

/-- Read an operand, flushing a subnormal to zero of its sign when `fz` (07 R92). -/
def readF (f : Fmt) (fz : Bool) (x : Nat) : FVal :=
  if fz && isSubnormal f x then .fin (x / 2 ^ (f.mb + f.eb) % 2 == 1) 0 0 else decodeF f x

/-- The canonical NaN (07 R85); FP4 writes code 0 (07 R93). -/
def canonNaN (f : Fmt) : Nat :=
  if f.kind = 2 then 0
  else if f.kind = 1 then 2 ^ (f.mb + f.eb) - 1
  else if f.mb = 2 then 126
  else (2 ^ f.eb - 1) * 2 ^ f.mb + 2 ^ (f.mb - 1)

/-- The sign bit of a pattern. -/
def signBit (f : Fmt) (neg : Bool) : Nat := if neg then 2 ^ (f.mb + f.eb) else 0

/-- The pattern of the largest finite magnitude (07 R84). -/
def maxFinite (f : Fmt) : Nat :=
  if f.kind = 0 then (2 ^ f.eb - 1) * 2 ^ f.mb - 1 else if f.kind = 1 then 126 else 7

/-- The step exponent at the subnormals of a format. -/
def minStep (f : Fmt) : Int := 1 - (f.bias : Int) - f.mb

/-- The step exponent at the largest finite magnitude. -/
def maxStep (f : Fmt) : Int :=
  (if f.kind = 0 then (f.bias : Int) else (2 ^ f.eb - 1 : Nat) - (f.bias : Int)) - f.mb

/-- The significand of the largest finite magnitude, in units of `maxStep`. -/
def maxSig (f : Fmt) : Nat := if f.kind = 1 then 14 else 2 ^ (f.mb + 1) - 1

/-- Whether a magnitude between n and n + 1 steps is taken up, from the remainder `rem` out of `2 * half` (07 R88). -/
def roundsUp (mode : RMode) (neg : Bool) (n rem half : Nat) : Bool :=
  match mode with
  | .rn => decide (half < rem) || (rem == half && n % 2 == 1)
  | .rz => false
  | .ru => !neg && rem != 0
  | .rd => neg && rem != 0

/-- Step 1 of rounding: the significand and step exponent a magnitude m × 2^e becomes (07 R88). -/
def roundStep (f : Fmt) (mode : RMode) (neg : Bool) (m : Nat) (e : Int) : Nat × Int :=
  let q := max ((Nat.log2 m : Int) + e - f.mb) (minStep f)
  if q ≤ e then (m * 2 ^ (e - q).toNat, q)
  else
    let k := (q - e).toNat
    let n := m / 2 ^ k
    let n' := if roundsUp mode neg n (m % 2 ^ k * 2) (2 ^ k) then n + 1 else n
    (n', q)

/-- The pattern of n × 2^q without its sign, for a magnitude within range (07 R84). -/
def encodeMag (f : Fmt) (n : Nat) (q : Int) : Nat :=
  if n < 2 ^ f.mb then n
  else if n < 2 ^ (f.mb + 1) then (q + f.bias + f.mb).toNat * 2 ^ f.mb + (n - 2 ^ f.mb)
  else (q + 1 + f.bias + f.mb).toNat * 2 ^ f.mb

/-- The result of an overflow (07 R88; for formats without infinity, and for conversions into E5M2, 07 R93). -/
def overflowF (f : Fmt) (mode : RMode) (neg : Bool) : Nat :=
  let inf := (2 ^ f.eb - 1) * 2 ^ f.mb
  if f.kind ≠ 0 ∨ f.mb = 2 then maxFinite f
  else
    match mode with
    | .rn => inf
    | .rz => maxFinite f
    | .ru => if neg then maxFinite f else inf
    | .rd => if neg then inf else maxFinite f

/-- Round a value into a format (07 R88, R93), delivering a result below the smallest normal as zero when `fz`
(07 R92). -/
def roundF (f : Fmt) (mode : RMode) (fz : Bool) : FVal → Nat
  | .nan => canonNaN f
  | .inf neg =>
    if f.kind = 1 then canonNaN f
    else if f.kind = 2 then signBit f neg + maxFinite f
    else signBit f neg + (2 ^ f.eb - 1) * 2 ^ f.mb
  | .fin neg m e =>
    if m = 0 then signBit f neg
    else
      let r := roundStep f mode neg m e
      if maxStep f < r.2 ∨ (r.2 = maxStep f ∧ maxSig f < r.1) then signBit f neg + overflowF f mode neg
      else if fz ∧ r.1 < 2 ^ f.mb then signBit f neg
      else signBit f neg + encodeMag f r.1 r.2

/-- The signed significand of a finite value at a common exponent. -/
def alignF (neg : Bool) (m : Nat) (e e0 : Int) : Int :=
  if neg then -((m * 2 ^ (e - e0).toNat : Nat) : Int) else ((m * 2 ^ (e - e0).toNat : Nat) : Int)

/-- The exact sum, with the sign of an exact zero as 07 R88 states. -/
def addF (mode : RMode) : FVal → FVal → FVal
  | .nan, _ => .nan
  | _, .nan => .nan
  | .inf a, .inf b => if a = b then .inf a else .nan
  | .inf a, .fin _ _ _ => .inf a
  | .fin _ _ _, .inf b => .inf b
  | .fin na ma ea, .fin nb mb eb =>
    let e := min ea eb
    let x := alignF na ma ea e + alignF nb mb eb e
    if x = 0 then
      (if ma = 0 ∧ mb = 0 ∧ na = nb then .fin na 0 0 else .fin (mode == .rd) 0 0)
    else .fin (decide (x < 0)) x.natAbs e

/-- Negation. -/
def negF : FVal → FVal
  | .nan => .nan
  | .inf n => .inf (!n)
  | .fin n m e => .fin (!n) m e

/-- The exact product; a zero product has the XOR of the signs (07 R88, R93). -/
def mulF : FVal → FVal → FVal
  | .nan, _ => .nan
  | _, .nan => .nan
  | .inf a, .inf b => .inf (a != b)
  | .inf a, .fin b m _ => if m = 0 then .nan else .inf (a != b)
  | .fin a m _, .inf b => if m = 0 then .nan else .inf (a != b)
  | .fin a ma ea, .fin b mb eb => .fin (a != b) (ma * mb) (ea + eb)

/-- x × 2^n (07 R93). -/
def scaleF (n : Int) : FVal → FVal
  | .nan => .nan
  | .inf a => .inf a
  | .fin a m e => .fin a m (e + n)

/-- The quotient with enough bits, and a sticky bit, for one rounding into any format (07 R93, R98). -/
def divF : FVal → FVal → FVal
  | .nan, _ => .nan
  | _, .nan => .nan
  | .inf _, .inf _ => .nan
  | .inf a, .fin b _ _ => .inf (a != b)
  | .fin a _ _, .inf b => .fin (a != b) 0 0
  | .fin a ma ea, .fin b mb eb =>
    if mb = 0 then (if ma = 0 then .nan else .inf (a != b))
    else if ma = 0 then .fin (a != b) 0 0
    else
      let k := 60 + Nat.log2 mb
      let n := ma * 2 ^ k
      .fin (a != b) (2 * (n / mb) + if n % mb = 0 then 0 else 1) (ea - eb - k - 1)

/-- The integer square root by bits: `b` bits are still to be decided above the partial root `r`. -/
def isqrtBits (n : Nat) : Nat → Nat → Nat
  | 0, r => r
  | b + 1, r => if (r + 2 ^ b) * (r + 2 ^ b) ≤ n then isqrtBits n b (r + 2 ^ b) else isqrtBits n b r

/-- The integer square root. -/
def isqrt (n : Nat) : Nat := isqrtBits n (Nat.log2 n / 2 + 1) 0

/-- The square root with enough bits and a sticky bit (07 R93, R98). -/
def sqrtF : FVal → FVal
  | .nan => .nan
  | .inf neg => if neg then .nan else .inf false
  | .fin neg m e =>
    if m = 0 then .fin neg 0 0
    else if neg then .nan
    else
      let m1 := if e % 2 = 0 then m else 2 * m
      let e1 := if e % 2 = 0 then e else e - 1
      let n := m1 * 2 ^ 120
      let r := isqrt n
      .fin false (2 * r + if r * r = n then 0 else 1) (e1 / 2 - 61)

/-- Comparison of two ordered values: −1, 0 or 1; −0 = +0 (07 R94). Infinities lie beyond every finite value. -/
def cmpF : FVal → FVal → Int
  | .inf a, .inf b => if a = b then 0 else if a then -1 else 1
  | .inf a, _ => if a then -1 else 1
  | _, .inf b => if b then 1 else -1
  | .fin na ma ea, .fin nb mb eb =>
    let e := min ea eb
    let x := alignF na ma ea e - alignF nb mb eb e
    if x < 0 then -1 else if x = 0 then 0 else 1
  | _, _ => 0

/-- FSETP's condition (07 R94). -/
def fltCond (c : FltCond) (a b : FVal) : Bool :=
  let un := a == .nan || b == .nan
  match c with
  | .eq => !un && cmpF a b == 0
  | .ne => un || cmpF a b != 0
  | .lt => !un && decide (cmpF a b < 0)
  | .le => !un && decide (cmpF a b ≤ 0)
  | .num => !un
  | .nan => un

/-- The sign of a value that is not NaN. -/
def negOf : FVal → Bool
  | .nan => false
  | .inf n => n
  | .fin n _ _ => n

/-- FMIN and FMAX on values (07 R94): the other operand of a NaN, −0 below +0. -/
def minmaxF (mx : Bool) (a b : FVal) : FVal :=
  if a = .nan then b
  else if b = .nan then a
  else
    let c := cmpF a b
    let aFirst := if c = 0 then negOf a else decide (c < 0)
    if aFirst != mx then a else b

/-- A magnitude m × 2^e rounded to an integer in a direction. -/
def intMag (mode : RMode) (neg : Bool) (m : Nat) (e : Int) : Nat :=
  if 0 ≤ e then m * 2 ^ e.toNat
  else
    let k := (-e).toNat
    let n := m / 2 ^ k
    if roundsUp mode neg n (m % 2 ^ k * 2) (2 ^ k) then n + 1 else n

/-- FRND: the integral value a direction selects, sign kept (11 R137; 07 R98). -/
def rndIntF (mode : RMode) : FVal → FVal
  | .nan => .nan
  | .inf n => .inf n
  | .fin neg m e => if 0 ≤ e then .fin neg m e else .fin neg (intMag mode neg m e) 0

/-- Float to integer: round by the direction, saturate to [lo, hi]; NaN gives 0, an infinity the limit (07 R93). -/
def toIntF (mode : RMode) (lo hi : Int) : FVal → Int
  | .nan => 0
  | .inf neg => if neg then lo else hi
  | .fin neg m e =>
    let n := intMag mode neg m e
    sat (if neg then -(n : Int) else n) lo hi

/-- An integer as an exact value; zero is +0. -/
def ofIntF (x : Int) : FVal := .fin (decide (x < 0)) x.natAbs 0

/-- Stochastic rounding of a finite value into a narrow format with the random word q (07 R89, R93). -/
def stochF (f : Fmt) (q : Nat) : FVal → Nat
  | .nan => canonNaN f
  | .inf neg => roundF f .rz false (.inf neg)
  | .fin neg m e =>
    if m = 0 then signBit f neg
    else
      let s := max ((Nat.log2 m : Int) + e - f.mb) (minStep f)
      if s ≤ e then roundF f .rz false (.fin neg m e)
      else
        let k := (s - e).toNat
        let n := m / 2 ^ k
        let fr := m % 2 ^ k * 4294967296 / 2 ^ k
        roundF f .rz false (.fin neg (if q < fr then n + 1 else n) s)

/-- The class bit of a pattern (11 R140). -/
def classF (f : Fmt) (x : Nat) : Nat :=
  let neg := x / 2 ^ (f.mb + f.eb) % 2 == 1
  let e := x / 2 ^ f.mb % 2 ^ f.eb
  let m := x % 2 ^ f.mb
  if e = 2 ^ f.eb - 1 then
    (if m = 0 then (if neg then 1 else 128) else if m < 2 ^ (f.mb - 1) then 256 else 512)
  else if e = 0 then (if m = 0 then (if neg then 8 else 16) else if neg then 4 else 32)
  else if neg then 2 else 64

/-- Fraction bits of the fixed-point enclosures below. -/
def fixBits : Nat := 400

/-- 1 in fixed point. -/
def fixOne : Int := 2 ^ fixBits

/-- Product in fixed point. -/
def fixMul (a b : Int) : Int := a * b / fixOne

/-- π to 512 fraction bits. -/
def piBits : Nat :=
  0x3243f6a8885a308d313198a2e03707344a4093822299f31d0082efa98ec4e6c89452821e638d01377be5466cf34e90c6cc0ac29b7c97c50dd3f84d5b5b5470917

/-- ln 2 to 512 fraction bits. -/
def ln2Bits : Nat :=
  0xb17217f7d1cf79abc9e3b39803f2f6af40f343267298b62d8a0d175b8baafa2be7b876206debac98559552fb4afa1b10ed2eae35c138214427573b291169b825

/-- ln 2 in fixed point. -/
def fixLn2 : Int := ln2Bits / 2 ^ 112

/-- The exponential series of a fixed-point x, `n` terms from the k-th on, the last term `t`. -/
def expSeries (x : Int) : Nat → Nat → Int → Int
  | 0, _, _ => 0
  | n + 1, k, t => t + expSeries x n (k + 1) (fixMul t x / (k + 1))

/-- 2^x for a finite x: significand with `fixBits` fraction bits in [1, 2], and exponent (07 R98). Beyond ±4,096 the
argument is taken as ±4,096, which every format overflows or underflows. -/
def exp2Fix (neg : Bool) (m : Nat) (e : Int) : Int × Int :=
  let mag : Int := if 12 < (Nat.log2 m : Int) + e then 4096 * fixOne
    else if 0 ≤ e + fixBits then m * 2 ^ (e + fixBits).toNat else m / 2 ^ (-(e + fixBits)).toNat
  let x := if neg then -mag else mag
  (expSeries (fixMul (x % fixOne) fixLn2) 90 0 fixOne, x / fixOne)

/-- x × log2 e as a finite value, to `fixBits` bits past the leading one. -/
def timesLog2e (m : Nat) (e : Int) : Nat × Int := (m * 2 ^ (2 * fixBits) / ln2Bits * 2 ^ 112, e - fixBits)

/-- The series z + z³/3 + z⁵/5 + … of a fixed-point z. -/
def atanhSeries (z2 : Int) : Nat → Nat → Int → Int
  | 0, _, _ => 0
  | n + 1, k, t => t / k + atanhSeries z2 n (k + 2) (fixMul t z2)

/-- log2 of a positive m × 2^e in fixed point (07 R98). -/
def log2Fix (m : Nat) (e : Int) : Int :=
  let k := Nat.log2 m
  let f : Int := m * 2 ^ fixBits / 2 ^ k
  let z := (f - fixOne) * fixOne / (f + fixOne)
  ((k : Int) + e) * fixOne + 2 * atanhSeries (fixMul z z) 130 1 z * fixOne / fixLn2

/-- The sine or cosine series: terms t, each multiplied by −r²/(k(k+1)). -/
def sinSeries (r2 : Int) : Nat → Nat → Int → Int
  | 0, _, _ => 0
  | n + 1, k, t => t + sinSeries r2 n (k + 2) (-(fixMul t r2) / (k * (k + 1)))

/-- sin (or cos) of a finite x in fixed point: x is reduced by multiples of π/2 (07 R98). -/
def sinFix (cosine neg : Bool) (m : Nat) (e : Int) : Int :=
  let x : Int := if 0 ≤ e then m * 2 ^ e.toNat * 2 ^ 512
    else if 0 ≤ e + 512 then m * 2 ^ (e + 512).toNat else m / 2 ^ (-(e + 512)).toNat
  let half : Int := piBits / 2
  let n := (x + half / 2) / half
  let r := (x - n * half) / 2 ^ 112
  let r2 := fixMul r r
  let s := sinSeries r2 60 2 r
  let c := sinSeries r2 60 1 fixOne
  let q := ((if cosine then n + 1 else n) % 4).toNat
  let y := if q = 0 then s else if q = 1 then c else if q = 2 then -s else -c
  if neg && !cosine then -y else y

/-- The format's values within `bound` spacings of m × 2^e, as patterns without sign: the half-steps around the
truncated value that the format holds (07 R98). Near zero a value of the other sign can lie within the bound too: none
is listed (DESIGN CHOICE, unsafe; assumption 68). -/
def nearF (f : Fmt) (bound m : Nat) (e : Int) : List Nat :=
  let r := roundStep f .rz false m e
  let q := r.2 - 1
  ((List.range 11).map fun j => 2 * r.1 + j - 4).filter fun n2 =>
    let err := (alignF false n2 q (min e q) - alignF false m e (min e q)).natAbs
    decide (4 ≤ 2 * r.1 + 4 ∧ err ≤ bound * 2 ^ (r.2 - min e q).toNat) &&
      (n2 % 2 == 0 || (decide (n2 < 2 ^ (f.mb + 1)) && decide (minStep f ≤ q))) &&
      (n2 % 4 == 0 || decide (n2 < 2 ^ (f.mb + 2)))

/-- The free choice of a float function with a bound above 0.5: one of the values within the bound, fixed by the
function's number, the format and the operand's pattern (07 R98, R99; assumption 2). -/
def pickF (f : Fmt) (fn bound key : Nat) (neg : Bool) (m : Nat) (e : Int) : FVal :=
  if m = 0 then .fin neg 0 0
  else
    let r := roundStep f .rz false m e
    let cs := nearF f bound m e
    match cs[Config.funcChoice fn f.mb key % cs.length]? with
    | some n2 => .fin neg n2 (r.2 - 1)
    | none => .fin neg m e

/-- `pickF` where the exact magnitude lies below m × 2^e by less than any half-step: the value stands 2^-64 of its last
place below (07 R98: sin x and tanh x for a tiny x). -/
def pickBelow (f : Fmt) (fn bound key : Nat) (neg : Bool) (m : Nat) (e : Int) : FVal :=
  pickF f fn bound key neg (m * 2 ^ 64 - 1) (e - 64)

/-- A fixed-point quotient of an exact value below 1: where the fixed point holds no difference from 1, the value is the
last one below 1, so that the spacing below 1 counts (07 R98). -/
def belowOne (y : Int) : Int := if fixOne ≤ y then fixOne - 1 else y

/-- A fixed-point value as a signed finite value for `pickF`. -/
def pickFix (f : Fmt) (fn bound key : Nat) (zneg : Bool) (y : Int) : FVal :=
  if y = 0 then .fin zneg 0 0 else pickF f fn bound key (decide (y < 0)) y.natAbs (-(fixBits : Int))

/-- FRCP, in the function numbering of 05 R66, for a bound above 0.5. -/
def rcpF (f : Fmt) (key : Nat) (x : FVal) : FVal :=
  match divF (.fin false 1 0) x with
  | .fin n m e => pickF f 1 1 key n m e
  | y => y

/-- FRSQ (07 R98). -/
def rsqF (f : Fmt) (bound key : Nat) (x : FVal) : FVal :=
  match x with
  | .fin neg 0 _ => .inf neg
  | .fin false m e =>
    match sqrtF (.fin false (m * 2 ^ 200) (e - 200)) with
    | .fin _ s t =>
      match divF (.fin false (2 ^ 100) (-100)) (.fin false s t) with
      | .fin _ a b => pickF f 2 bound key false a b
      | y => y
    | y => y
  | .fin true _ _ => .nan
  | .inf false => .fin false 0 0
  | .inf true => .nan
  | .nan => .nan

/-- FEXP2 (07 R98). -/
def exp2F (f : Fmt) (bound key : Nat) : FVal → FVal
  | .nan => .nan
  | .inf true => .fin false 0 0
  | .inf false => .inf false
  | .fin neg m e =>
    if m = 0 then .fin false 1 0
    else
      let r := exp2Fix neg m e
      pickF f 3 bound key false r.1.natAbs (r.2 - fixBits)

/-- FLOG2 (07 R98). -/
def log2F (f : Fmt) (bound key : Nat) : FVal → FVal
  | .nan => .nan
  | .inf true => .nan
  | .inf false => .inf false
  | .fin neg m e =>
    if m = 0 then .inf true
    else if neg then .nan
    else pickFix f 4 bound key false (log2Fix m e)

/-- FTANH (07 R98): (1 − t)/(1 + t) with t = 2^(−2|x| log2 e). -/
def tanhF (f : Fmt) (bound key : Nat) : FVal → FVal
  | .nan => .nan
  | .inf neg => .fin neg 1 0
  | .fin neg m e =>
    if m = 0 then .fin neg 0 0
    else if (Nat.log2 m : Int) + e < -100 then pickBelow f 5 bound key neg m e
    else
      let a := timesLog2e m (e + 1)
      let r := exp2Fix true a.1 a.2
      let t := if 0 ≤ r.2 then r.1 else r.1 / 2 ^ (-r.2).toNat
      let y := belowOne ((fixOne - t) * fixOne / (fixOne + t))
      pickFix f 5 bound key neg (if neg then -y else y)

/-- FSIN (07 R98). -/
def sinF (f : Fmt) (bound key : Nat) : FVal → FVal
  | .nan => .nan
  | .inf _ => .nan
  | .fin neg m e =>
    if m = 0 then .fin neg 0 0
    else if (Nat.log2 m : Int) + e < -100 then pickBelow f 6 bound key neg m e
    else pickFix f 6 bound key neg (sinFix false neg m e)

/-- FCOS (07 R98). -/
def cosF (f : Fmt) (bound key : Nat) : FVal → FVal
  | .nan => .nan
  | .inf _ => .nan
  | .fin neg m e => if m = 0 then .fin false 1 0 else pickFix f 7 bound key false (sinFix true neg m e)

/-- FSIGM (07 R98): t/(1 + t) with t = 2^(x log2 e) for a negative x, 1/(1 + t) with t = 2^(−x log2 e) otherwise. -/
def sigmF (f : Fmt) (bound key : Nat) : FVal → FVal
  | .nan => .nan
  | .inf true => .fin false 0 0
  | .inf false => .fin false 1 0
  | .fin neg m e =>
    if m = 0 then .fin false 1 (-1)
    else
      let a := timesLog2e m e
      let r := exp2Fix true a.1 a.2
      let t := if 0 ≤ r.2 then r.1 else r.1 / 2 ^ (-r.2).toNat
      if neg then
        match divF (.fin false (r.1.natAbs * 2 ^ fixBits) (r.2 - 2 * fixBits)) (.fin false (fixOne + t).natAbs (-(fixBits : Int))) with
        | .fin _ x y => pickF f 8 bound key false x y
        | y => y
      else pickFix f 8 bound key false (belowOne (fixOne * fixOne / (fixOne + t)))

end Sys2Proof.Machine
end

