-- ==== Sys2Proof/Machine/Codes.lean ====
section
/-! DEFINITION. The code tables of 05 R66 and of the instruction chapters: `T.code` is the value a field holds for a
value of type `T`, `T.ofCode` reads it back and refuses the reserved values. -/

namespace Sys2Proof.Machine

/-- The code of a `IntCond`. -/
def codeIntCond : IntCond → BitVec 3
  | .eq => 0
  | .ne => 1
  | .lt => 2
  | .le => 3
  | .ltu => 4
  | .leu => 5

/-- The `IntCond` of a code. -/
def ofIntCond (c : BitVec 3) : Option IntCond :=
  if c = 0 then some .eq else if c = 1 then some .ne else if c = 2 then some .lt else if c = 3 then some .le else if c = 4 then some .ltu else if c = 5 then some .leu else none

/-- The code of a `FltCond`. -/
def codeFltCond : FltCond → BitVec 3
  | .eq => 0
  | .ne => 1
  | .lt => 2
  | .le => 3
  | .num => 4
  | .nan => 5

/-- The `FltCond` of a code. -/
def ofFltCond (c : BitVec 3) : Option FltCond :=
  if c = 0 then some .eq else if c = 1 then some .ne else if c = 2 then some .lt else if c = 3 then some .le else if c = 4 then some .num else if c = 5 then some .nan else none

/-- The code of a `FTy`. -/
def codeFTy : FTy → BitVec 2
  | .f32 => 0
  | .f64 => 1
  | .f16x2 => 2
  | .bf16x2 => 3

/-- The `FTy` of a code. -/
def ofFTy (c : BitVec 2) : Option FTy :=
  if c = 0 then some .f32 else if c = 1 then some .f64 else if c = 2 then some .f16x2 else if c = 3 then some .bf16x2 else none

/-- The code of a `LdSize`. -/
def codeLdSize : LdSize → BitVec 3
  | .b8 => 0
  | .i8 => 1
  | .b16 => 2
  | .i16 => 3
  | .b32 => 4
  | .b64 => 5
  | .b128 => 6

/-- The `LdSize` of a code. -/
def ofLdSize (c : BitVec 3) : Option LdSize :=
  if c = 0 then some .b8 else if c = 1 then some .i8 else if c = 2 then some .b16 else if c = 3 then some .i16 else if c = 4 then some .b32 else if c = 5 then some .b64 else if c = 6 then some .b128 else none

/-- The code of a `StSize`. -/
def codeStSize : StSize → BitVec 3
  | .b8 => 0
  | .b16 => 1
  | .b32 => 2
  | .b64 => 3
  | .b128 => 4

/-- The `StSize` of a code. -/
def ofStSize (c : BitVec 3) : Option StSize :=
  if c = 0 then some .b8 else if c = 1 then some .b16 else if c = 2 then some .b32 else if c = 3 then some .b64 else if c = 4 then some .b128 else none

/-- The code of a `NtSize`. -/
def codeNtSize : NtSize → BitVec 2
  | .b32 => 0
  | .b64 => 1
  | .b128 => 2

/-- The `NtSize` of a code. -/
def ofNtSize (c : BitVec 2) : Option NtSize :=
  if c = 0 then some .b32 else if c = 1 then some .b64 else if c = 2 then some .b128 else none

/-- The code of a `Order`. -/
def codeOrder : Order → BitVec 2
  | .rlx => 0
  | .acq => 1
  | .rel => 2
  | .ar => 3

/-- The `Order` of a code. -/
def ofOrder (c : BitVec 2) : Option Order :=
  if c = 0 then some .rlx else if c = 1 then some .acq else if c = 2 then some .rel else if c = 3 then some .ar else none

/-- The code of a `Scope`. -/
def codeScope : Scope → BitVec 3
  | .grp => 0
  | .team => 1
  | .clu => 2
  | .dev => 3
  | .sys => 4

/-- The `Scope` of a code. -/
def ofScope (c : BitVec 3) : Option Scope :=
  if c = 0 then some .grp else if c = 1 then some .team else if c = 2 then some .clu else if c = 3 then some .dev else if c = 4 then some .sys else none

/-- The code of a `Rnd`. -/
def codeRnd : Rnd → BitVec 3
  | .dyn => 0
  | .rn => 1
  | .rz => 2
  | .ru => 3
  | .rd => 4
  | .rs => 5

/-- The `Rnd` of a code. -/
def ofRnd (c : BitVec 3) : Option Rnd :=
  if c = 0 then some .dyn else if c = 1 then some .rn else if c = 2 then some .rz else if c = 3 then some .ru else if c = 4 then some .rd else if c = 5 then some .rs else none

/-- The code of a `MTy`. -/
def codeMTy : MTy → BitVec 3
  | .e4m3 => 0
  | .e5m2 => 1
  | .fp4 => 2
  | .bf16 => 3
  | .f16 => 4
  | .i8 => 5

/-- The `MTy` of a code. -/
def ofMTy (c : BitVec 3) : Option MTy :=
  if c = 0 then some .e4m3 else if c = 1 then some .e5m2 else if c = 2 then some .fp4 else if c = 3 then some .bf16 else if c = 4 then some .f16 else if c = 5 then some .i8 else none

/-- The code of a `AmoOp`. -/
def codeAmoOp : AmoOp → BitVec 4
  | .add => 0
  | .sub => 1
  | .min => 2
  | .max => 3
  | .minu => 4
  | .maxu => 5
  | .and => 6
  | .or => 7
  | .xor => 8
  | .swap => 9
  | .cas => 10
  | .fadd => 11

/-- The `AmoOp` of a code. -/
def ofAmoOp (c : BitVec 4) : Option AmoOp :=
  if c = 0 then some .add else if c = 1 then some .sub else if c = 2 then some .min else if c = 3 then some .max else if c = 4 then some .minu else if c = 5 then some .maxu else if c = 6 then some .and else if c = 7 then some .or else if c = 8 then some .xor else if c = 9 then some .swap else if c = 10 then some .cas else if c = 11 then some .fadd else none

/-- The code of a `AmoSize`. -/
def codeAmoSize : AmoSize → BitVec 3
  | .b32 => 4
  | .b64 => 5

/-- The `AmoSize` of a code. -/
def ofAmoSize (c : BitVec 3) : Option AmoSize :=
  if c = 4 then some .b32 else if c = 5 then some .b64 else none

/-- The code of a `ArPart`. -/
def codeArPart : ArPart → BitVec 6
  | .ptr => 0
  | .base => 1
  | .limit => 2
  | .attr => 3

/-- The `ArPart` of a code. -/
def ofArPart (c : BitVec 6) : Option ArPart :=
  if c = 0 then some .ptr else if c = 1 then some .base else if c = 2 then some .limit else if c = 3 then some .attr else none

/-- The code of a `PrfLevel`. -/
def codePrfLevel : PrfLevel → BitVec 6
  | .l1 => 0
  | .l2 => 1

/-- The `PrfLevel` of a code. -/
def ofPrfLevel (c : BitVec 6) : Option PrfLevel :=
  if c = 0 then some .l1 else if c = 1 then some .l2 else none

/-- The code of a `ITy`. -/
def codeITy : ITy → BitVec 2
  | .s32 => 0
  | .u32 => 1
  | .s64 => 2
  | .u64 => 3

/-- The `ITy` of a code. -/
def ofITy (c : BitVec 2) : Option ITy :=
  if c = 0 then some .s32 else if c = 1 then some .u32 else if c = 2 then some .s64 else if c = 3 then some .u64 else none

/-- The code of a `FKind`. -/
def codeFKind : FKind → BitVec 2
  | .f32 => 0
  | .f64 => 1
  | .f16 => 2
  | .bf16 => 3

/-- The `FKind` of a code. -/
def ofFKind (c : BitVec 2) : Option FKind :=
  if c = 0 then some .f32 else if c = 1 then some .f64 else if c = 2 then some .f16 else if c = 3 then some .bf16 else none

/-- The code of a `Fp8`. -/
def codeFp8 : Fp8 → BitVec 6
  | .e4m3 => 0
  | .e5m2 => 1

/-- The `Fp8` of a code. -/
def ofFp8 (c : BitVec 6) : Option Fp8 :=
  if c = 0 then some .e4m3 else if c = 1 then some .e5m2 else none

/-- The code of a `BlkFmt`. -/
def codeBlkFmt : BlkFmt → BitVec 2
  | .fp4 => 0
  | .e4m3 => 1
  | .e5m2 => 2

/-- The `BlkFmt` of a code. -/
def ofBlkFmt (c : BitVec 2) : Option BlkFmt :=
  if c = 0 then some .fp4 else if c = 1 then some .e4m3 else if c = 2 then some .e5m2 else none

/-- The code of a `RedTy`. -/
def codeRedTy : RedTy → BitVec 3
  | .s32 => 0
  | .u32 => 1
  | .f32 => 2
  | .f16x2 => 3
  | .bf16x2 => 4

/-- The `RedTy` of a code. -/
def ofRedTy (c : BitVec 3) : Option RedTy :=
  if c = 0 then some .s32 else if c = 1 then some .u32 else if c = 2 then some .f32 else if c = 3 then some .f16x2 else if c = 4 then some .bf16x2 else none

/-- The code of a `XredTy`. -/
def codeXredTy : XredTy → BitVec 3
  | .s32 => 0
  | .s64 => 1
  | .f32 => 2
  | .f16 => 3
  | .bf16 => 4

/-- The `XredTy` of a code. -/
def ofXredTy (c : BitVec 3) : Option XredTy :=
  if c = 0 then some .s32 else if c = 1 then some .s64 else if c = 2 then some .f32 else if c = 3 then some .f16 else if c = 4 then some .bf16 else none

/-- The code of a `Sparsity`. -/
def codeSparsity : Sparsity → BitVec 2
  | .x2 => 1
  | .x4 => 2

/-- The `Sparsity` of a code. -/
def ofSparsity (c : BitVec 2) : Option Sparsity :=
  if c = 1 then some .x2 else if c = 2 then some .x4 else none

/-- The code of a `TldFmt`. -/
def codeTldFmt : TldFmt → BitVec 3
  | .f32 => 0
  | .f16 => 1
  | .bf16 => 2

/-- The `TldFmt` of a code. -/
def ofTldFmt (c : BitVec 3) : Option TldFmt :=
  if c = 0 then some .f32 else if c = 1 then some .f16 else if c = 2 then some .bf16 else none

/-- The code of a `TstFmt`. -/
def codeTstFmt : TstFmt → BitVec 3
  | .f32 => 0
  | .f16 => 1
  | .bf16 => 2
  | .e4m3 => 3
  | .e5m2 => 4
  | .s8 => 5

/-- The `TstFmt` of a code. -/
def ofTstFmt (c : BitVec 3) : Option TstFmt :=
  if c = 0 then some .f32 else if c = 1 then some .f16 else if c = 2 then some .bf16 else if c = 3 then some .e4m3 else if c = 4 then some .e5m2 else if c = 5 then some .s8 else none

/-- The code of a `TstScale`. -/
def codeTstScale : TstScale → BitVec 2
  | .none => 0
  | .srow => 1
  | .scol => 2

/-- The `TstScale` of a code. -/
def ofTstScale (c : BitVec 2) : Option TstScale :=
  if c = 0 then some .none else if c = 1 then some .srow else if c = 2 then some .scol else none

/-- The code of a `TScaleMode`. -/
def codeTScaleMode : TScaleMode → BitVec 2
  | .row => 1
  | .col => 2

/-- The `TScaleMode` of a code. -/
def ofTScaleMode (c : BitVec 2) : Option TScaleMode :=
  if c = 1 then some .row else if c = 2 then some .col else none

/-- The code of a `SReg`. -/
def codeSReg : SReg → BitVec 12
  | .lane => 0
  | .group => 1
  | .team => 2
  | .width => 3
  | .core => 4
  | .pair => 5
  | .die => 6
  | .lt => 16
  | .dtime => 17
  | .rmode => 32
  | .tbase => 48
  | .tdepth => 49
  | .deadline => 64
  | .budget => 65

/-- The `SReg` of a code. -/
def ofSReg (c : BitVec 12) : Option SReg :=
  if c = 0 then some .lane else if c = 1 then some .group else if c = 2 then some .team else if c = 3 then some .width else if c = 4 then some .core else if c = 5 then some .pair else if c = 6 then some .die else if c = 16 then some .lt else if c = 17 then some .dtime else if c = 32 then some .rmode else if c = 48 then some .tbase else if c = 49 then some .tdepth else if c = 64 then some .deadline else if c = 65 then some .budget else none

/-- Field B of CVT.I2F (11 R141). -/
def codeCvtIF (c : CvtIF) : BitVec 6 := 0#2 ++ codeITy c.src ++ codeFKind c.dst

/-- Field B of CVT.I2F read back (11 R141). -/
def ofCvtIF (c : BitVec 6) : Option CvtIF :=
  if c.extractLsb' 4 2 = 0 then
    (ofITy (c.extractLsb' 2 2)).bind fun s => (ofFKind (c.extractLsb' 0 2)).map fun d => ⟨s, d⟩
  else none

/-- Field B of CVT.F2I (11 R141). -/
def codeCvtFI (c : CvtFI) : BitVec 6 := 1#2 ++ codeFKind c.src ++ codeITy c.dst

/-- Field B of CVT.F2I read back (11 R141). -/
def ofCvtFI (c : BitVec 6) : Option CvtFI :=
  if c.extractLsb' 4 2 = 1 then
    (ofFKind (c.extractLsb' 2 2)).bind fun s => (ofITy (c.extractLsb' 0 2)).map fun d => ⟨s, d⟩
  else none

/-- Field B of CVT.F2F (11 R141). -/
def codeCvtFF (c : CvtFF) : BitVec 6 := 2#2 ++ codeFKind c.src ++ codeFKind c.dst

/-- Field B of CVT.F2F read back (11 R141); equal types are refused as ill-formed, not here. -/
def ofCvtFF (c : BitVec 6) : Option CvtFF :=
  if c.extractLsb' 4 2 = 2 then
    (ofFKind (c.extractLsb' 2 2)).bind fun s => (ofFKind (c.extractLsb' 0 2)).map fun d => ⟨s, d⟩
  else none

/-- Field B of PACK8 (11 R143). -/
def codePackCode (c : PackCode) : BitVec 6 := codeRnd c.rnd ++ (codeFp8 c.fmt).extractLsb' 0 3

/-- Field B of PACK8 read back (11 R143). -/
def ofPackCode (c : BitVec 6) : Option PackCode :=
  (ofRnd (c.extractLsb' 3 3)).bind fun r =>
    (ofFp8 (0#3 ++ c.extractLsb' 0 3)).map fun f => ⟨r, f⟩

/-- Field B of PACK4 (11 R143). -/
def codePack4Code (c : Pack4Code) : BitVec 6 := codeRnd c.rnd ++ 0#3

/-- Field B of PACK4 read back (11 R143). -/
def ofPack4Code (c : BitVec 6) : Option Pack4Code :=
  if c.extractLsb' 0 3 = 0 then (ofRnd (c.extractLsb' 3 3)).map fun r => ⟨r⟩ else none

/-- Field B of SCALE.BLK (11 R144). -/
def codeBlkCode (c : BlkCode) : BitVec 6 := codeRnd c.rnd ++ BitVec.ofBool c.sc ++ codeBlkFmt c.fmt

/-- Field B of SCALE.BLK read back (11 R144). -/
def ofBlkCode (c : BitVec 6) : Option BlkCode :=
  (ofRnd (c.extractLsb' 3 3)).bind fun r =>
    (ofBlkFmt (c.extractLsb' 0 2)).map fun f => ⟨r, c.getLsbD 2, f⟩

/-- The reduction code of RED, bit 5 zero (11 R150). -/
def codeRedFn : RedFn → BitVec 6
  | .add t => 0#3 ++ codeRedTy t
  | .min t => 1#3 ++ codeRedTy t
  | .max t => 2#3 ++ codeRedTy t
  | .and => 24
  | .or => 25
  | .xor => 26

/-- The reduction code of RED read back (11 R150). -/
def ofRedFn (c : BitVec 6) : Option RedFn :=
  if c.extractLsb' 3 3 = 0 then (ofRedTy (c.extractLsb' 0 3)).map .add
  else if c.extractLsb' 3 3 = 1 then (ofRedTy (c.extractLsb' 0 3)).map .min
  else if c.extractLsb' 3 3 = 2 then (ofRedTy (c.extractLsb' 0 3)).map .max
  else if c = 24 then some .and
  else if c = 25 then some .or
  else if c = 26 then some .xor
  else none

/-- The reduction code of SCAN (11 R150). -/
def codeScanCode (c : ScanCode) : BitVec 6 :=
  BitVec.ofBool c.excl ++ (codeRedFn c.fn).extractLsb' 0 5

/-- The reduction code of SCAN read back (11 R150). -/
def ofScanCode (c : BitVec 6) : Option ScanCode :=
  (ofRedFn (0#1 ++ c.extractLsb' 0 5)).map fun f => ⟨c.getLsbD 5, f⟩

end Sys2Proof.Machine
end

