-- ==== Sys2Proof/Machine/Uses.lean ====
section
/-! DEFINITION. Which registers the fields of an instruction name (05 R58, R64, R72, R73), and which words with
listed field values are still no instructions (05 R74): misaligned pairs, quads and octets, excluded types,
rounding codes and orders, guards 4 to 6 of class Q. -/

namespace Sys2Proof.Machine

/-- Vector registers of a float type of class F (11 R133). -/
def ftyRegs : FTy → Nat
  | .f64 => 2
  | _ => 1

/-- Vector registers of an integer type of CVT (11 R141). -/
def ityRegs : ITy → Nat
  | .s64 => 2
  | .u64 => 2
  | _ => 1

/-- Vector registers of a float type of CVT (11 R141). -/
def fkindRegs : FKind → Nat
  | .f64 => 2
  | _ => 1

/-- Vector registers of a load size (15 R187). -/
def ldRegs : LdSize → Nat
  | .b64 => 2
  | .b128 => 4
  | _ => 1

/-- Vector registers of a store size (15 R187). -/
def stRegs : StSize → Nat
  | .b64 => 2
  | .b128 => 4
  | _ => 1

/-- Vector registers of a non-temporal size (15 R188). -/
def ntRegs : NtSize → Nat
  | .b32 => 1
  | .b64 => 2
  | .b128 => 4

/-- Vector registers of an atomic size (15 R191). -/
def amoRegs : AmoSize → Nat
  | .b32 => 1
  | .b64 => 2

/-- The field of a word an operand stands in (05 R63, R71). -/
inductive Fld where | d | a | b | c
deriving DecidableEq, Repr

/-- One vector operand of an instruction: its field, first register, number of registers (1, 2, 4 or 8, or for a
tile slice the run), and whether the instruction reads and writes it. -/
structure VUse where
  fld : Fld
  r : Nat
  n : Nat
  rd : Bool
  wr : Bool
deriving DecidableEq, Repr

/-- One uniform pair or quad of an instruction: its first register and its alignment. -/
structure SUse where
  r : Nat
  n : Nat
deriving DecidableEq, Repr

/-- The vector operands of an instruction named by its V, V2, V4, V8 and F fields (05 R64, R72, R73). The runs of TRD
and TWR depend on W and stand in `tileRun`. -/
def vUses : Instr → List VUse
  | .brx _ a => [⟨.a, a.toNat, 2, true, false⟩]
  | .callx _ a => [⟨.a, a.toNat, 2, true, false⟩]
  | .jtb _ a _ => [⟨.a, a.toNat, 1, true, false⟩]
  | .meetX _ a => [⟨.a, a.toNat, 2, true, false⟩]
  | .add _ _ w64 d a b => [⟨.d, d.toNat, (if w64 then 2 else 1), false, true⟩, ⟨.a, a.toNat, (if w64 then 2 else 1), true, false⟩, ⟨.b, b.toNat, (if w64 then 2 else 1), true, false⟩]
  | .addImm _ w64 d a _ => [⟨.d, d.toNat, (if w64 then 2 else 1), false, true⟩, ⟨.a, a.toNat, (if w64 then 2 else 1), true, false⟩]
  | .movi _ d _ => [⟨.d, d.toNat, 1, false, true⟩]
  | .sel _ d a b => [⟨.d, d.toNat, 1, true, true⟩, ⟨.a, a.toNat, 1, true, false⟩, ⟨.b, b.toNat, 1, true, false⟩]
  | .sub _ _ w64 d a b => [⟨.d, d.toNat, (if w64 then 2 else 1), false, true⟩, ⟨.a, a.toNat, (if w64 then 2 else 1), true, false⟩, ⟨.b, b.toNat, (if w64 then 2 else 1), true, false⟩]
  | .mul _ _ w64 d a b => [⟨.d, d.toNat, (if w64 then 2 else 1), false, true⟩, ⟨.a, a.toNat, (if w64 then 2 else 1), true, false⟩, ⟨.b, b.toNat, (if w64 then 2 else 1), true, false⟩]
  | .mad _ _ w64 d a b => [⟨.d, d.toNat, (if w64 then 2 else 1), true, true⟩, ⟨.a, a.toNat, (if w64 then 2 else 1), true, false⟩, ⟨.b, b.toNat, (if w64 then 2 else 1), true, false⟩]
  | .mulh _ _ w64 d a b => [⟨.d, d.toNat, (if w64 then 2 else 1), false, true⟩, ⟨.a, a.toNat, (if w64 then 2 else 1), true, false⟩, ⟨.b, b.toNat, (if w64 then 2 else 1), true, false⟩]
  | .idiv _ _ w64 d a b => [⟨.d, d.toNat, (if w64 then 2 else 1), false, true⟩, ⟨.a, a.toNat, (if w64 then 2 else 1), true, false⟩, ⟨.b, b.toNat, (if w64 then 2 else 1), true, false⟩]
  | .irem _ _ w64 d a b => [⟨.d, d.toNat, (if w64 then 2 else 1), false, true⟩, ⟨.a, a.toNat, (if w64 then 2 else 1), true, false⟩, ⟨.b, b.toNat, (if w64 then 2 else 1), true, false⟩]
  | .min _ _ w64 d a b => [⟨.d, d.toNat, (if w64 then 2 else 1), false, true⟩, ⟨.a, a.toNat, (if w64 then 2 else 1), true, false⟩, ⟨.b, b.toNat, (if w64 then 2 else 1), true, false⟩]
  | .max _ _ w64 d a b => [⟨.d, d.toNat, (if w64 then 2 else 1), false, true⟩, ⟨.a, a.toNat, (if w64 then 2 else 1), true, false⟩, ⟨.b, b.toNat, (if w64 then 2 else 1), true, false⟩]
  | .and _ d a b => [⟨.d, d.toNat, 1, false, true⟩, ⟨.a, a.toNat, 1, true, false⟩, ⟨.b, b.toNat, 1, true, false⟩]
  | .or _ d a b => [⟨.d, d.toNat, 1, false, true⟩, ⟨.a, a.toNat, 1, true, false⟩, ⟨.b, b.toNat, 1, true, false⟩]
  | .xor _ d a b => [⟨.d, d.toNat, 1, false, true⟩, ⟨.a, a.toNat, 1, true, false⟩, ⟨.b, b.toNat, 1, true, false⟩]
  | .andn _ d a b => [⟨.d, d.toNat, 1, false, true⟩, ⟨.a, a.toNat, 1, true, false⟩, ⟨.b, b.toNat, 1, true, false⟩]
  | .bfx _ d a b => [⟨.d, d.toNat, 1, false, true⟩, ⟨.a, a.toNat, 1, true, false⟩, ⟨.b, b.toNat, 1, true, false⟩]
  | .bfxU _ d a b => [⟨.d, d.toNat, 1, false, true⟩, ⟨.a, a.toNat, 1, true, false⟩, ⟨.b, b.toNat, 1, true, false⟩]
  | .bfi _ d a b => [⟨.d, d.toNat, 1, true, true⟩, ⟨.a, a.toNat, 1, true, false⟩, ⟨.b, b.toNat, 1, true, false⟩]
  | .mov _ d a => [⟨.d, d.toNat, 1, false, true⟩, ⟨.a, a.toNat, 1, true, false⟩]
  | .popc _ d a => [⟨.d, d.toNat, 1, false, true⟩, ⟨.a, a.toNat, 1, true, false⟩]
  | .clz _ d a => [⟨.d, d.toNat, 1, false, true⟩, ⟨.a, a.toNat, 1, true, false⟩]
  | .ctz _ d a => [⟨.d, d.toNat, 1, false, true⟩, ⟨.a, a.toNat, 1, true, false⟩]
  | .brev _ d a => [⟨.d, d.toNat, 1, false, true⟩, ⟨.a, a.toNat, 1, true, false⟩]
  | .abs _ d a => [⟨.d, d.toNat, 1, false, true⟩, ⟨.a, a.toNat, 1, true, false⟩]
  | .absSat _ d a => [⟨.d, d.toNat, 1, false, true⟩, ⟨.a, a.toNat, 1, true, false⟩]
  | .mov64 _ d a => [⟨.d, d.toNat, 2, false, true⟩, ⟨.a, a.toNat, 2, true, false⟩]
  | .popc64 _ d a => [⟨.d, d.toNat, 1, false, true⟩, ⟨.a, a.toNat, 2, true, false⟩]
  | .clz64 _ d a => [⟨.d, d.toNat, 1, false, true⟩, ⟨.a, a.toNat, 2, true, false⟩]
  | .ctz64 _ d a => [⟨.d, d.toNat, 1, false, true⟩, ⟨.a, a.toNat, 2, true, false⟩]
  | .brev64 _ d a => [⟨.d, d.toNat, 2, false, true⟩, ⟨.a, a.toNat, 2, true, false⟩]
  | .abs64 _ d a => [⟨.d, d.toNat, 2, false, true⟩, ⟨.a, a.toNat, 2, true, false⟩]
  | .absSat64 _ d a => [⟨.d, d.toNat, 2, false, true⟩, ⟨.a, a.toNat, 2, true, false⟩]
  | .shl _ w64 d a b => [⟨.d, d.toNat, (if w64 then 2 else 1), false, true⟩, ⟨.a, a.toNat, (if w64 then 2 else 1), true, false⟩, ⟨.b, b.toNat, 1, true, false⟩]
  | .shr _ w64 d a b => [⟨.d, d.toNat, (if w64 then 2 else 1), false, true⟩, ⟨.a, a.toNat, (if w64 then 2 else 1), true, false⟩, ⟨.b, b.toNat, 1, true, false⟩]
  | .sar _ w64 d a b => [⟨.d, d.toNat, (if w64 then 2 else 1), false, true⟩, ⟨.a, a.toNat, (if w64 then 2 else 1), true, false⟩, ⟨.b, b.toNat, 1, true, false⟩]
  | .rol _ d a b => [⟨.d, d.toNat, 1, false, true⟩, ⟨.a, a.toNat, 1, true, false⟩, ⟨.b, b.toNat, 1, true, false⟩]
  | .shlImm _ w64 d a _ => [⟨.d, d.toNat, (if w64 then 2 else 1), false, true⟩, ⟨.a, a.toNat, (if w64 then 2 else 1), true, false⟩]
  | .shrImm _ w64 d a _ => [⟨.d, d.toNat, (if w64 then 2 else 1), false, true⟩, ⟨.a, a.toNat, (if w64 then 2 else 1), true, false⟩]
  | .sarImm _ w64 d a _ => [⟨.d, d.toNat, (if w64 then 2 else 1), false, true⟩, ⟨.a, a.toNat, (if w64 then 2 else 1), true, false⟩]
  | .rolImm _ w64 d a _ => [⟨.d, d.toNat, (if w64 then 2 else 1), false, true⟩, ⟨.a, a.toNat, (if w64 then 2 else 1), true, false⟩]
  | .rdlane _ _ a _ => [⟨.a, a.toNat, 1, true, false⟩]
  | .rdlaneImm _ _ a _ => [⟨.a, a.toNat, 1, true, false⟩]
  | .movxRead _ d _ _ => [⟨.d, d.toNat, 1, false, true⟩]
  | .movxWrite _ _ a _ => [⟨.a, a.toNat, 1, true, false⟩]
  | .isetp _ w64 _ _ a b => [⟨.a, a.toNat, (if w64 then 2 else 1), true, false⟩, ⟨.b, b.toNat, (if w64 then 2 else 1), true, false⟩]
  | .selp _ d a _ => [⟨.d, d.toNat, 1, true, true⟩, ⟨.a, a.toNat, 1, true, false⟩]
  | .fadd _ ty d a b => [⟨.d, d.toNat, (ftyRegs ty), false, true⟩, ⟨.a, a.toNat, (ftyRegs ty), true, false⟩, ⟨.b, b.toNat, (ftyRegs ty), true, false⟩]
  | .fsub _ ty d a b => [⟨.d, d.toNat, (ftyRegs ty), false, true⟩, ⟨.a, a.toNat, (ftyRegs ty), true, false⟩, ⟨.b, b.toNat, (ftyRegs ty), true, false⟩]
  | .fmul _ ty d a b => [⟨.d, d.toNat, (ftyRegs ty), false, true⟩, ⟨.a, a.toNat, (ftyRegs ty), true, false⟩, ⟨.b, b.toNat, (ftyRegs ty), true, false⟩]
  | .fmac _ ty d a b => [⟨.d, d.toNat, (ftyRegs ty), true, true⟩, ⟨.a, a.toNat, (ftyRegs ty), true, false⟩, ⟨.b, b.toNat, (ftyRegs ty), true, false⟩]
  | .fmin _ ty d a b => [⟨.d, d.toNat, (ftyRegs ty), false, true⟩, ⟨.a, a.toNat, (ftyRegs ty), true, false⟩, ⟨.b, b.toNat, (ftyRegs ty), true, false⟩]
  | .fmax _ ty d a b => [⟨.d, d.toNat, (ftyRegs ty), false, true⟩, ⟨.a, a.toNat, (ftyRegs ty), true, false⟩, ⟨.b, b.toNat, (ftyRegs ty), true, false⟩]
  | .fsetp _ _ _ a b => [⟨.a, a.toNat, 1, true, false⟩, ⟨.b, b.toNat, 1, true, false⟩]
  | .fclass _ w64 d a => [⟨.d, d.toNat, 1, false, true⟩, ⟨.a, a.toNat, (if w64 then 2 else 1), true, false⟩]
  | .fsetpF64 _ _ _ a b => [⟨.a, a.toNat, 2, true, false⟩, ⟨.b, b.toNat, 2, true, false⟩]
  | .fdiv _ w64 d a b => [⟨.d, d.toNat, (if w64 then 2 else 1), false, true⟩, ⟨.a, a.toNat, (if w64 then 2 else 1), true, false⟩, ⟨.b, b.toNat, (if w64 then 2 else 1), true, false⟩]
  | .fsqrt _ ty d a => [⟨.d, d.toNat, (ftyRegs ty), false, true⟩, ⟨.a, a.toNat, (ftyRegs ty), true, false⟩]
  | .frcp _ ty d a => [⟨.d, d.toNat, (ftyRegs ty), false, true⟩, ⟨.a, a.toNat, (ftyRegs ty), true, false⟩]
  | .frsq _ ty d a => [⟨.d, d.toNat, (ftyRegs ty), false, true⟩, ⟨.a, a.toNat, (ftyRegs ty), true, false⟩]
  | .fexp2 _ ty d a => [⟨.d, d.toNat, (ftyRegs ty), false, true⟩, ⟨.a, a.toNat, (ftyRegs ty), true, false⟩]
  | .flog2 _ ty d a => [⟨.d, d.toNat, (ftyRegs ty), false, true⟩, ⟨.a, a.toNat, (ftyRegs ty), true, false⟩]
  | .ftanh _ ty d a => [⟨.d, d.toNat, (ftyRegs ty), false, true⟩, ⟨.a, a.toNat, (ftyRegs ty), true, false⟩]
  | .fsin _ ty d a => [⟨.d, d.toNat, (ftyRegs ty), false, true⟩, ⟨.a, a.toNat, (ftyRegs ty), true, false⟩]
  | .fcos _ ty d a => [⟨.d, d.toNat, (ftyRegs ty), false, true⟩, ⟨.a, a.toNat, (ftyRegs ty), true, false⟩]
  | .fsigm _ ty d a => [⟨.d, d.toNat, (ftyRegs ty), false, true⟩, ⟨.a, a.toNat, (ftyRegs ty), true, false⟩]
  | .frndRn _ ty d a => [⟨.d, d.toNat, (ftyRegs ty), false, true⟩, ⟨.a, a.toNat, (ftyRegs ty), true, false⟩]
  | .frndRz _ ty d a => [⟨.d, d.toNat, (ftyRegs ty), false, true⟩, ⟨.a, a.toNat, (ftyRegs ty), true, false⟩]
  | .frndRu _ ty d a => [⟨.d, d.toNat, (ftyRegs ty), false, true⟩, ⟨.a, a.toNat, (ftyRegs ty), true, false⟩]
  | .frndRd _ ty d a => [⟨.d, d.toNat, (ftyRegs ty), false, true⟩, ⟨.a, a.toNat, (ftyRegs ty), true, false⟩]
  | .fscale _ ty d a b => [⟨.d, d.toNat, (ftyRegs ty), false, true⟩, ⟨.a, a.toNat, (ftyRegs ty), true, false⟩, ⟨.b, b.toNat, 1, true, false⟩]
  | .cvtI2F _ _ d a t => [⟨.d, d.toNat, (fkindRegs t.dst), false, true⟩, ⟨.a, a.toNat, (ityRegs t.src), true, false⟩]
  | .cvtF2I _ _ d a t => [⟨.d, d.toNat, (ityRegs t.dst), false, true⟩, ⟨.a, a.toNat, (fkindRegs t.src), true, false⟩]
  | .cvtF2F _ _ d a t => [⟨.d, d.toNat, (fkindRegs t.dst), false, true⟩, ⟨.a, a.toNat, (fkindRegs t.src), true, false⟩]
  | .pack8 _ d a c => [⟨.d, d.toNat, 1, false, true⟩, ⟨.a, a.toNat, (if c.rnd = .rs then 8 else 4), true, false⟩]
  | .unpk8 _ d a _ => [⟨.d, d.toNat, 4, false, true⟩, ⟨.a, a.toNat, 1, true, false⟩]
  | .pack4 _ d a _ => [⟨.d, d.toNat, 1, false, true⟩, ⟨.a, a.toNat, 8, true, false⟩]
  | .unpk4 _ d a => [⟨.d, d.toNat, 8, false, true⟩, ⟨.a, a.toNat, 1, true, false⟩]
  | .scaleBlk _ d a c => [⟨.d, d.toNat, 2, c.sc, true⟩, ⟨.a, a.toNat, 2, true, false⟩]
  | .rmix _ d a _ => [⟨.d, d.toNat, 2, false, true⟩, ⟨.a, a.toNat, 2, true, false⟩]
  | .shflIdx _ d a b => [⟨.d, d.toNat, 1, false, true⟩, ⟨.a, a.toNat, 1, true, false⟩, ⟨.b, b.toNat, 1, true, false⟩]
  | .shflUp _ d a b => [⟨.d, d.toNat, 1, false, true⟩, ⟨.a, a.toNat, 1, true, false⟩, ⟨.b, b.toNat, 1, true, false⟩]
  | .shflDown _ d a b => [⟨.d, d.toNat, 1, false, true⟩, ⟨.a, a.toNat, 1, true, false⟩, ⟨.b, b.toNat, 1, true, false⟩]
  | .shflXor _ d a b => [⟨.d, d.toNat, 1, false, true⟩, ⟨.a, a.toNat, 1, true, false⟩, ⟨.b, b.toNat, 1, true, false⟩]
  | .shflIdxImm _ d a _ => [⟨.d, d.toNat, 1, false, true⟩, ⟨.a, a.toNat, 1, true, false⟩]
  | .shflUpImm _ d a _ => [⟨.d, d.toNat, 1, false, true⟩, ⟨.a, a.toNat, 1, true, false⟩]
  | .shflDownImm _ d a _ => [⟨.d, d.toNat, 1, false, true⟩, ⟨.a, a.toNat, 1, true, false⟩]
  | .shflXorImm _ d a _ => [⟨.d, d.toNat, 1, false, true⟩, ⟨.a, a.toNat, 1, true, false⟩]
  | .voteBal _ d _ => [⟨.d, d.toNat, 2, false, true⟩]
  | .matchLanes _ d a => [⟨.d, d.toNat, 2, false, true⟩, ⟨.a, a.toNat, 1, true, false⟩]
  | .red _ d a _ => [⟨.d, d.toNat, 1, false, true⟩, ⟨.a, a.toNat, 1, true, false⟩]
  | .scan _ d a _ => [⟨.d, d.toNat, 1, false, true⟩, ⟨.a, a.toNat, 1, true, false⟩]
  | .ldReg _ sz d _ b => [⟨.d, d.toNat, (ldRegs sz), false, true⟩, ⟨.b, b.toNat, 1, true, false⟩]
  | .ldImm _ sz d _ _ => [⟨.d, d.toNat, (ldRegs sz), false, true⟩]
  | .stReg _ sz d _ b => [⟨.d, d.toNat, (stRegs sz), true, false⟩, ⟨.b, b.toNat, 1, true, false⟩]
  | .stImm _ sz d _ _ => [⟨.d, d.toNat, (stRegs sz), true, false⟩]
  | .ldNt _ sz d _ b => [⟨.d, d.toNat, (ntRegs sz), false, true⟩, ⟨.b, b.toNat, 1, true, false⟩]
  | .stNt _ sz d _ b => [⟨.d, d.toNat, (ntRegs sz), true, false⟩, ⟨.b, b.toNat, 1, true, false⟩]
  | .prfReg _ _ _ b => [⟨.b, b.toNat, 1, true, false⟩]
  | .spawn _ _ _ b => [⟨.b, b.toNat, 8, true, false⟩]
  | .srd _ d sr => if sr = .lane then [⟨.d, d.toNat, 1, false, true⟩] else []
  | .ffma _ ty d a b c _ => [⟨.d, d.toNat, (ftyRegs ty), false, true⟩, ⟨.a, a.toNat, (ftyRegs ty), true, false⟩, ⟨.b, b.toNat, (ftyRegs ty), true, false⟩, ⟨.c, c.toNat, (ftyRegs ty), true, false⟩]
  | .ldi _ d _ => [⟨.d, d.toNat, 1, false, true⟩]
  | .ldOrdered _ d _ b _ _ sz => [⟨.d, d.toNat, (ldRegs sz), false, true⟩, ⟨.b, b.toNat, 1, true, false⟩]
  | .stOrdered _ d _ b _ _ sz => [⟨.d, d.toNat, (stRegs sz), true, false⟩, ⟨.b, b.toNat, 1, true, false⟩]
  | .amo _ d _ b c _ _ sz op => [⟨.d, d.toNat, (amoRegs sz), false, true⟩, ⟨.b, b.toNat, 1, true, false⟩, ⟨.c, c.toNat, (amoRegs sz * (if op = .cas then 2 else 1)), true, false⟩]
  | .lr _ d _ b _ _ sz => [⟨.d, d.toNat, (amoRegs sz), false, true⟩, ⟨.b, b.toNat, 1, true, false⟩]
  | .sc _ d _ b _ _ _ sz => [⟨.d, d.toNat, (amoRegs sz), true, false⟩, ⟨.b, b.toNat, 1, true, false⟩]
  | .xcpIn _ d _ _ _ _ => [⟨.d, d.toNat, 8, true, false⟩]
  | .xcpOut _ d _ _ _ _ => [⟨.d, d.toNat, 8, true, false⟩]
  | .xcpV _ d _ _ _ => [⟨.d, d.toNat, 4, true, false⟩]
  | .xgath _ d _ _ _ _ => [⟨.d, d.toNat, 1, true, false⟩]
  | .xred _ d _ _ _ _ _ => [⟨.d, d.toNat, 8, true, false⟩]
  | .trd _ d _ _ _ _ => [⟨.d, d.toNat, 1, false, true⟩]
  | .twr _ _ a _ _ _ => [⟨.a, a.toNat, 1, true, false⟩]
  | _ => []

/-- The uniform pairs and quads of an instruction (05 R64; 19 R253, R257). -/
def sUses : Instr → List SUse
  | .sadd _ w64 d a b => [⟨d.toNat, (if w64 then 2 else 1)⟩, ⟨a.toNat, (if w64 then 2 else 1)⟩, ⟨b.toNat, (if w64 then 2 else 1)⟩]
  | .ssub _ w64 d a b => [⟨d.toNat, (if w64 then 2 else 1)⟩, ⟨a.toNat, (if w64 then 2 else 1)⟩, ⟨b.toNat, (if w64 then 2 else 1)⟩]
  | .smul _ w64 d a b => [⟨d.toNat, (if w64 then 2 else 1)⟩, ⟨a.toNat, (if w64 then 2 else 1)⟩, ⟨b.toNat, (if w64 then 2 else 1)⟩]
  | .sand _ w64 d a b => [⟨d.toNat, (if w64 then 2 else 1)⟩, ⟨a.toNat, (if w64 then 2 else 1)⟩, ⟨b.toNat, (if w64 then 2 else 1)⟩]
  | .sor _ w64 d a b => [⟨d.toNat, (if w64 then 2 else 1)⟩, ⟨a.toNat, (if w64 then 2 else 1)⟩, ⟨b.toNat, (if w64 then 2 else 1)⟩]
  | .sxor _ w64 d a b => [⟨d.toNat, (if w64 then 2 else 1)⟩, ⟨a.toNat, (if w64 then 2 else 1)⟩, ⟨b.toNat, (if w64 then 2 else 1)⟩]
  | .sshl _ w64 d a _ => [⟨d.toNat, (if w64 then 2 else 1)⟩, ⟨a.toNat, (if w64 then 2 else 1)⟩]
  | .sshr _ w64 d a _ => [⟨d.toNat, (if w64 then 2 else 1)⟩, ⟨a.toNat, (if w64 then 2 else 1)⟩]
  | .smov _ w64 d a => [⟨d.toNat, (if w64 then 2 else 1)⟩, ⟨a.toNat, (if w64 then 2 else 1)⟩]
  | .arSetGlobal _ _ a b => [⟨a.toNat, 2⟩, ⟨b.toNat, 2⟩]
  | .arSetVault _ _ a b => [⟨a.toNat, 2⟩, ⟨b.toNat, 2⟩]
  | .arSetSystem _ _ a b => [⟨a.toNat, 2⟩, ⟨b.toNat, 2⟩]
  | .arPtr _ _ a => [⟨a.toNat, 2⟩]
  | .arRd _ d _ _ => [⟨d.toNat, 2⟩]
  | .arNarrow _ _ a b => [⟨a.toNat, 2⟩, ⟨b.toNat, 2⟩]
  | .rmix _ _ _ b => [⟨b.toNat, 2⟩]
  | .ldsImm _ w64 d _ _ => [⟨d.toNat, (if w64 then 2 else 1)⟩]
  | .ldsReg _ w64 d _ _ => [⟨d.toNat, (if w64 then 2 else 1)⟩]
  | .stsImm _ w64 d _ _ => [⟨d.toNat, (if w64 then 2 else 1)⟩]
  | .stsReg _ w64 d _ _ => [⟨d.toNat, (if w64 then 2 else 1)⟩]
  | .spawn _ _ a _ => [⟨a.toNat, 2⟩]
  | .chimeAdd _ d _ => [⟨d.toNat, 2⟩]
  | .chimeSet _ d _ => [⟨d.toNat, 2⟩]
  | .chimeWait _ d _ => [⟨d.toNat, 2⟩]
  | .chimeRd _ d _ => [⟨d.toNat, 2⟩]
  | .qdone _ d _ => [⟨d.toNat, 2⟩]
  | .gangPrep _ d _ => [⟨d.toNat, 2⟩]
  | .preempt _ d _ _ => [⟨d.toNat, 2⟩]
  | .srd _ d sr => if sr = .lt ∨ sr = .dtime ∨ sr = .deadline then [⟨d.toNat, 2⟩] else []
  | .frecRd _ d _ => [⟨d.toNat, 2⟩]
  | .mma _ _ _ _ b _ _ _ _ _ => [⟨b.toNat, 4⟩]
  | .mmas _ _ _ _ b _ _ _ _ _ _ => [⟨b.toNat, 4⟩]
  | .tld _ _ _ _ c _ _ _ _ => [⟨c.toNat, 2⟩]
  | .tst _ _ _ _ c _ _ _ _ _ _ => [⟨c.toNat, 4⟩]
  | _ => []

/-- The guard of a program instruction, and whether its class is Q (05 R65). -/
def guardOf : Instr → BitVec 3 × Bool
  | .bra h _ => (h.g, false)
  | .bru h _ => (h.g, true)
  | .call h _ => (h.g, false)
  | .brx h _ => (h.g, false)
  | .callx h _ => (h.g, false)
  | .jtb h _ _ => (h.g, false)
  | .ret h => (h.g, false)
  | .exit h => (h.g, false)
  | .yield h => (h.g, true)
  | .nop h => (h.g, false)
  | .meet h _ => (h.g, false)
  | .meetX h _ => (h.g, false)
  | .meetR h => (h.g, false)
  | .add h _ _ _ _ _ => (h.g, false)
  | .addImm h _ _ _ _ => (h.g, false)
  | .movi h _ _ => (h.g, false)
  | .sel h _ _ _ => (h.g, false)
  | .sub h _ _ _ _ _ => (h.g, false)
  | .mul h _ _ _ _ _ => (h.g, false)
  | .mad h _ _ _ _ _ => (h.g, false)
  | .mulh h _ _ _ _ _ => (h.g, false)
  | .idiv h _ _ _ _ _ => (h.g, false)
  | .irem h _ _ _ _ _ => (h.g, false)
  | .min h _ _ _ _ _ => (h.g, false)
  | .max h _ _ _ _ _ => (h.g, false)
  | .and h _ _ _ => (h.g, false)
  | .or h _ _ _ => (h.g, false)
  | .xor h _ _ _ => (h.g, false)
  | .andn h _ _ _ => (h.g, false)
  | .bfx h _ _ _ => (h.g, false)
  | .bfxU h _ _ _ => (h.g, false)
  | .bfi h _ _ _ => (h.g, false)
  | .mov h _ _ => (h.g, false)
  | .popc h _ _ => (h.g, false)
  | .clz h _ _ => (h.g, false)
  | .ctz h _ _ => (h.g, false)
  | .brev h _ _ => (h.g, false)
  | .abs h _ _ => (h.g, false)
  | .absSat h _ _ => (h.g, false)
  | .mov64 h _ _ => (h.g, false)
  | .popc64 h _ _ => (h.g, false)
  | .clz64 h _ _ => (h.g, false)
  | .ctz64 h _ _ => (h.g, false)
  | .brev64 h _ _ => (h.g, false)
  | .abs64 h _ _ => (h.g, false)
  | .absSat64 h _ _ => (h.g, false)
  | .shl h _ _ _ _ => (h.g, false)
  | .shr h _ _ _ _ => (h.g, false)
  | .sar h _ _ _ _ => (h.g, false)
  | .rol h _ _ _ => (h.g, false)
  | .shlImm h _ _ _ _ => (h.g, false)
  | .shrImm h _ _ _ _ => (h.g, false)
  | .sarImm h _ _ _ _ => (h.g, false)
  | .rolImm h _ _ _ _ => (h.g, false)
  | .sadd h _ _ _ _ => (h.g, true)
  | .ssub h _ _ _ _ => (h.g, true)
  | .smul h _ _ _ _ => (h.g, true)
  | .sand h _ _ _ _ => (h.g, true)
  | .sor h _ _ _ _ => (h.g, true)
  | .sxor h _ _ _ _ => (h.g, true)
  | .sshl h _ _ _ _ => (h.g, true)
  | .sshr h _ _ _ _ => (h.g, true)
  | .smov h _ _ _ => (h.g, true)
  | .smovi h _ _ => (h.g, true)
  | .saddImm h _ _ _ => (h.g, true)
  | .rdlane h _ _ _ => (h.g, true)
  | .rdlaneImm h _ _ _ => (h.g, true)
  | .ssetp h _ _ _ _ => (h.g, true)
  | .arSetGlobal h _ _ _ => (h.g, true)
  | .arSetVault h _ _ _ => (h.g, true)
  | .arSetSystem h _ _ _ => (h.g, true)
  | .arPtr h _ _ => (h.g, true)
  | .arAdv h _ _ => (h.g, true)
  | .arAdvImm h _ _ => (h.g, true)
  | .arRd h _ _ _ => (h.g, true)
  | .arNarrow h _ _ _ => (h.g, true)
  | .arPerm h _ _ => (h.g, true)
  | .ixSet h _ _ _ => (h.g, true)
  | .ixAdv h _ _ => (h.g, true)
  | .movxRead h _ _ _ => (h.g, false)
  | .movxWrite h _ _ _ => (h.g, false)
  | .isetp h _ _ _ _ _ => (h.g, false)
  | .pand h _ _ _ => (h.g, false)
  | .por h _ _ _ => (h.g, false)
  | .pxor h _ _ _ => (h.g, false)
  | .selp h _ _ _ => (h.g, false)
  | .fadd h _ _ _ _ => (h.g, false)
  | .fsub h _ _ _ _ => (h.g, false)
  | .fmul h _ _ _ _ => (h.g, false)
  | .fmac h _ _ _ _ => (h.g, false)
  | .fmin h _ _ _ _ => (h.g, false)
  | .fmax h _ _ _ _ => (h.g, false)
  | .fsetp h _ _ _ _ => (h.g, false)
  | .fclass h _ _ _ => (h.g, false)
  | .fsetpF64 h _ _ _ _ => (h.g, false)
  | .fdiv h _ _ _ _ => (h.g, false)
  | .fsqrt h _ _ _ => (h.g, false)
  | .frcp h _ _ _ => (h.g, false)
  | .frsq h _ _ _ => (h.g, false)
  | .fexp2 h _ _ _ => (h.g, false)
  | .flog2 h _ _ _ => (h.g, false)
  | .ftanh h _ _ _ => (h.g, false)
  | .fsin h _ _ _ => (h.g, false)
  | .fcos h _ _ _ => (h.g, false)
  | .fsigm h _ _ _ => (h.g, false)
  | .frndRn h _ _ _ => (h.g, false)
  | .frndRz h _ _ _ => (h.g, false)
  | .frndRu h _ _ _ => (h.g, false)
  | .frndRd h _ _ _ => (h.g, false)
  | .fscale h _ _ _ _ => (h.g, false)
  | .cvtI2F h _ _ _ _ => (h.g, false)
  | .cvtF2I h _ _ _ _ => (h.g, false)
  | .cvtF2F h _ _ _ _ => (h.g, false)
  | .pack8 h _ _ _ => (h.g, false)
  | .unpk8 h _ _ _ => (h.g, false)
  | .pack4 h _ _ _ => (h.g, false)
  | .unpk4 h _ _ => (h.g, false)
  | .scaleBlk h _ _ _ => (h.g, false)
  | .rmix h _ _ _ => (h.g, false)
  | .shflIdx h _ _ _ => (h.g, false)
  | .shflUp h _ _ _ => (h.g, false)
  | .shflDown h _ _ _ => (h.g, false)
  | .shflXor h _ _ _ => (h.g, false)
  | .shflIdxImm h _ _ _ => (h.g, false)
  | .shflUpImm h _ _ _ => (h.g, false)
  | .shflDownImm h _ _ _ => (h.g, false)
  | .shflXorImm h _ _ _ => (h.g, false)
  | .voteAll h _ _ => (h.g, false)
  | .voteAny h _ _ => (h.g, false)
  | .voteBal h _ _ => (h.g, false)
  | .matchLanes h _ _ => (h.g, false)
  | .red h _ _ _ => (h.g, false)
  | .scan h _ _ _ => (h.g, false)
  | .elect h _ => (h.g, false)
  | .ldReg h _ _ _ _ => (h.g, false)
  | .ldImm h _ _ _ _ => (h.g, false)
  | .stReg h _ _ _ _ => (h.g, false)
  | .stImm h _ _ _ _ => (h.g, false)
  | .ldNt h _ _ _ _ => (h.g, false)
  | .stNt h _ _ _ _ => (h.g, false)
  | .prfReg h _ _ _ => (h.g, false)
  | .prfImm h _ _ _ => (h.g, false)
  | .ldsImm h _ _ _ _ => (h.g, true)
  | .ldsReg h _ _ _ _ => (h.g, true)
  | .stsImm h _ _ _ _ => (h.g, true)
  | .stsReg h _ _ _ _ => (h.g, true)
  | .fence h _ _ _ => (h.g, false)
  | .barInit h _ _ => (h.g, false)
  | .barExp h _ _ _ => (h.g, false)
  | .barArr h _ => (h.g, false)
  | .barWait h _ _ _ => (h.g, false)
  | .barTest h _ _ _ => (h.g, false)
  | .barInv h _ => (h.g, false)
  | .tbar h _ => (h.g, false)
  | .spawn h _ _ _ => (h.g, false)
  | .rodCfg h _ _ => (h.g, true)
  | .rodStrike h _ => (h.g, true)
  | .chimeAdd h _ _ => (h.g, true)
  | .chimeSet h _ _ => (h.g, true)
  | .chimeWait h _ _ => (h.g, true)
  | .chimeRd h _ _ => (h.g, true)
  | .qpop h _ _ _ => (h.g, true)
  | .qdone h _ _ => (h.g, true)
  | .launch h _ => (h.g, true)
  | .gangPrep h _ _ => (h.g, true)
  | .gangCommit h _ _ => (h.g, true)
  | .irq h _ => (h.g, true)
  | .preempt h _ _ _ => (h.g, true)
  | .resume h _ _ => (h.g, true)
  | .srd h _ _ => (h.g, true)
  | .swr h _ _ => (h.g, true)
  | .eqp h _ => (h.g, true)
  | .migr h => (h.g, true)
  | .trap h _ => (h.g, false)
  | .tret h => (h.g, true)
  | .halt h => (h.g, true)
  | .frecRd h _ _ => (h.g, true)
  | .bkpt h _ => (h.g, false)
  | .rgnEnter h _ => (h.g, true)
  | .rgnLeave h _ => (h.g, true)
  | .traceMark h _ => (h.g, true)
  | .ffma h _ _ _ _ _ _ => (h.g, false)
  | .ldi h _ _ => (h.g, false)
  | .smoviX h _ _ => (h.g, true)
  | .saddX h _ _ _ => (h.g, true)
  | .arAdvX h _ _ => (h.g, true)
  | .ldOrdered h _ _ _ _ _ _ => (h.g, false)
  | .stOrdered h _ _ _ _ _ _ => (h.g, false)
  | .amo h _ _ _ _ _ _ _ _ => (h.g, false)
  | .lr h _ _ _ _ _ _ => (h.g, false)
  | .sc h _ _ _ _ _ _ _ => (h.g, false)
  | .xcpIn h _ _ _ _ _ => (h.g, false)
  | .xcpOut h _ _ _ _ _ => (h.g, false)
  | .xcpV h _ _ _ _ => (h.g, false)
  | .xgath h _ _ _ _ _ => (h.g, false)
  | .xred h _ _ _ _ _ _ => (h.g, false)
  | .mma h _ _ _ _ _ _ _ _ _ => (h.g, false)
  | .mmas h _ _ _ _ _ _ _ _ _ _ => (h.g, false)
  | .tld h _ _ _ _ _ _ _ _ => (h.g, false)
  | .tst h _ _ _ _ _ _ _ _ _ _ => (h.g, false)
  | .trd h _ _ _ _ _ => (h.g, false)
  | .twr h _ _ _ _ _ => (h.g, false)
  | .tscale h _ _ _ _ _ _ _ _ => (h.g, false)
  | .tzero h _ _ _ _ => (h.g, false)
  | _ => (7, false)

/-- The uniform registers an instruction reads or writes one by one, beside the pairs and quads of `sUses` (05 R64, R72, R73). -/
def sSingles : Instr → List (BitVec 6)
  | .sshl _ _ _ _ b => [b]
  | .sshr _ _ _ _ b => [b]
  | .smovi _ d _ => [d]
  | .smoviX _ d _ => [d]
  | .saddImm _ d a _ => [d, a]
  | .saddX _ d a _ => [d, a]
  | .rdlane _ d _ b => [d, b]
  | .rdlaneImm _ d _ _ => [d]
  | .ssetp _ _ _ a b => [a, b]
  | .arAdv _ _ a => [a]
  | .ldsReg _ _ _ _ b => [b]
  | .stsReg _ _ _ _ b => [b]
  | .barInit _ _ b => [b]
  | .barExp _ d _ b => [d, b]
  | .barWait _ d _ _ => [d]
  | .barTest _ d _ _ => [d]
  | .rodCfg _ a _ => [a]
  | .rodStrike _ a => [a]
  | .chimeAdd _ _ a => [a]
  | .chimeSet _ _ a => [a]
  | .chimeWait _ _ a => [a]
  | .chimeRd _ _ a => [a]
  | .qpop _ d _ _ => [d]
  | .qdone _ _ a => [a]
  | .gangCommit _ d a => [d, a]
  | .irq _ a => [a]
  | .preempt _ _ a b => [a, b]
  | .resume _ _ a => [a]
  | .srd _ d sr => if sr = .lane then [] else [d]
  | .swr _ d _ => [d]
  | .frecRd _ _ a => [a]
  | .traceMark _ d => [d]
  | .mma _ _ _ _ _ c _ _ _ _ => [c]
  | .mmas _ _ _ _ _ c _ _ _ _ _ => [c]
  | .tld _ _ _ b _ _ _ _ _ => [b]
  | .tst _ _ _ b _ _ _ _ _ _ _ => [b]
  | .trd _ _ _ b _ _ => [b]
  | .twr _ _ _ b _ _ => [b]
  | .tscale _ _ a _ _ _ _ _ _ => [a]
  | .tzero _ _ a _ _ => [a]
  | _ => []

/-- The uniform registers an instruction reads or writes (05 R64, R72, R73). -/
def uniS (i : Instr) : List Nat := (sUses i).flatMap (fun u => (List.range u.n).map (u.r + ·)) ++ (sSingles i).map (·.toNat)

/-- The uniform predicates an instruction reads or writes, its guard among them (05 R64, R65). -/
def uniQ (i : Instr) : List Nat :=
  (if (guardOf i).2 then [(guardOf i).1.toNat] else []) ++
    match i with
    | .ssetp _ _ d _ _ => [d.toNat]
    | .barWait _ _ _ b => [b.toNat]
    | .barTest _ _ _ b => [b.toNat]
    | .resume _ d _ => [d.toNat]
    | _ => []

/-- Container bits [31:30] of the first word. -/
def containerOf : Instr → BitVec 2
  | .bra h _ => h.k
  | .bru h _ => h.k
  | .call h _ => h.k
  | .brx h _ => h.k
  | .callx h _ => h.k
  | .jtb h _ _ => h.k
  | .ret h => h.k
  | .exit h => h.k
  | .yield h => h.k
  | .nop h => h.k
  | .meet h _ => h.k
  | .meetX h _ => h.k
  | .meetR h => h.k
  | .add h _ _ _ _ _ => h.k
  | .addImm h _ _ _ _ => h.k
  | .movi h _ _ => h.k
  | .sel h _ _ _ => h.k
  | .sub h _ _ _ _ _ => h.k
  | .mul h _ _ _ _ _ => h.k
  | .mad h _ _ _ _ _ => h.k
  | .mulh h _ _ _ _ _ => h.k
  | .idiv h _ _ _ _ _ => h.k
  | .irem h _ _ _ _ _ => h.k
  | .min h _ _ _ _ _ => h.k
  | .max h _ _ _ _ _ => h.k
  | .and h _ _ _ => h.k
  | .or h _ _ _ => h.k
  | .xor h _ _ _ => h.k
  | .andn h _ _ _ => h.k
  | .bfx h _ _ _ => h.k
  | .bfxU h _ _ _ => h.k
  | .bfi h _ _ _ => h.k
  | .mov h _ _ => h.k
  | .popc h _ _ => h.k
  | .clz h _ _ => h.k
  | .ctz h _ _ => h.k
  | .brev h _ _ => h.k
  | .abs h _ _ => h.k
  | .absSat h _ _ => h.k
  | .mov64 h _ _ => h.k
  | .popc64 h _ _ => h.k
  | .clz64 h _ _ => h.k
  | .ctz64 h _ _ => h.k
  | .brev64 h _ _ => h.k
  | .abs64 h _ _ => h.k
  | .absSat64 h _ _ => h.k
  | .shl h _ _ _ _ => h.k
  | .shr h _ _ _ _ => h.k
  | .sar h _ _ _ _ => h.k
  | .rol h _ _ _ => h.k
  | .shlImm h _ _ _ _ => h.k
  | .shrImm h _ _ _ _ => h.k
  | .sarImm h _ _ _ _ => h.k
  | .rolImm h _ _ _ _ => h.k
  | .sadd h _ _ _ _ => h.k
  | .ssub h _ _ _ _ => h.k
  | .smul h _ _ _ _ => h.k
  | .sand h _ _ _ _ => h.k
  | .sor h _ _ _ _ => h.k
  | .sxor h _ _ _ _ => h.k
  | .sshl h _ _ _ _ => h.k
  | .sshr h _ _ _ _ => h.k
  | .smov h _ _ _ => h.k
  | .smovi h _ _ => h.k
  | .saddImm h _ _ _ => h.k
  | .rdlane h _ _ _ => h.k
  | .rdlaneImm h _ _ _ => h.k
  | .ssetp h _ _ _ _ => h.k
  | .arSetGlobal h _ _ _ => h.k
  | .arSetVault h _ _ _ => h.k
  | .arSetSystem h _ _ _ => h.k
  | .arPtr h _ _ => h.k
  | .arAdv h _ _ => h.k
  | .arAdvImm h _ _ => h.k
  | .arRd h _ _ _ => h.k
  | .arNarrow h _ _ _ => h.k
  | .arPerm h _ _ => h.k
  | .ixSet h _ _ _ => h.k
  | .ixAdv h _ _ => h.k
  | .movxRead h _ _ _ => h.k
  | .movxWrite h _ _ _ => h.k
  | .isetp h _ _ _ _ _ => h.k
  | .pand h _ _ _ => h.k
  | .por h _ _ _ => h.k
  | .pxor h _ _ _ => h.k
  | .selp h _ _ _ => h.k
  | .fadd h _ _ _ _ => h.k
  | .fsub h _ _ _ _ => h.k
  | .fmul h _ _ _ _ => h.k
  | .fmac h _ _ _ _ => h.k
  | .fmin h _ _ _ _ => h.k
  | .fmax h _ _ _ _ => h.k
  | .fsetp h _ _ _ _ => h.k
  | .fclass h _ _ _ => h.k
  | .fsetpF64 h _ _ _ _ => h.k
  | .fdiv h _ _ _ _ => h.k
  | .fsqrt h _ _ _ => h.k
  | .frcp h _ _ _ => h.k
  | .frsq h _ _ _ => h.k
  | .fexp2 h _ _ _ => h.k
  | .flog2 h _ _ _ => h.k
  | .ftanh h _ _ _ => h.k
  | .fsin h _ _ _ => h.k
  | .fcos h _ _ _ => h.k
  | .fsigm h _ _ _ => h.k
  | .frndRn h _ _ _ => h.k
  | .frndRz h _ _ _ => h.k
  | .frndRu h _ _ _ => h.k
  | .frndRd h _ _ _ => h.k
  | .fscale h _ _ _ _ => h.k
  | .cvtI2F h _ _ _ _ => h.k
  | .cvtF2I h _ _ _ _ => h.k
  | .cvtF2F h _ _ _ _ => h.k
  | .pack8 h _ _ _ => h.k
  | .unpk8 h _ _ _ => h.k
  | .pack4 h _ _ _ => h.k
  | .unpk4 h _ _ => h.k
  | .scaleBlk h _ _ _ => h.k
  | .rmix h _ _ _ => h.k
  | .shflIdx h _ _ _ => h.k
  | .shflUp h _ _ _ => h.k
  | .shflDown h _ _ _ => h.k
  | .shflXor h _ _ _ => h.k
  | .shflIdxImm h _ _ _ => h.k
  | .shflUpImm h _ _ _ => h.k
  | .shflDownImm h _ _ _ => h.k
  | .shflXorImm h _ _ _ => h.k
  | .voteAll h _ _ => h.k
  | .voteAny h _ _ => h.k
  | .voteBal h _ _ => h.k
  | .matchLanes h _ _ => h.k
  | .red h _ _ _ => h.k
  | .scan h _ _ _ => h.k
  | .elect h _ => h.k
  | .ldReg h _ _ _ _ => h.k
  | .ldImm h _ _ _ _ => h.k
  | .stReg h _ _ _ _ => h.k
  | .stImm h _ _ _ _ => h.k
  | .ldNt h _ _ _ _ => h.k
  | .stNt h _ _ _ _ => h.k
  | .prfReg h _ _ _ => h.k
  | .prfImm h _ _ _ => h.k
  | .ldsImm h _ _ _ _ => h.k
  | .ldsReg h _ _ _ _ => h.k
  | .stsImm h _ _ _ _ => h.k
  | .stsReg h _ _ _ _ => h.k
  | .fence h _ _ _ => h.k
  | .barInit h _ _ => h.k
  | .barExp h _ _ _ => h.k
  | .barArr h _ => h.k
  | .barWait h _ _ _ => h.k
  | .barTest h _ _ _ => h.k
  | .barInv h _ => h.k
  | .tbar h _ => h.k
  | .spawn h _ _ _ => h.k
  | .rodCfg h _ _ => h.k
  | .rodStrike h _ => h.k
  | .chimeAdd h _ _ => h.k
  | .chimeSet h _ _ => h.k
  | .chimeWait h _ _ => h.k
  | .chimeRd h _ _ => h.k
  | .qpop h _ _ _ => h.k
  | .qdone h _ _ => h.k
  | .launch h _ => h.k
  | .gangPrep h _ _ => h.k
  | .gangCommit h _ _ => h.k
  | .irq h _ => h.k
  | .preempt h _ _ _ => h.k
  | .resume h _ _ => h.k
  | .srd h _ _ => h.k
  | .swr h _ _ => h.k
  | .eqp h _ => h.k
  | .migr h => h.k
  | .trap h _ => h.k
  | .tret h => h.k
  | .halt h => h.k
  | .frecRd h _ _ => h.k
  | .bkpt h _ => h.k
  | .rgnEnter h _ => h.k
  | .rgnLeave h _ => h.k
  | .traceMark h _ => h.k
  | .ffma h _ _ _ _ _ _ => h.k
  | .ldi h _ _ => h.k
  | .smoviX h _ _ => h.k
  | .saddX h _ _ _ => h.k
  | .arAdvX h _ _ => h.k
  | .ldOrdered h _ _ _ _ _ _ => h.k
  | .stOrdered h _ _ _ _ _ _ => h.k
  | .amo h _ _ _ _ _ _ _ _ => h.k
  | .lr h _ _ _ _ _ _ => h.k
  | .sc h _ _ _ _ _ _ _ => h.k
  | .xcpIn h _ _ _ _ _ => h.k
  | .xcpOut h _ _ _ _ _ => h.k
  | .xcpV h _ _ _ _ => h.k
  | .xgath h _ _ _ _ _ => h.k
  | .xred h _ _ _ _ _ _ => h.k
  | .mma h _ _ _ _ _ _ _ _ _ => h.k
  | .mmas h _ _ _ _ _ _ _ _ _ _ => h.k
  | .tld h _ _ _ _ _ _ _ _ => h.k
  | .tst h _ _ _ _ _ _ _ _ _ _ => h.k
  | .trd h _ _ _ _ _ => h.k
  | .twr h _ _ _ _ _ => h.k
  | .tscale h _ _ _ _ _ _ _ _ => h.k
  | .tzero h _ _ _ _ => h.k
  | _ => 0

/-- Bits [31:30] of an XF extension word, if the instruction has one (05 R71). -/
def kxOf : Instr → Option (BitVec 2)
  | .ffma h _ _ _ _ _ _ => some h.kx
  | .ldOrdered h _ _ _ _ _ _ => some h.kx
  | .stOrdered h _ _ _ _ _ _ => some h.kx
  | .amo h _ _ _ _ _ _ _ _ => some h.kx
  | .lr h _ _ _ _ _ _ => some h.kx
  | .sc h _ _ _ _ _ _ _ => some h.kx
  | .xcpIn h _ _ _ _ _ => some h.kx
  | .xcpOut h _ _ _ _ _ => some h.kx
  | .xcpV h _ _ _ _ => some h.kx
  | .xgath h _ _ _ _ _ => some h.kx
  | .xred h _ _ _ _ _ _ => some h.kx
  | .mma h _ _ _ _ _ _ _ _ _ => some h.kx
  | .mmas h _ _ _ _ _ _ _ _ _ _ => some h.kx
  | .tld h _ _ _ _ _ _ _ _ => some h.kx
  | .tst h _ _ _ _ _ _ _ _ _ _ => some h.kx
  | .trd h _ _ _ _ _ => some h.kx
  | .twr h _ _ _ _ _ => some h.kx
  | .tscale h _ _ _ _ _ _ _ _ => some h.kx
  | .tzero h _ _ _ _ => some h.kx
  | _ => none

/-- X-class: the instruction has an extension word (05 R71). -/
def twoWords : Instr → Bool
  | .ffma _ _ _ _ _ _ _ => true
  | .ldi _ _ _ => true
  | .smoviX _ _ _ => true
  | .saddX _ _ _ _ => true
  | .arAdvX _ _ _ => true
  | .ldOrdered _ _ _ _ _ _ _ => true
  | .stOrdered _ _ _ _ _ _ _ => true
  | .amo _ _ _ _ _ _ _ _ _ => true
  | .lr _ _ _ _ _ _ _ => true
  | .sc _ _ _ _ _ _ _ _ => true
  | .xcpIn _ _ _ _ _ _ => true
  | .xcpOut _ _ _ _ _ _ => true
  | .xcpV _ _ _ _ _ => true
  | .xgath _ _ _ _ _ _ => true
  | .xred _ _ _ _ _ _ _ => true
  | .mma _ _ _ _ _ _ _ _ _ _ => true
  | .mmas _ _ _ _ _ _ _ _ _ _ _ => true
  | .tld _ _ _ _ _ _ _ _ _ => true
  | .tst _ _ _ _ _ _ _ _ _ _ _ => true
  | .trd _ _ _ _ _ _ => true
  | .twr _ _ _ _ _ _ => true
  | .tscale _ _ _ _ _ _ _ _ _ => true
  | .tzero _ _ _ _ _ => true
  | _ => false

/-- Control-family words, majors 0x00 to 0x07 (05 R67). -/
def controlFamily : Instr → Bool
  | .bra _ _ => true
  | .bru _ _ => true
  | .call _ _ => true
  | .brx _ _ => true
  | .callx _ _ => true
  | .jtb _ _ _ => true
  | .ret _ => true
  | .exit _ => true
  | .yield _ => true
  | .nop _ => true
  | .meet _ _ => true
  | .meetX _ _ => true
  | .meetR _ => true
  | _ => false

/-- A device step of the table, which has no encoding (95). -/
def isDeviceStep : Instr → Bool
  | .holdTimeout _ _ => true
  | .deferredRotation _ _ => true
  | .variableLatencyResult _ _ => true
  | .tokenResolution _ _ => true
  | .ltAdvance _ => true
  | .rebase => true
  | .coalescingBufferTimeout _ _ => true
  | .storeAtHome _ _ => true
  | .homeRead _ => true
  | .lineReply _ => true
  | .amoAtHome _ => true
  | .lrAtHome _ => true
  | .scAtHome _ => true
  | .reservationTimeout _ => true
  | .scPrecedenceExpiry _ => true
  | .vaultAccess _ => true
  | .remoteRequestAtTarget _ => true
  | .remoteCompletion _ _ => true
  | .linkPortDown _ => true
  | .hostCxlRead _ _ => true
  | .hostCxlWrite _ _ _ _ => true
  | .hostReadForOwnership _ _ => true
  | .hostWriteBack _ _ _ => true
  | .engineBurst _ _ => true
  | .engineDelivery _ => true
  | .engineFault _ => true
  | .engineOpComplete _ => true
  | .matrixOpStart _ _ => true
  | .matrixRowWrite _ _ _ => true
  | .matrixOpComplete _ _ => true
  | .pageFaultBatchTimer _ => true
  | .faultBatchWrite _ => true
  | .fresRetry _ _ _ => true
  | .fresDeny _ _ _ => true
  | .invRange _ _ _ _ => true
  | .invPasid _ => true
  | .invAll => true
  | .invNone => true
  | .invAck _ _ => true
  | .groupSave _ => true
  | .groupRestore _ _ => true
  | .preemptDeadline _ => true
  | .contextTeardown _ _ => true
  | .migration _ => true
  | .placementChoice _ _ => true
  | .candidateReservation _ _ => true
  | .teamResourceRelease _ => true
  | .rodTimer _ _ => true
  | .stealTick _ => true
  | .budgetExhausted _ => true
  | .budget _ _ => true
  | .notifyWrite _ _ _ _ => true
  | .completionRecordWrite _ => true
  | .revoke _ _ => true
  | .revokeEffect => true
  | .biasToHost _ _ => true
  | .biasToDevice _ _ => true
  | .biasCommandComplete => true
  | .irtsync _ _ => true
  | .keynew _ => true
  | .keyfree _ => true
  | .asdset _ => true
  | .attest _ => true
  | .gangPrepareMsg _ _ _ => true
  | .gangCommitMsg _ _ => true
  | .gangCloseMsg _ _ => true
  | .gangBreakMsg _ _ => true
  | .gangMemberTimeout _ => true
  | .gangRouteFail _ => true
  | .gangReply _ _ _ => true
  | .gangLeaderTimeout _ => true
  | .asyncHalt _ => true
  | .groupStop _ => true
  | .stopRecordWrite _ => true
  | .daccRead _ => true
  | .daccWrite _ _ => true
  | .daccResume _ _ => true
  | .daccEnd _ => true
  | .traceEnable _ _ _ => true
  | .skewMeasurement _ => true
  | .scrub _ _ _ => true
  | .rowRetirement _ => true
  | .lineFence _ => true
  | .islctlWrite _ _ => true
  | .operatingPointChange _ => true
  | .plimitWrite _ => true
  | .powerLimiterTick _ => true
  | .fringWrite _ _ => true
  | .deviceReset _ => true
  | .registerWrite _ _ => true
  | .registerStorageError _ => true
  | .flitReplay _ _ => true
  | _ => false

/-- A run of `n` registers starting at `r` may stand in a field of kind V, V2, V4 or V8 (05 R58, R64). -/
def alignedRun (r n : Nat) : Bool := r % n == 0

/-- The rules of 05 R74 that depend on one instruction alone beyond the listed code values. -/
def extraLegal : Instr → Bool
  | .fmin _ ty _ _ _ => ty != .f64
  | .fmax _ ty _ _ _ => ty != .f64
  | .frcp _ ty _ _ => ty != .f64
  | .frsq _ ty _ _ => ty != .f64
  | .fexp2 _ ty _ _ => ty != .f64
  | .flog2 _ ty _ _ => ty != .f64
  | .ftanh _ ty _ _ => ty != .f64
  | .fsin _ ty _ _ => ty != .f64
  | .fcos _ ty _ _ => ty != .f64
  | .fsigm _ ty _ _ => ty != .f64
  | .frndRn _ ty _ _ => ty != .f64
  | .frndRz _ ty _ _ => ty != .f64
  | .frndRu _ ty _ _ => ty != .f64
  | .frndRd _ ty _ _ => ty != .f64
  | .shlImm _ w64 _ _ amt => w64 || decide (amt.toNat < 32)
  | .shrImm _ w64 _ _ amt => w64 || decide (amt.toNat < 32)
  | .sarImm _ w64 _ _ amt => w64 || decide (amt.toNat < 32)
  | .rolImm _ w64 _ _ amt => w64 || decide (amt.toNat < 32)
  | .cvtI2F _ rnd _ _ _ => rnd != .rs
  | .cvtF2I _ rnd _ _ _ => rnd != .rs
  | .cvtF2F _ rnd _ _ t => rnd != .rs && t.src != t.dst
  | .pack4 _ _ _ c => c.rnd != .rs
  | .fence _ _ pred succ => pred != 0 && succ != 0
  | .swr _ s sr =>
    (sr == .rmode) || (sr == .tbase) || (sr == .budget && alignedRun s.toNat 1)
  | .eqp h _ => h.g == 7
  | .rgnEnter _ rgn => rgn != 0
  | .rgnLeave _ rgn => rgn != 0
  | .ffma _ _ _ _ _ _ rnd => rnd != .rs
  | .ldOrdered _ _ _ _ ord _ _ => ord == .rlx || ord == .acq
  | .stOrdered _ _ _ _ ord _ _ => ord == .rlx || ord == .rel
  | .amo _ _ _ _ _ _ _ sz op => op != .fadd || sz == .b32
  | .lr _ _ _ _ ord _ _ => ord == .rlx || ord == .acq
  | .sc _ _ _ _ _ ord _ _ => ord == .rlx || ord == .rel
  | .tst _ _ _ _ _ _ _ _ _ rnd _ => rnd != .rs
  | .tscale _ _ _ _ _ _ _ _ rnd => rnd != .rs
  | _ => true

/-- A guard of class Q is 0 to 3 or 7 (05 R65). -/
def guardLegal (i : Instr) : Bool :=
  if (guardOf i).2 then !((guardOf i).1 == 4 || (guardOf i).1 == 5 || (guardOf i).1 == 6) else true

/-- A uniform predicate field is 0 to 3 or 7 (05 R64). -/
def qFieldLegal (q : BitVec 3) : Bool := !(q == 4 || q == 5 || q == 6)

/-- Every uniform predicate field of the instruction is in its range. -/
def qLegal : Instr → Bool
  | .ssetp _ _ d _ _ => qFieldLegal d
  | .barWait _ _ _ b => qFieldLegal b
  | .barTest _ _ _ b => qFieldLegal b
  | .resume _ d _ => qFieldLegal d
  | _ => true

/-- An instruction whose word, by itself, is an instruction of 05 R72 and R73 (R74 gives every other word
ENC_ILLEGAL). What depends on the form, the mode, `.regs` and W is checked where the word is issued. -/
def legal (i : Instr) : Bool :=
  (vUses i).all (fun u => alignedRun u.r u.n) && (sUses i).all (fun u => alignedRun u.r u.n) &&
    extraLegal i && guardLegal i && qLegal i

end Sys2Proof.Machine
end

