-- ==== Sys2Proof/WellFormed.lean ====
section
/-! DEFINITION. Well-formed instructions: the ones some word encodes (05 R63 to R74). -/

namespace Sys2Proof

/-- A program instruction that 05 R72 or R73 gives an encoding, with every field value in its kind's range; a device
step has no encoding and is not well formed. -/
def Instr.WellFormed (i : Instr) : Bool := !Machine.isDeviceStep i && Machine.legal i

end Sys2Proof
end

