-- ==== Sys2Proof/Decode.lean ====
section
/-! DEFINITION. The decoder of instruction words, total on any words and rejecting by name, and the encoder, both
written from the encoding tables 05 R63, R72 and R73. -/

namespace Sys2Proof

/-- Why a word is no instruction; every one of them meets ENC_ILLEGAL (05 R74). -/
inductive Reject where
  /-- A reserved major, a reserved minor, a reserved code value, a field outside its kind's range or a non-zero
  must-be-zero field. -/
  | unlisted
  /-- The fields are listed but 05 R74 excludes their combination. -/
  | excluded
deriving DecidableEq, Repr

/-- The fields of a word (05 R63). -/
structure Fields where
  k : BitVec 2
  g : BitVec 3
  mj : BitVec 6
  d : BitVec 6
  a : BitVec 6
  b : BitVec 6
  mn : BitVec 3
deriving DecidableEq, Repr

/-- A word taken apart into its fields (05 R63). -/
def unpack (w : BitVec 32) : Fields :=
  ⟨w.extractLsb' 30 2, w.extractLsb' 27 3, w.extractLsb' 21 6, w.extractLsb' 15 6, w.extractLsb' 9 6,
    w.extractLsb' 3 6, w.extractLsb' 0 3⟩

/-- A word put together from its fields (05 R63). -/
def pack (f : Fields) : BitVec 32 := f.k ++ f.g ++ f.mj ++ f.d ++ f.a ++ f.b ++ f.mn

/-- A field of kind AR or T is below 16 (05 R64). -/
def asReg4 (f : BitVec 6) : Option (BitVec 4) := if f.extractLsb' 4 2 = 0 then some (f.extractLsb' 0 4) else none

/-- A field of kind P or Q is below 8 (05 R64). -/
def asReg3 (f : BitVec 6) : Option (BitVec 3) := if f.extractLsb' 3 3 = 0 then some (f.extractLsb' 0 3) else none

/-- A field of kind IX is below 4 (05 R64). -/
def asReg2 (f : BitVec 6) : Option (BitVec 2) := if f.extractLsb' 2 4 = 0 then some (f.extractLsb' 0 2) else none

/-- A field with one bit in use (21 R271). -/
def asBit (f : BitVec 6) : Option Bool := if f.extractLsb' 1 5 = 0 then some (f.getLsbD 0) else none

/-- A must-be-zero field (05 R64). -/
def asZero {n : Nat} (f : BitVec n) : Option Unit := if f = 0 then some () else none

/-- A field that holds a fixed value. -/
def asConst {n : Nat} (f c : BitVec n) : Option Unit := if f = c then some () else none

/-- The first alternative that is present. -/
def firstOf : List (Option Instr) → Option Instr
  | [] => none
  | some i :: _ => some i
  | none :: r => firstOf r

open Machine

/-- Major 0x00. -/
def decMajor00 (f : Fields) : Option Instr :=
  if f.mn = 1 then
    some (.bra ⟨f.k, f.g⟩ (f.d ++ f.a ++ f.b))
  else
  if f.mn = 2 then
    some (.bru ⟨f.k, f.g⟩ (f.d ++ f.a ++ f.b))
  else
  if f.mn = 3 then
    some (.call ⟨f.k, f.g⟩ (f.d ++ f.a ++ f.b))
  else
  none

/-- Major 0x01. -/
def decMajor01 (f : Fields) : Option Instr :=
  if f.mn = 0 then
    (asZero f.d).bind fun _ => (asZero f.b).bind fun _ => some (.brx ⟨f.k, f.g⟩ f.a)
  else
  if f.mn = 1 then
    (asZero f.d).bind fun _ => (asZero f.b).bind fun _ => some (.callx ⟨f.k, f.g⟩ f.a)
  else
  if f.mn = 2 then
    (asZero f.d).bind fun _ => (asReg4 f.b).bind fun b => some (.jtb ⟨f.k, f.g⟩ f.a b)
  else
  if f.mn = 3 then
    (asZero f.d).bind fun _ => (asZero f.a).bind fun _ => (asZero f.b).bind fun _ => some (.ret ⟨f.k, f.g⟩)
  else
  if f.mn = 4 then
    (asZero f.d).bind fun _ => (asZero f.a).bind fun _ => (asZero f.b).bind fun _ => some (.exit ⟨f.k, f.g⟩)
  else
  if f.mn = 5 then
    (asZero f.d).bind fun _ => (asZero f.a).bind fun _ => (asZero f.b).bind fun _ => some (.yield ⟨f.k, f.g⟩)
  else
  if f.mn = 6 then
    (asZero f.d).bind fun _ => (asZero f.a).bind fun _ => (asZero f.b).bind fun _ => some (.nop ⟨f.k, f.g⟩)
  else
  none

/-- Major 0x02. -/
def decMajor02 (f : Fields) : Option Instr :=
  if f.mn = 0 then
    some (.meet ⟨f.k, f.g⟩ (f.d ++ f.a ++ f.b))
  else
  if f.mn = 1 then
    (asZero f.d).bind fun _ => (asZero f.b).bind fun _ => some (.meetX ⟨f.k, f.g⟩ f.a)
  else
  if f.mn = 2 then
    (asZero f.d).bind fun _ => (asZero f.a).bind fun _ => (asZero f.b).bind fun _ => some (.meetR ⟨f.k, f.g⟩)
  else
  none

/-- Major 0x08. -/
def decMajor08 (f : Fields) : Option Instr :=
  if f.mn = 0 then
    some (.add ⟨f.k, f.g⟩ false false f.d f.a f.b)
  else
  if f.mn = 1 then
    some (.add ⟨f.k, f.g⟩ false true f.d f.a f.b)
  else
  if f.mn = 2 then
    some (.add ⟨f.k, f.g⟩ true false f.d f.a f.b)
  else
  if f.mn = 3 then
    some (.add ⟨f.k, f.g⟩ true true f.d f.a f.b)
  else
  if f.mn = 4 then
    some (.addImm ⟨f.k, f.g⟩ false f.d f.a f.b)
  else
  if f.mn = 5 then
    some (.addImm ⟨f.k, f.g⟩ true f.d f.a f.b)
  else
  if f.mn = 6 then
    some (.movi ⟨f.k, f.g⟩ f.d (f.a ++ f.b))
  else
  if f.mn = 7 then
    some (.sel ⟨f.k, f.g⟩ f.d f.a f.b)
  else
  none

/-- Major 0x09. -/
def decMajor09 (f : Fields) : Option Instr :=
  if f.mn = 0 then
    some (.sub ⟨f.k, f.g⟩ false false f.d f.a f.b)
  else
  if f.mn = 1 then
    some (.sub ⟨f.k, f.g⟩ false true f.d f.a f.b)
  else
  if f.mn = 2 then
    some (.sub ⟨f.k, f.g⟩ true false f.d f.a f.b)
  else
  if f.mn = 3 then
    some (.sub ⟨f.k, f.g⟩ true true f.d f.a f.b)
  else
  if f.mn = 4 then
    some (.mul ⟨f.k, f.g⟩ false false f.d f.a f.b)
  else
  if f.mn = 5 then
    some (.mul ⟨f.k, f.g⟩ false true f.d f.a f.b)
  else
  if f.mn = 6 then
    some (.mul ⟨f.k, f.g⟩ true false f.d f.a f.b)
  else
  if f.mn = 7 then
    some (.mul ⟨f.k, f.g⟩ true true f.d f.a f.b)
  else
  none

/-- Major 0x0A. -/
def decMajor0A (f : Fields) : Option Instr :=
  if f.mn = 0 then
    some (.mad ⟨f.k, f.g⟩ false false f.d f.a f.b)
  else
  if f.mn = 1 then
    some (.mad ⟨f.k, f.g⟩ false true f.d f.a f.b)
  else
  if f.mn = 2 then
    some (.mad ⟨f.k, f.g⟩ true false f.d f.a f.b)
  else
  if f.mn = 3 then
    some (.mad ⟨f.k, f.g⟩ true true f.d f.a f.b)
  else
  if f.mn = 4 then
    some (.mulh ⟨f.k, f.g⟩ false false f.d f.a f.b)
  else
  if f.mn = 5 then
    some (.mulh ⟨f.k, f.g⟩ false true f.d f.a f.b)
  else
  if f.mn = 6 then
    some (.mulh ⟨f.k, f.g⟩ true false f.d f.a f.b)
  else
  if f.mn = 7 then
    some (.mulh ⟨f.k, f.g⟩ true true f.d f.a f.b)
  else
  none

/-- Major 0x0B. -/
def decMajor0B (f : Fields) : Option Instr :=
  if f.mn = 0 then
    some (.idiv ⟨f.k, f.g⟩ false false f.d f.a f.b)
  else
  if f.mn = 1 then
    some (.idiv ⟨f.k, f.g⟩ false true f.d f.a f.b)
  else
  if f.mn = 2 then
    some (.idiv ⟨f.k, f.g⟩ true false f.d f.a f.b)
  else
  if f.mn = 3 then
    some (.idiv ⟨f.k, f.g⟩ true true f.d f.a f.b)
  else
  if f.mn = 4 then
    some (.irem ⟨f.k, f.g⟩ false false f.d f.a f.b)
  else
  if f.mn = 5 then
    some (.irem ⟨f.k, f.g⟩ false true f.d f.a f.b)
  else
  if f.mn = 6 then
    some (.irem ⟨f.k, f.g⟩ true false f.d f.a f.b)
  else
  if f.mn = 7 then
    some (.irem ⟨f.k, f.g⟩ true true f.d f.a f.b)
  else
  none

/-- Major 0x0C. -/
def decMajor0C (f : Fields) : Option Instr :=
  if f.mn = 0 then
    some (.min ⟨f.k, f.g⟩ false false f.d f.a f.b)
  else
  if f.mn = 1 then
    some (.min ⟨f.k, f.g⟩ false true f.d f.a f.b)
  else
  if f.mn = 2 then
    some (.min ⟨f.k, f.g⟩ true false f.d f.a f.b)
  else
  if f.mn = 3 then
    some (.min ⟨f.k, f.g⟩ true true f.d f.a f.b)
  else
  if f.mn = 4 then
    some (.max ⟨f.k, f.g⟩ false false f.d f.a f.b)
  else
  if f.mn = 5 then
    some (.max ⟨f.k, f.g⟩ false true f.d f.a f.b)
  else
  if f.mn = 6 then
    some (.max ⟨f.k, f.g⟩ true false f.d f.a f.b)
  else
  if f.mn = 7 then
    some (.max ⟨f.k, f.g⟩ true true f.d f.a f.b)
  else
  none

/-- Major 0x0D. -/
def decMajor0D (f : Fields) : Option Instr :=
  if f.mn = 0 then
    some (.and ⟨f.k, f.g⟩ f.d f.a f.b)
  else
  if f.mn = 1 then
    some (.or ⟨f.k, f.g⟩ f.d f.a f.b)
  else
  if f.mn = 2 then
    some (.xor ⟨f.k, f.g⟩ f.d f.a f.b)
  else
  if f.mn = 3 then
    some (.andn ⟨f.k, f.g⟩ f.d f.a f.b)
  else
  if f.mn = 4 then
    some (.bfx ⟨f.k, f.g⟩ f.d f.a f.b)
  else
  if f.mn = 5 then
    some (.bfxU ⟨f.k, f.g⟩ f.d f.a f.b)
  else
  if f.mn = 6 then
    some (.bfi ⟨f.k, f.g⟩ f.d f.a f.b)
  else
  if f.mn = 7 then
    firstOf [
      ((asConst f.b 0).bind fun _ => some (.mov ⟨f.k, f.g⟩ f.d f.a)),
      ((asConst f.b 1).bind fun _ => some (.popc ⟨f.k, f.g⟩ f.d f.a)),
      ((asConst f.b 2).bind fun _ => some (.clz ⟨f.k, f.g⟩ f.d f.a)),
      ((asConst f.b 3).bind fun _ => some (.ctz ⟨f.k, f.g⟩ f.d f.a)),
      ((asConst f.b 4).bind fun _ => some (.brev ⟨f.k, f.g⟩ f.d f.a)),
      ((asConst f.b 5).bind fun _ => some (.abs ⟨f.k, f.g⟩ f.d f.a)),
      ((asConst f.b 6).bind fun _ => some (.absSat ⟨f.k, f.g⟩ f.d f.a))]
  else
  none

/-- Major 0x0E. -/
def decMajor0E (f : Fields) : Option Instr :=
  if f.mn = 0 then
    some (.shl ⟨f.k, f.g⟩ false f.d f.a f.b)
  else
  if f.mn = 1 then
    some (.shr ⟨f.k, f.g⟩ false f.d f.a f.b)
  else
  if f.mn = 2 then
    some (.sar ⟨f.k, f.g⟩ false f.d f.a f.b)
  else
  if f.mn = 3 then
    some (.rol ⟨f.k, f.g⟩ f.d f.a f.b)
  else
  if f.mn = 4 then
    some (.shl ⟨f.k, f.g⟩ true f.d f.a f.b)
  else
  if f.mn = 5 then
    some (.shr ⟨f.k, f.g⟩ true f.d f.a f.b)
  else
  if f.mn = 6 then
    some (.sar ⟨f.k, f.g⟩ true f.d f.a f.b)
  else
  if f.mn = 7 then
    firstOf [
      ((asConst f.b 0).bind fun _ => some (.mov64 ⟨f.k, f.g⟩ f.d f.a)),
      ((asConst f.b 1).bind fun _ => some (.popc64 ⟨f.k, f.g⟩ f.d f.a)),
      ((asConst f.b 2).bind fun _ => some (.clz64 ⟨f.k, f.g⟩ f.d f.a)),
      ((asConst f.b 3).bind fun _ => some (.ctz64 ⟨f.k, f.g⟩ f.d f.a)),
      ((asConst f.b 4).bind fun _ => some (.brev64 ⟨f.k, f.g⟩ f.d f.a)),
      ((asConst f.b 5).bind fun _ => some (.abs64 ⟨f.k, f.g⟩ f.d f.a)),
      ((asConst f.b 6).bind fun _ => some (.absSat64 ⟨f.k, f.g⟩ f.d f.a))]
  else
  none

/-- Major 0x0F. -/
def decMajor0F (f : Fields) : Option Instr :=
  if f.mn = 0 then
    some (.shlImm ⟨f.k, f.g⟩ false f.d f.a f.b)
  else
  if f.mn = 1 then
    some (.shrImm ⟨f.k, f.g⟩ false f.d f.a f.b)
  else
  if f.mn = 2 then
    some (.sarImm ⟨f.k, f.g⟩ false f.d f.a f.b)
  else
  if f.mn = 3 then
    some (.rolImm ⟨f.k, f.g⟩ false f.d f.a f.b)
  else
  if f.mn = 4 then
    some (.shlImm ⟨f.k, f.g⟩ true f.d f.a f.b)
  else
  if f.mn = 5 then
    some (.shrImm ⟨f.k, f.g⟩ true f.d f.a f.b)
  else
  if f.mn = 6 then
    some (.sarImm ⟨f.k, f.g⟩ true f.d f.a f.b)
  else
  if f.mn = 7 then
    some (.rolImm ⟨f.k, f.g⟩ true f.d f.a f.b)
  else
  none

/-- Major 0x10. -/
def decMajor10 (f : Fields) : Option Instr :=
  if f.mn = 0 then
    some (.sadd ⟨f.k, f.g⟩ false f.d f.a f.b)
  else
  if f.mn = 1 then
    some (.ssub ⟨f.k, f.g⟩ false f.d f.a f.b)
  else
  if f.mn = 2 then
    some (.smul ⟨f.k, f.g⟩ false f.d f.a f.b)
  else
  if f.mn = 3 then
    some (.sand ⟨f.k, f.g⟩ false f.d f.a f.b)
  else
  if f.mn = 4 then
    some (.sor ⟨f.k, f.g⟩ false f.d f.a f.b)
  else
  if f.mn = 5 then
    some (.sxor ⟨f.k, f.g⟩ false f.d f.a f.b)
  else
  if f.mn = 6 then
    some (.sshl ⟨f.k, f.g⟩ false f.d f.a f.b)
  else
  if f.mn = 7 then
    some (.sshr ⟨f.k, f.g⟩ false f.d f.a f.b)
  else
  none

/-- Major 0x11. -/
def decMajor11 (f : Fields) : Option Instr :=
  if f.mn = 0 then
    some (.sadd ⟨f.k, f.g⟩ true f.d f.a f.b)
  else
  if f.mn = 1 then
    some (.ssub ⟨f.k, f.g⟩ true f.d f.a f.b)
  else
  if f.mn = 2 then
    some (.smul ⟨f.k, f.g⟩ true f.d f.a f.b)
  else
  if f.mn = 3 then
    some (.sand ⟨f.k, f.g⟩ true f.d f.a f.b)
  else
  if f.mn = 4 then
    some (.sor ⟨f.k, f.g⟩ true f.d f.a f.b)
  else
  if f.mn = 5 then
    some (.sxor ⟨f.k, f.g⟩ true f.d f.a f.b)
  else
  if f.mn = 6 then
    some (.sshl ⟨f.k, f.g⟩ true f.d f.a f.b)
  else
  if f.mn = 7 then
    some (.sshr ⟨f.k, f.g⟩ true f.d f.a f.b)
  else
  none

/-- Major 0x12. -/
def decMajor12 (f : Fields) : Option Instr :=
  if f.mn = 0 then
    (asZero f.b).bind fun _ => some (.smov ⟨f.k, f.g⟩ false f.d f.a)
  else
  if f.mn = 1 then
    (asZero f.b).bind fun _ => some (.smov ⟨f.k, f.g⟩ true f.d f.a)
  else
  if f.mn = 2 then
    some (.smovi ⟨f.k, f.g⟩ f.d (f.a ++ f.b))
  else
  if f.mn = 3 then
    some (.saddImm ⟨f.k, f.g⟩ f.d f.a f.b)
  else
  if f.mn = 4 then
    some (.rdlane ⟨f.k, f.g⟩ f.d f.a f.b)
  else
  if f.mn = 5 then
    some (.rdlaneImm ⟨f.k, f.g⟩ f.d f.a f.b)
  else
  none

/-- Major 0x13. -/
def decMajor13 (f : Fields) : Option Instr :=
  if f.mn = 0 then
    (asReg3 f.d).bind fun d => some (.ssetp ⟨f.k, f.g⟩ .eq d f.a f.b)
  else
  if f.mn = 1 then
    (asReg3 f.d).bind fun d => some (.ssetp ⟨f.k, f.g⟩ .ne d f.a f.b)
  else
  if f.mn = 2 then
    (asReg3 f.d).bind fun d => some (.ssetp ⟨f.k, f.g⟩ .lt d f.a f.b)
  else
  if f.mn = 3 then
    (asReg3 f.d).bind fun d => some (.ssetp ⟨f.k, f.g⟩ .le d f.a f.b)
  else
  if f.mn = 4 then
    (asReg3 f.d).bind fun d => some (.ssetp ⟨f.k, f.g⟩ .ltu d f.a f.b)
  else
  if f.mn = 5 then
    (asReg3 f.d).bind fun d => some (.ssetp ⟨f.k, f.g⟩ .leu d f.a f.b)
  else
  none

/-- Major 0x14. -/
def decMajor14 (f : Fields) : Option Instr :=
  if f.mn = 0 then
    (asReg4 f.d).bind fun d => some (.arSetGlobal ⟨f.k, f.g⟩ d f.a f.b)
  else
  if f.mn = 1 then
    (asReg4 f.d).bind fun d => some (.arSetVault ⟨f.k, f.g⟩ d f.a f.b)
  else
  if f.mn = 2 then
    (asReg4 f.d).bind fun d => some (.arSetSystem ⟨f.k, f.g⟩ d f.a f.b)
  else
  if f.mn = 3 then
    (asReg4 f.d).bind fun d => (asZero f.b).bind fun _ => some (.arPtr ⟨f.k, f.g⟩ d f.a)
  else
  if f.mn = 4 then
    (asReg4 f.d).bind fun d => (asZero f.b).bind fun _ => some (.arAdv ⟨f.k, f.g⟩ d f.a)
  else
  if f.mn = 5 then
    (asReg4 f.d).bind fun d => (asZero f.a).bind fun _ => some (.arAdvImm ⟨f.k, f.g⟩ d f.b)
  else
  if f.mn = 6 then
    (asReg4 f.a).bind fun a => (ofArPart f.b).bind fun part => some (.arRd ⟨f.k, f.g⟩ f.d a part)
  else
  if f.mn = 7 then
    (asReg4 f.d).bind fun d => some (.arNarrow ⟨f.k, f.g⟩ d f.a f.b)
  else
  none

/-- Major 0x15. -/
def decMajor15 (f : Fields) : Option Instr :=
  if f.mn = 0 then
    (asReg4 f.d).bind fun d => (asZero f.a).bind fun _ => (asReg4 f.b).bind fun msk => some (.arPerm ⟨f.k, f.g⟩ d msk)
  else
  if f.mn = 1 then
    (asReg2 f.d).bind fun d => some (.ixSet ⟨f.k, f.g⟩ d f.a f.b)
  else
  if f.mn = 2 then
    (asReg2 f.d).bind fun d => (asZero f.a).bind fun _ => some (.ixAdv ⟨f.k, f.g⟩ d f.b)
  else
  if f.mn = 3 then
    (asReg2 f.a).bind fun a => some (.movxRead ⟨f.k, f.g⟩ f.d a f.b)
  else
  if f.mn = 4 then
    (asReg2 f.d).bind fun d => some (.movxWrite ⟨f.k, f.g⟩ d f.a f.b)
  else
  none

/-- Major 0x16. -/
def decMajor16 (f : Fields) : Option Instr :=
  if f.mn = 0 then
    (asReg3 f.d).bind fun d => some (.isetp ⟨f.k, f.g⟩ false .eq d f.a f.b)
  else
  if f.mn = 1 then
    (asReg3 f.d).bind fun d => some (.isetp ⟨f.k, f.g⟩ false .ne d f.a f.b)
  else
  if f.mn = 2 then
    (asReg3 f.d).bind fun d => some (.isetp ⟨f.k, f.g⟩ false .lt d f.a f.b)
  else
  if f.mn = 3 then
    (asReg3 f.d).bind fun d => some (.isetp ⟨f.k, f.g⟩ false .le d f.a f.b)
  else
  if f.mn = 4 then
    (asReg3 f.d).bind fun d => some (.isetp ⟨f.k, f.g⟩ false .ltu d f.a f.b)
  else
  if f.mn = 5 then
    (asReg3 f.d).bind fun d => some (.isetp ⟨f.k, f.g⟩ false .leu d f.a f.b)
  else
  if f.mn = 6 then
    (asReg3 f.d).bind fun d => (asReg3 f.a).bind fun a => (asReg3 f.b).bind fun b => some (.pand ⟨f.k, f.g⟩ d a b)
  else
  if f.mn = 7 then
    (asReg3 f.d).bind fun d => (asReg3 f.a).bind fun a => (asReg3 f.b).bind fun b => some (.por ⟨f.k, f.g⟩ d a b)
  else
  none

/-- Major 0x17. -/
def decMajor17 (f : Fields) : Option Instr :=
  if f.mn = 0 then
    (asReg3 f.d).bind fun d => some (.isetp ⟨f.k, f.g⟩ true .eq d f.a f.b)
  else
  if f.mn = 1 then
    (asReg3 f.d).bind fun d => some (.isetp ⟨f.k, f.g⟩ true .ne d f.a f.b)
  else
  if f.mn = 2 then
    (asReg3 f.d).bind fun d => some (.isetp ⟨f.k, f.g⟩ true .lt d f.a f.b)
  else
  if f.mn = 3 then
    (asReg3 f.d).bind fun d => some (.isetp ⟨f.k, f.g⟩ true .le d f.a f.b)
  else
  if f.mn = 4 then
    (asReg3 f.d).bind fun d => some (.isetp ⟨f.k, f.g⟩ true .ltu d f.a f.b)
  else
  if f.mn = 5 then
    (asReg3 f.d).bind fun d => some (.isetp ⟨f.k, f.g⟩ true .leu d f.a f.b)
  else
  if f.mn = 6 then
    (asReg3 f.d).bind fun d => (asReg3 f.a).bind fun a => (asReg3 f.b).bind fun b => some (.pxor ⟨f.k, f.g⟩ d a b)
  else
  if f.mn = 7 then
    (asReg3 f.b).bind fun b => some (.selp ⟨f.k, f.g⟩ f.d f.a b)
  else
  none

/-- Major 0x18. -/
def decMajor18 (f : Fields) : Option Instr :=
  if f.mn = 0 then
    some (.fadd ⟨f.k, f.g⟩ .f32 f.d f.a f.b)
  else
  if f.mn = 1 then
    some (.fadd ⟨f.k, f.g⟩ .f64 f.d f.a f.b)
  else
  if f.mn = 2 then
    some (.fadd ⟨f.k, f.g⟩ .f16x2 f.d f.a f.b)
  else
  if f.mn = 3 then
    some (.fadd ⟨f.k, f.g⟩ .bf16x2 f.d f.a f.b)
  else
  if f.mn = 4 then
    some (.fsub ⟨f.k, f.g⟩ .f32 f.d f.a f.b)
  else
  if f.mn = 5 then
    some (.fsub ⟨f.k, f.g⟩ .f64 f.d f.a f.b)
  else
  if f.mn = 6 then
    some (.fsub ⟨f.k, f.g⟩ .f16x2 f.d f.a f.b)
  else
  if f.mn = 7 then
    some (.fsub ⟨f.k, f.g⟩ .bf16x2 f.d f.a f.b)
  else
  none

/-- Major 0x19. -/
def decMajor19 (f : Fields) : Option Instr :=
  if f.mn = 0 then
    some (.fmul ⟨f.k, f.g⟩ .f32 f.d f.a f.b)
  else
  if f.mn = 1 then
    some (.fmul ⟨f.k, f.g⟩ .f64 f.d f.a f.b)
  else
  if f.mn = 2 then
    some (.fmul ⟨f.k, f.g⟩ .f16x2 f.d f.a f.b)
  else
  if f.mn = 3 then
    some (.fmul ⟨f.k, f.g⟩ .bf16x2 f.d f.a f.b)
  else
  if f.mn = 4 then
    some (.fmac ⟨f.k, f.g⟩ .f32 f.d f.a f.b)
  else
  if f.mn = 5 then
    some (.fmac ⟨f.k, f.g⟩ .f64 f.d f.a f.b)
  else
  if f.mn = 6 then
    some (.fmac ⟨f.k, f.g⟩ .f16x2 f.d f.a f.b)
  else
  if f.mn = 7 then
    some (.fmac ⟨f.k, f.g⟩ .bf16x2 f.d f.a f.b)
  else
  none

/-- Major 0x1A. -/
def decMajor1A (f : Fields) : Option Instr :=
  if f.mn = 0 then
    some (.fmin ⟨f.k, f.g⟩ .f32 f.d f.a f.b)
  else
  if f.mn = 1 then
    some (.fmin ⟨f.k, f.g⟩ .f64 f.d f.a f.b)
  else
  if f.mn = 2 then
    some (.fmin ⟨f.k, f.g⟩ .f16x2 f.d f.a f.b)
  else
  if f.mn = 3 then
    some (.fmin ⟨f.k, f.g⟩ .bf16x2 f.d f.a f.b)
  else
  if f.mn = 4 then
    some (.fmax ⟨f.k, f.g⟩ .f32 f.d f.a f.b)
  else
  if f.mn = 5 then
    some (.fmax ⟨f.k, f.g⟩ .f64 f.d f.a f.b)
  else
  if f.mn = 6 then
    some (.fmax ⟨f.k, f.g⟩ .f16x2 f.d f.a f.b)
  else
  if f.mn = 7 then
    some (.fmax ⟨f.k, f.g⟩ .bf16x2 f.d f.a f.b)
  else
  none

/-- Major 0x1B. -/
def decMajor1B (f : Fields) : Option Instr :=
  if f.mn = 0 then
    (asReg3 f.d).bind fun d => some (.fsetp ⟨f.k, f.g⟩ .eq d f.a f.b)
  else
  if f.mn = 1 then
    (asReg3 f.d).bind fun d => some (.fsetp ⟨f.k, f.g⟩ .ne d f.a f.b)
  else
  if f.mn = 2 then
    (asReg3 f.d).bind fun d => some (.fsetp ⟨f.k, f.g⟩ .lt d f.a f.b)
  else
  if f.mn = 3 then
    (asReg3 f.d).bind fun d => some (.fsetp ⟨f.k, f.g⟩ .le d f.a f.b)
  else
  if f.mn = 4 then
    (asReg3 f.d).bind fun d => some (.fsetp ⟨f.k, f.g⟩ .num d f.a f.b)
  else
  if f.mn = 5 then
    (asReg3 f.d).bind fun d => some (.fsetp ⟨f.k, f.g⟩ .nan d f.a f.b)
  else
  if f.mn = 6 then
    (asZero f.b).bind fun _ => some (.fclass ⟨f.k, f.g⟩ false f.d f.a)
  else
  if f.mn = 7 then
    (asZero f.b).bind fun _ => some (.fclass ⟨f.k, f.g⟩ true f.d f.a)
  else
  none

/-- Major 0x1C. -/
def decMajor1C (f : Fields) : Option Instr :=
  if f.mn = 0 then
    (asReg3 f.d).bind fun d => some (.fsetpF64 ⟨f.k, f.g⟩ .eq d f.a f.b)
  else
  if f.mn = 1 then
    (asReg3 f.d).bind fun d => some (.fsetpF64 ⟨f.k, f.g⟩ .ne d f.a f.b)
  else
  if f.mn = 2 then
    (asReg3 f.d).bind fun d => some (.fsetpF64 ⟨f.k, f.g⟩ .lt d f.a f.b)
  else
  if f.mn = 3 then
    (asReg3 f.d).bind fun d => some (.fsetpF64 ⟨f.k, f.g⟩ .le d f.a f.b)
  else
  if f.mn = 4 then
    (asReg3 f.d).bind fun d => some (.fsetpF64 ⟨f.k, f.g⟩ .num d f.a f.b)
  else
  if f.mn = 5 then
    (asReg3 f.d).bind fun d => some (.fsetpF64 ⟨f.k, f.g⟩ .nan d f.a f.b)
  else
  if f.mn = 6 then
    some (.fdiv ⟨f.k, f.g⟩ false f.d f.a f.b)
  else
  if f.mn = 7 then
    some (.fdiv ⟨f.k, f.g⟩ true f.d f.a f.b)
  else
  none

/-- Major 0x1D. -/
def decMajor1D (f : Fields) : Option Instr :=
  if f.mn = 0 then
    firstOf [
      ((asConst f.b 0).bind fun _ => some (.fsqrt ⟨f.k, f.g⟩ .f32 f.d f.a)),
      ((asConst f.b 1).bind fun _ => some (.frcp ⟨f.k, f.g⟩ .f32 f.d f.a)),
      ((asConst f.b 2).bind fun _ => some (.frsq ⟨f.k, f.g⟩ .f32 f.d f.a)),
      ((asConst f.b 3).bind fun _ => some (.fexp2 ⟨f.k, f.g⟩ .f32 f.d f.a)),
      ((asConst f.b 4).bind fun _ => some (.flog2 ⟨f.k, f.g⟩ .f32 f.d f.a)),
      ((asConst f.b 5).bind fun _ => some (.ftanh ⟨f.k, f.g⟩ .f32 f.d f.a)),
      ((asConst f.b 6).bind fun _ => some (.fsin ⟨f.k, f.g⟩ .f32 f.d f.a)),
      ((asConst f.b 7).bind fun _ => some (.fcos ⟨f.k, f.g⟩ .f32 f.d f.a)),
      ((asConst f.b 8).bind fun _ => some (.fsigm ⟨f.k, f.g⟩ .f32 f.d f.a)),
      ((asConst f.b 9).bind fun _ => some (.frndRn ⟨f.k, f.g⟩ .f32 f.d f.a)),
      ((asConst f.b 10).bind fun _ => some (.frndRz ⟨f.k, f.g⟩ .f32 f.d f.a)),
      ((asConst f.b 11).bind fun _ => some (.frndRu ⟨f.k, f.g⟩ .f32 f.d f.a)),
      ((asConst f.b 12).bind fun _ => some (.frndRd ⟨f.k, f.g⟩ .f32 f.d f.a))]
  else
  if f.mn = 1 then
    firstOf [
      ((asConst f.b 0).bind fun _ => some (.fsqrt ⟨f.k, f.g⟩ .f64 f.d f.a)),
      ((asConst f.b 1).bind fun _ => some (.frcp ⟨f.k, f.g⟩ .f64 f.d f.a)),
      ((asConst f.b 2).bind fun _ => some (.frsq ⟨f.k, f.g⟩ .f64 f.d f.a)),
      ((asConst f.b 3).bind fun _ => some (.fexp2 ⟨f.k, f.g⟩ .f64 f.d f.a)),
      ((asConst f.b 4).bind fun _ => some (.flog2 ⟨f.k, f.g⟩ .f64 f.d f.a)),
      ((asConst f.b 5).bind fun _ => some (.ftanh ⟨f.k, f.g⟩ .f64 f.d f.a)),
      ((asConst f.b 6).bind fun _ => some (.fsin ⟨f.k, f.g⟩ .f64 f.d f.a)),
      ((asConst f.b 7).bind fun _ => some (.fcos ⟨f.k, f.g⟩ .f64 f.d f.a)),
      ((asConst f.b 8).bind fun _ => some (.fsigm ⟨f.k, f.g⟩ .f64 f.d f.a)),
      ((asConst f.b 9).bind fun _ => some (.frndRn ⟨f.k, f.g⟩ .f64 f.d f.a)),
      ((asConst f.b 10).bind fun _ => some (.frndRz ⟨f.k, f.g⟩ .f64 f.d f.a)),
      ((asConst f.b 11).bind fun _ => some (.frndRu ⟨f.k, f.g⟩ .f64 f.d f.a)),
      ((asConst f.b 12).bind fun _ => some (.frndRd ⟨f.k, f.g⟩ .f64 f.d f.a))]
  else
  if f.mn = 2 then
    firstOf [
      ((asConst f.b 0).bind fun _ => some (.fsqrt ⟨f.k, f.g⟩ .f16x2 f.d f.a)),
      ((asConst f.b 1).bind fun _ => some (.frcp ⟨f.k, f.g⟩ .f16x2 f.d f.a)),
      ((asConst f.b 2).bind fun _ => some (.frsq ⟨f.k, f.g⟩ .f16x2 f.d f.a)),
      ((asConst f.b 3).bind fun _ => some (.fexp2 ⟨f.k, f.g⟩ .f16x2 f.d f.a)),
      ((asConst f.b 4).bind fun _ => some (.flog2 ⟨f.k, f.g⟩ .f16x2 f.d f.a)),
      ((asConst f.b 5).bind fun _ => some (.ftanh ⟨f.k, f.g⟩ .f16x2 f.d f.a)),
      ((asConst f.b 6).bind fun _ => some (.fsin ⟨f.k, f.g⟩ .f16x2 f.d f.a)),
      ((asConst f.b 7).bind fun _ => some (.fcos ⟨f.k, f.g⟩ .f16x2 f.d f.a)),
      ((asConst f.b 8).bind fun _ => some (.fsigm ⟨f.k, f.g⟩ .f16x2 f.d f.a)),
      ((asConst f.b 9).bind fun _ => some (.frndRn ⟨f.k, f.g⟩ .f16x2 f.d f.a)),
      ((asConst f.b 10).bind fun _ => some (.frndRz ⟨f.k, f.g⟩ .f16x2 f.d f.a)),
      ((asConst f.b 11).bind fun _ => some (.frndRu ⟨f.k, f.g⟩ .f16x2 f.d f.a)),
      ((asConst f.b 12).bind fun _ => some (.frndRd ⟨f.k, f.g⟩ .f16x2 f.d f.a))]
  else
  if f.mn = 3 then
    firstOf [
      ((asConst f.b 0).bind fun _ => some (.fsqrt ⟨f.k, f.g⟩ .bf16x2 f.d f.a)),
      ((asConst f.b 1).bind fun _ => some (.frcp ⟨f.k, f.g⟩ .bf16x2 f.d f.a)),
      ((asConst f.b 2).bind fun _ => some (.frsq ⟨f.k, f.g⟩ .bf16x2 f.d f.a)),
      ((asConst f.b 3).bind fun _ => some (.fexp2 ⟨f.k, f.g⟩ .bf16x2 f.d f.a)),
      ((asConst f.b 4).bind fun _ => some (.flog2 ⟨f.k, f.g⟩ .bf16x2 f.d f.a)),
      ((asConst f.b 5).bind fun _ => some (.ftanh ⟨f.k, f.g⟩ .bf16x2 f.d f.a)),
      ((asConst f.b 6).bind fun _ => some (.fsin ⟨f.k, f.g⟩ .bf16x2 f.d f.a)),
      ((asConst f.b 7).bind fun _ => some (.fcos ⟨f.k, f.g⟩ .bf16x2 f.d f.a)),
      ((asConst f.b 8).bind fun _ => some (.fsigm ⟨f.k, f.g⟩ .bf16x2 f.d f.a)),
      ((asConst f.b 9).bind fun _ => some (.frndRn ⟨f.k, f.g⟩ .bf16x2 f.d f.a)),
      ((asConst f.b 10).bind fun _ => some (.frndRz ⟨f.k, f.g⟩ .bf16x2 f.d f.a)),
      ((asConst f.b 11).bind fun _ => some (.frndRu ⟨f.k, f.g⟩ .bf16x2 f.d f.a)),
      ((asConst f.b 12).bind fun _ => some (.frndRd ⟨f.k, f.g⟩ .bf16x2 f.d f.a))]
  else
  if f.mn = 4 then
    some (.fscale ⟨f.k, f.g⟩ .f32 f.d f.a f.b)
  else
  if f.mn = 5 then
    some (.fscale ⟨f.k, f.g⟩ .f64 f.d f.a f.b)
  else
  if f.mn = 6 then
    some (.fscale ⟨f.k, f.g⟩ .f16x2 f.d f.a f.b)
  else
  if f.mn = 7 then
    some (.fscale ⟨f.k, f.g⟩ .bf16x2 f.d f.a f.b)
  else
  none

/-- Major 0x20. -/
def decMajor20 (f : Fields) : Option Instr :=
  if f.mn = 0 then
    firstOf [
      ((ofCvtIF f.b).bind fun t => some (.cvtI2F ⟨f.k, f.g⟩ .dyn f.d f.a t)),
      ((ofCvtFI f.b).bind fun t => some (.cvtF2I ⟨f.k, f.g⟩ .dyn f.d f.a t)),
      ((ofCvtFF f.b).bind fun t => some (.cvtF2F ⟨f.k, f.g⟩ .dyn f.d f.a t))]
  else
  if f.mn = 1 then
    firstOf [
      ((ofCvtIF f.b).bind fun t => some (.cvtI2F ⟨f.k, f.g⟩ .rn f.d f.a t)),
      ((ofCvtFI f.b).bind fun t => some (.cvtF2I ⟨f.k, f.g⟩ .rn f.d f.a t)),
      ((ofCvtFF f.b).bind fun t => some (.cvtF2F ⟨f.k, f.g⟩ .rn f.d f.a t))]
  else
  if f.mn = 2 then
    firstOf [
      ((ofCvtIF f.b).bind fun t => some (.cvtI2F ⟨f.k, f.g⟩ .rz f.d f.a t)),
      ((ofCvtFI f.b).bind fun t => some (.cvtF2I ⟨f.k, f.g⟩ .rz f.d f.a t)),
      ((ofCvtFF f.b).bind fun t => some (.cvtF2F ⟨f.k, f.g⟩ .rz f.d f.a t))]
  else
  if f.mn = 3 then
    firstOf [
      ((ofCvtIF f.b).bind fun t => some (.cvtI2F ⟨f.k, f.g⟩ .ru f.d f.a t)),
      ((ofCvtFI f.b).bind fun t => some (.cvtF2I ⟨f.k, f.g⟩ .ru f.d f.a t)),
      ((ofCvtFF f.b).bind fun t => some (.cvtF2F ⟨f.k, f.g⟩ .ru f.d f.a t))]
  else
  if f.mn = 4 then
    firstOf [
      ((ofCvtIF f.b).bind fun t => some (.cvtI2F ⟨f.k, f.g⟩ .rd f.d f.a t)),
      ((ofCvtFI f.b).bind fun t => some (.cvtF2I ⟨f.k, f.g⟩ .rd f.d f.a t)),
      ((ofCvtFF f.b).bind fun t => some (.cvtF2F ⟨f.k, f.g⟩ .rd f.d f.a t))]
  else
  if f.mn = 5 then
    firstOf [
      ((ofCvtIF f.b).bind fun t => some (.cvtI2F ⟨f.k, f.g⟩ .rs f.d f.a t)),
      ((ofCvtFI f.b).bind fun t => some (.cvtF2I ⟨f.k, f.g⟩ .rs f.d f.a t)),
      ((ofCvtFF f.b).bind fun t => some (.cvtF2F ⟨f.k, f.g⟩ .rs f.d f.a t))]
  else
  none

/-- Major 0x21. -/
def decMajor21 (f : Fields) : Option Instr :=
  if f.mn = 0 then
    (ofPackCode f.b).bind fun c => some (.pack8 ⟨f.k, f.g⟩ f.d f.a c)
  else
  if f.mn = 1 then
    (ofFp8 f.b).bind fun fmt => some (.unpk8 ⟨f.k, f.g⟩ f.d f.a fmt)
  else
  if f.mn = 2 then
    (ofPack4Code f.b).bind fun c => some (.pack4 ⟨f.k, f.g⟩ f.d f.a c)
  else
  if f.mn = 3 then
    (asZero f.b).bind fun _ => some (.unpk4 ⟨f.k, f.g⟩ f.d f.a)
  else
  if f.mn = 4 then
    (ofBlkCode f.b).bind fun c => some (.scaleBlk ⟨f.k, f.g⟩ f.d f.a c)
  else
  if f.mn = 5 then
    some (.rmix ⟨f.k, f.g⟩ f.d f.a f.b)
  else
  none

/-- Major 0x22. -/
def decMajor22 (f : Fields) : Option Instr :=
  if f.mn = 0 then
    some (.shflIdx ⟨f.k, f.g⟩ f.d f.a f.b)
  else
  if f.mn = 1 then
    some (.shflUp ⟨f.k, f.g⟩ f.d f.a f.b)
  else
  if f.mn = 2 then
    some (.shflDown ⟨f.k, f.g⟩ f.d f.a f.b)
  else
  if f.mn = 3 then
    some (.shflXor ⟨f.k, f.g⟩ f.d f.a f.b)
  else
  if f.mn = 4 then
    some (.shflIdxImm ⟨f.k, f.g⟩ f.d f.a f.b)
  else
  if f.mn = 5 then
    some (.shflUpImm ⟨f.k, f.g⟩ f.d f.a f.b)
  else
  if f.mn = 6 then
    some (.shflDownImm ⟨f.k, f.g⟩ f.d f.a f.b)
  else
  if f.mn = 7 then
    some (.shflXorImm ⟨f.k, f.g⟩ f.d f.a f.b)
  else
  none

/-- Major 0x23. -/
def decMajor23 (f : Fields) : Option Instr :=
  if f.mn = 0 then
    (asReg3 f.d).bind fun d => (asReg3 f.a).bind fun a => (asZero f.b).bind fun _ => some (.voteAll ⟨f.k, f.g⟩ d a)
  else
  if f.mn = 1 then
    (asReg3 f.d).bind fun d => (asReg3 f.a).bind fun a => (asZero f.b).bind fun _ => some (.voteAny ⟨f.k, f.g⟩ d a)
  else
  if f.mn = 2 then
    (asReg3 f.a).bind fun a => (asZero f.b).bind fun _ => some (.voteBal ⟨f.k, f.g⟩ f.d a)
  else
  if f.mn = 3 then
    (asZero f.b).bind fun _ => some (.matchLanes ⟨f.k, f.g⟩ f.d f.a)
  else
  if f.mn = 4 then
    (ofRedFn f.b).bind fun fn => some (.red ⟨f.k, f.g⟩ f.d f.a fn)
  else
  if f.mn = 5 then
    (ofScanCode f.b).bind fun c => some (.scan ⟨f.k, f.g⟩ f.d f.a c)
  else
  if f.mn = 6 then
    (asReg3 f.d).bind fun d => (asZero f.a).bind fun _ => (asZero f.b).bind fun _ => some (.elect ⟨f.k, f.g⟩ d)
  else
  none

/-- Major 0x24. -/
def decMajor24 (f : Fields) : Option Instr :=
  if f.mn = 0 then
    (asReg4 f.a).bind fun a => some (.ldReg ⟨f.k, f.g⟩ .b8 f.d a f.b)
  else
  if f.mn = 1 then
    (asReg4 f.a).bind fun a => some (.ldReg ⟨f.k, f.g⟩ .i8 f.d a f.b)
  else
  if f.mn = 2 then
    (asReg4 f.a).bind fun a => some (.ldReg ⟨f.k, f.g⟩ .b16 f.d a f.b)
  else
  if f.mn = 3 then
    (asReg4 f.a).bind fun a => some (.ldReg ⟨f.k, f.g⟩ .i16 f.d a f.b)
  else
  if f.mn = 4 then
    (asReg4 f.a).bind fun a => some (.ldReg ⟨f.k, f.g⟩ .b32 f.d a f.b)
  else
  if f.mn = 5 then
    (asReg4 f.a).bind fun a => some (.ldReg ⟨f.k, f.g⟩ .b64 f.d a f.b)
  else
  if f.mn = 6 then
    (asReg4 f.a).bind fun a => some (.ldReg ⟨f.k, f.g⟩ .b128 f.d a f.b)
  else
  none

/-- Major 0x25. -/
def decMajor25 (f : Fields) : Option Instr :=
  if f.mn = 0 then
    (asReg4 f.a).bind fun a => some (.ldImm ⟨f.k, f.g⟩ .b8 f.d a f.b)
  else
  if f.mn = 1 then
    (asReg4 f.a).bind fun a => some (.ldImm ⟨f.k, f.g⟩ .i8 f.d a f.b)
  else
  if f.mn = 2 then
    (asReg4 f.a).bind fun a => some (.ldImm ⟨f.k, f.g⟩ .b16 f.d a f.b)
  else
  if f.mn = 3 then
    (asReg4 f.a).bind fun a => some (.ldImm ⟨f.k, f.g⟩ .i16 f.d a f.b)
  else
  if f.mn = 4 then
    (asReg4 f.a).bind fun a => some (.ldImm ⟨f.k, f.g⟩ .b32 f.d a f.b)
  else
  if f.mn = 5 then
    (asReg4 f.a).bind fun a => some (.ldImm ⟨f.k, f.g⟩ .b64 f.d a f.b)
  else
  if f.mn = 6 then
    (asReg4 f.a).bind fun a => some (.ldImm ⟨f.k, f.g⟩ .b128 f.d a f.b)
  else
  none

/-- Major 0x26. -/
def decMajor26 (f : Fields) : Option Instr :=
  if f.mn = 0 then
    (asReg4 f.a).bind fun a => some (.stReg ⟨f.k, f.g⟩ .b8 f.d a f.b)
  else
  if f.mn = 1 then
    (asReg4 f.a).bind fun a => some (.stReg ⟨f.k, f.g⟩ .b16 f.d a f.b)
  else
  if f.mn = 2 then
    (asReg4 f.a).bind fun a => some (.stReg ⟨f.k, f.g⟩ .b32 f.d a f.b)
  else
  if f.mn = 3 then
    (asReg4 f.a).bind fun a => some (.stReg ⟨f.k, f.g⟩ .b64 f.d a f.b)
  else
  if f.mn = 4 then
    (asReg4 f.a).bind fun a => some (.stReg ⟨f.k, f.g⟩ .b128 f.d a f.b)
  else
  none

/-- Major 0x27. -/
def decMajor27 (f : Fields) : Option Instr :=
  if f.mn = 0 then
    (asReg4 f.a).bind fun a => some (.stImm ⟨f.k, f.g⟩ .b8 f.d a f.b)
  else
  if f.mn = 1 then
    (asReg4 f.a).bind fun a => some (.stImm ⟨f.k, f.g⟩ .b16 f.d a f.b)
  else
  if f.mn = 2 then
    (asReg4 f.a).bind fun a => some (.stImm ⟨f.k, f.g⟩ .b32 f.d a f.b)
  else
  if f.mn = 3 then
    (asReg4 f.a).bind fun a => some (.stImm ⟨f.k, f.g⟩ .b64 f.d a f.b)
  else
  if f.mn = 4 then
    (asReg4 f.a).bind fun a => some (.stImm ⟨f.k, f.g⟩ .b128 f.d a f.b)
  else
  none

/-- Major 0x28. -/
def decMajor28 (f : Fields) : Option Instr :=
  if f.mn = 0 then
    (asReg4 f.a).bind fun a => some (.ldNt ⟨f.k, f.g⟩ .b32 f.d a f.b)
  else
  if f.mn = 1 then
    (asReg4 f.a).bind fun a => some (.ldNt ⟨f.k, f.g⟩ .b64 f.d a f.b)
  else
  if f.mn = 2 then
    (asReg4 f.a).bind fun a => some (.ldNt ⟨f.k, f.g⟩ .b128 f.d a f.b)
  else
  if f.mn = 3 then
    (ofPrfLevel f.d).bind fun lvl => (asReg4 f.a).bind fun a => some (.prfReg ⟨f.k, f.g⟩ lvl a f.b)
  else
  if f.mn = 4 then
    (asReg4 f.a).bind fun a => some (.stNt ⟨f.k, f.g⟩ .b32 f.d a f.b)
  else
  if f.mn = 5 then
    (asReg4 f.a).bind fun a => some (.stNt ⟨f.k, f.g⟩ .b64 f.d a f.b)
  else
  if f.mn = 6 then
    (asReg4 f.a).bind fun a => some (.stNt ⟨f.k, f.g⟩ .b128 f.d a f.b)
  else
  if f.mn = 7 then
    (ofPrfLevel f.d).bind fun lvl => (asReg4 f.a).bind fun a => some (.prfImm ⟨f.k, f.g⟩ lvl a f.b)
  else
  none

/-- Major 0x29. -/
def decMajor29 (f : Fields) : Option Instr :=
  if f.mn = 0 then
    (asReg4 f.a).bind fun a => some (.ldsImm ⟨f.k, f.g⟩ false f.d a f.b)
  else
  if f.mn = 1 then
    (asReg4 f.a).bind fun a => some (.ldsImm ⟨f.k, f.g⟩ true f.d a f.b)
  else
  if f.mn = 2 then
    (asReg4 f.a).bind fun a => some (.ldsReg ⟨f.k, f.g⟩ false f.d a f.b)
  else
  if f.mn = 3 then
    (asReg4 f.a).bind fun a => some (.ldsReg ⟨f.k, f.g⟩ true f.d a f.b)
  else
  if f.mn = 4 then
    (asReg4 f.a).bind fun a => some (.stsImm ⟨f.k, f.g⟩ false f.d a f.b)
  else
  if f.mn = 5 then
    (asReg4 f.a).bind fun a => some (.stsImm ⟨f.k, f.g⟩ true f.d a f.b)
  else
  if f.mn = 6 then
    (asReg4 f.a).bind fun a => some (.stsReg ⟨f.k, f.g⟩ false f.d a f.b)
  else
  if f.mn = 7 then
    (asReg4 f.a).bind fun a => some (.stsReg ⟨f.k, f.g⟩ true f.d a f.b)
  else
  none

/-- Major 0x2A. -/
def decMajor2A (f : Fields) : Option Instr :=
  if f.mn = 0 then
    (asZero f.b).bind fun _ => some (.fence ⟨f.k, f.g⟩ .grp f.d f.a)
  else
  if f.mn = 1 then
    (asZero f.b).bind fun _ => some (.fence ⟨f.k, f.g⟩ .team f.d f.a)
  else
  if f.mn = 2 then
    (asZero f.b).bind fun _ => some (.fence ⟨f.k, f.g⟩ .clu f.d f.a)
  else
  if f.mn = 3 then
    (asZero f.b).bind fun _ => some (.fence ⟨f.k, f.g⟩ .dev f.d f.a)
  else
  if f.mn = 4 then
    (asZero f.b).bind fun _ => some (.fence ⟨f.k, f.g⟩ .sys f.d f.a)
  else
  none

/-- Major 0x2C. -/
def decMajor2C (f : Fields) : Option Instr :=
  if f.mn = 0 then
    (asZero f.d).bind fun _ => (asReg4 f.a).bind fun a => some (.barInit ⟨f.k, f.g⟩ a f.b)
  else
  if f.mn = 1 then
    (asReg4 f.a).bind fun a => some (.barExp ⟨f.k, f.g⟩ f.d a f.b)
  else
  if f.mn = 2 then
    (asZero f.d).bind fun _ => (asReg4 f.a).bind fun a => (asZero f.b).bind fun _ => some (.barArr ⟨f.k, f.g⟩ a)
  else
  if f.mn = 3 then
    (asReg4 f.a).bind fun a => (asReg3 f.b).bind fun b => some (.barWait ⟨f.k, f.g⟩ f.d a b)
  else
  if f.mn = 4 then
    (asReg4 f.a).bind fun a => (asReg3 f.b).bind fun b => some (.barTest ⟨f.k, f.g⟩ f.d a b)
  else
  if f.mn = 5 then
    (asZero f.d).bind fun _ => (asReg4 f.a).bind fun a => (asZero f.b).bind fun _ => some (.barInv ⟨f.k, f.g⟩ a)
  else
  if f.mn = 6 then
    (asZero f.d).bind fun _ => (asReg4 f.a).bind fun n => (asZero f.b).bind fun _ => some (.tbar ⟨f.k, f.g⟩ n)
  else
  none

/-- Major 0x30. -/
def decMajor30 (f : Fields) : Option Instr :=
  if f.mn = 0 then
    (asReg3 f.d).bind fun d => some (.spawn ⟨f.k, f.g⟩ d f.a f.b)
  else
  if f.mn = 1 then
    (asZero f.d).bind fun _ => (asReg4 f.b).bind fun b => some (.rodCfg ⟨f.k, f.g⟩ f.a b)
  else
  if f.mn = 2 then
    (asZero f.d).bind fun _ => (asZero f.b).bind fun _ => some (.rodStrike ⟨f.k, f.g⟩ f.a)
  else
  if f.mn = 3 then
    (asZero f.b).bind fun _ => some (.chimeAdd ⟨f.k, f.g⟩ f.d f.a)
  else
  if f.mn = 4 then
    (asZero f.b).bind fun _ => some (.chimeSet ⟨f.k, f.g⟩ f.d f.a)
  else
  if f.mn = 5 then
    (asZero f.b).bind fun _ => some (.chimeWait ⟨f.k, f.g⟩ f.d f.a)
  else
  if f.mn = 6 then
    (asZero f.b).bind fun _ => some (.chimeRd ⟨f.k, f.g⟩ f.d f.a)
  else
  none

/-- Major 0x31. -/
def decMajor31 (f : Fields) : Option Instr :=
  if f.mn = 0 then
    (asReg4 f.a).bind fun a => (asBit f.b).bind fun wait => some (.qpop ⟨f.k, f.g⟩ f.d a wait)
  else
  if f.mn = 1 then
    (asZero f.b).bind fun _ => some (.qdone ⟨f.k, f.g⟩ f.d f.a)
  else
  if f.mn = 2 then
    (asZero f.d).bind fun _ => (asReg4 f.a).bind fun a => (asZero f.b).bind fun _ => some (.launch ⟨f.k, f.g⟩ a)
  else
  if f.mn = 3 then
    (asReg4 f.a).bind fun a => (asZero f.b).bind fun _ => some (.gangPrep ⟨f.k, f.g⟩ f.d a)
  else
  if f.mn = 4 then
    (asZero f.b).bind fun _ => some (.gangCommit ⟨f.k, f.g⟩ f.d f.a)
  else
  if f.mn = 5 then
    (asZero f.d).bind fun _ => (asZero f.b).bind fun _ => some (.irq ⟨f.k, f.g⟩ f.a)
  else
  if f.mn = 6 then
    some (.preempt ⟨f.k, f.g⟩ f.d f.a f.b)
  else
  if f.mn = 7 then
    (asReg3 f.d).bind fun d => (asZero f.b).bind fun _ => some (.resume ⟨f.k, f.g⟩ d f.a)
  else
  none

/-- Major 0x32. -/
def decMajor32 (f : Fields) : Option Instr :=
  if f.mn = 0 then
    (ofSReg (f.a ++ f.b)).bind fun sr => some (.srd ⟨f.k, f.g⟩ f.d sr)
  else
  if f.mn = 1 then
    (ofSReg (f.a ++ f.b)).bind fun sr => some (.swr ⟨f.k, f.g⟩ f.d sr)
  else
  if f.mn = 2 then
    (asZero f.d).bind fun _ => some (.eqp ⟨f.k, f.g⟩ (f.a ++ f.b))
  else
  if f.mn = 3 then
    (asZero f.d).bind fun _ => (asZero f.a).bind fun _ => (asZero f.b).bind fun _ => some (.migr ⟨f.k, f.g⟩)
  else
  if f.mn = 4 then
    (asZero f.d).bind fun _ => some (.trap ⟨f.k, f.g⟩ (f.a ++ f.b))
  else
  if f.mn = 5 then
    (asZero f.d).bind fun _ => (asZero f.a).bind fun _ => (asZero f.b).bind fun _ => some (.tret ⟨f.k, f.g⟩)
  else
  if f.mn = 6 then
    (asZero f.d).bind fun _ => (asZero f.a).bind fun _ => (asZero f.b).bind fun _ => some (.halt ⟨f.k, f.g⟩)
  else
  if f.mn = 7 then
    (asZero f.b).bind fun _ => some (.frecRd ⟨f.k, f.g⟩ f.d f.a)
  else
  none

/-- Major 0x33. -/
def decMajor33 (f : Fields) : Option Instr :=
  if f.mn = 0 then
    (asZero f.d).bind fun _ => some (.bkpt ⟨f.k, f.g⟩ (f.a ++ f.b))
  else
  if f.mn = 1 then
    (asZero f.d).bind fun _ => some (.rgnEnter ⟨f.k, f.g⟩ (f.a ++ f.b))
  else
  if f.mn = 2 then
    (asZero f.d).bind fun _ => some (.rgnLeave ⟨f.k, f.g⟩ (f.a ++ f.b))
  else
  if f.mn = 3 then
    (asZero f.a).bind fun _ => (asZero f.b).bind fun _ => some (.traceMark ⟨f.k, f.g⟩ f.d)
  else
  none

/-- Major 0x38. -/
def decMajor38 (f : Fields) (x : BitVec 32) : Option Instr :=
  if f.mn = 0 then
    (ofRnd (x.extractLsb' 21 3)).bind fun rnd => (asZero (x.extractLsb' 0 21)).bind fun _ => some (.ffma ⟨f.k, f.g, x.extractLsb' 30 2⟩ .f32 f.d f.a f.b (x.extractLsb' 24 6) rnd)
  else
  if f.mn = 1 then
    (ofRnd (x.extractLsb' 21 3)).bind fun rnd => (asZero (x.extractLsb' 0 21)).bind fun _ => some (.ffma ⟨f.k, f.g, x.extractLsb' 30 2⟩ .f64 f.d f.a f.b (x.extractLsb' 24 6) rnd)
  else
  if f.mn = 2 then
    (ofRnd (x.extractLsb' 21 3)).bind fun rnd => (asZero (x.extractLsb' 0 21)).bind fun _ => some (.ffma ⟨f.k, f.g, x.extractLsb' 30 2⟩ .f16x2 f.d f.a f.b (x.extractLsb' 24 6) rnd)
  else
  if f.mn = 3 then
    (ofRnd (x.extractLsb' 21 3)).bind fun rnd => (asZero (x.extractLsb' 0 21)).bind fun _ => some (.ffma ⟨f.k, f.g, x.extractLsb' 30 2⟩ .bf16x2 f.d f.a f.b (x.extractLsb' 24 6) rnd)
  else
  none

/-- Major 0x39. -/
def decMajor39 (f : Fields) (x : BitVec 32) : Option Instr :=
  if f.mn = 0 then
    (asZero f.a).bind fun _ => (asZero f.b).bind fun _ => some (.ldi ⟨f.k, f.g⟩ f.d x)
  else
  if f.mn = 1 then
    (asZero f.a).bind fun _ => (asZero f.b).bind fun _ => some (.smoviX ⟨f.k, f.g⟩ f.d x)
  else
  if f.mn = 2 then
    (asZero f.b).bind fun _ => some (.saddX ⟨f.k, f.g⟩ f.d f.a x)
  else
  if f.mn = 3 then
    (asReg4 f.d).bind fun d => (asZero f.a).bind fun _ => (asZero f.b).bind fun _ => some (.arAdvX ⟨f.k, f.g⟩ d x)
  else
  none

/-- Major 0x3A. -/
def decMajor3A (f : Fields) (x : BitVec 32) : Option Instr :=
  if f.mn = 0 then
    (asReg4 f.d).bind fun d => (asReg4 f.a).bind fun a => (asZero (x.extractLsb' 0 7)).bind fun _ => some (.mma ⟨f.k, f.g, x.extractLsb' 30 2⟩ .e4m3 d a f.b (x.extractLsb' 24 6) (x.extractLsb' 20 4) (x.extractLsb' 14 6) (x.extractLsb' 8 6) (x.getLsbD 7))
  else
  if f.mn = 1 then
    (asReg4 f.d).bind fun d => (asReg4 f.a).bind fun a => (asZero (x.extractLsb' 0 7)).bind fun _ => some (.mma ⟨f.k, f.g, x.extractLsb' 30 2⟩ .e5m2 d a f.b (x.extractLsb' 24 6) (x.extractLsb' 20 4) (x.extractLsb' 14 6) (x.extractLsb' 8 6) (x.getLsbD 7))
  else
  if f.mn = 2 then
    (asReg4 f.d).bind fun d => (asReg4 f.a).bind fun a => (asZero (x.extractLsb' 0 7)).bind fun _ => some (.mma ⟨f.k, f.g, x.extractLsb' 30 2⟩ .fp4 d a f.b (x.extractLsb' 24 6) (x.extractLsb' 20 4) (x.extractLsb' 14 6) (x.extractLsb' 8 6) (x.getLsbD 7))
  else
  if f.mn = 3 then
    (asReg4 f.d).bind fun d => (asReg4 f.a).bind fun a => (asZero (x.extractLsb' 0 7)).bind fun _ => some (.mma ⟨f.k, f.g, x.extractLsb' 30 2⟩ .bf16 d a f.b (x.extractLsb' 24 6) (x.extractLsb' 20 4) (x.extractLsb' 14 6) (x.extractLsb' 8 6) (x.getLsbD 7))
  else
  if f.mn = 4 then
    (asReg4 f.d).bind fun d => (asReg4 f.a).bind fun a => (asZero (x.extractLsb' 0 7)).bind fun _ => some (.mma ⟨f.k, f.g, x.extractLsb' 30 2⟩ .f16 d a f.b (x.extractLsb' 24 6) (x.extractLsb' 20 4) (x.extractLsb' 14 6) (x.extractLsb' 8 6) (x.getLsbD 7))
  else
  if f.mn = 5 then
    (asReg4 f.d).bind fun d => (asReg4 f.a).bind fun a => (asZero (x.extractLsb' 0 7)).bind fun _ => some (.mma ⟨f.k, f.g, x.extractLsb' 30 2⟩ .i8 d a f.b (x.extractLsb' 24 6) (x.extractLsb' 20 4) (x.extractLsb' 14 6) (x.extractLsb' 8 6) (x.getLsbD 7))
  else
  none

/-- Major 0x3B. -/
def decMajor3B (f : Fields) (x : BitVec 32) : Option Instr :=
  if f.mn = 0 then
    (asReg4 f.d).bind fun d => (asReg4 f.a).bind fun a => (ofSparsity (x.extractLsb' 5 2)).bind fun sp => (asZero (x.extractLsb' 0 5)).bind fun _ => some (.mmas ⟨f.k, f.g, x.extractLsb' 30 2⟩ .e4m3 d a f.b (x.extractLsb' 24 6) (x.extractLsb' 20 4) (x.extractLsb' 14 6) (x.extractLsb' 8 6) (x.getLsbD 7) sp)
  else
  if f.mn = 1 then
    (asReg4 f.d).bind fun d => (asReg4 f.a).bind fun a => (ofSparsity (x.extractLsb' 5 2)).bind fun sp => (asZero (x.extractLsb' 0 5)).bind fun _ => some (.mmas ⟨f.k, f.g, x.extractLsb' 30 2⟩ .e5m2 d a f.b (x.extractLsb' 24 6) (x.extractLsb' 20 4) (x.extractLsb' 14 6) (x.extractLsb' 8 6) (x.getLsbD 7) sp)
  else
  if f.mn = 2 then
    (asReg4 f.d).bind fun d => (asReg4 f.a).bind fun a => (ofSparsity (x.extractLsb' 5 2)).bind fun sp => (asZero (x.extractLsb' 0 5)).bind fun _ => some (.mmas ⟨f.k, f.g, x.extractLsb' 30 2⟩ .fp4 d a f.b (x.extractLsb' 24 6) (x.extractLsb' 20 4) (x.extractLsb' 14 6) (x.extractLsb' 8 6) (x.getLsbD 7) sp)
  else
  if f.mn = 3 then
    (asReg4 f.d).bind fun d => (asReg4 f.a).bind fun a => (ofSparsity (x.extractLsb' 5 2)).bind fun sp => (asZero (x.extractLsb' 0 5)).bind fun _ => some (.mmas ⟨f.k, f.g, x.extractLsb' 30 2⟩ .bf16 d a f.b (x.extractLsb' 24 6) (x.extractLsb' 20 4) (x.extractLsb' 14 6) (x.extractLsb' 8 6) (x.getLsbD 7) sp)
  else
  if f.mn = 4 then
    (asReg4 f.d).bind fun d => (asReg4 f.a).bind fun a => (ofSparsity (x.extractLsb' 5 2)).bind fun sp => (asZero (x.extractLsb' 0 5)).bind fun _ => some (.mmas ⟨f.k, f.g, x.extractLsb' 30 2⟩ .f16 d a f.b (x.extractLsb' 24 6) (x.extractLsb' 20 4) (x.extractLsb' 14 6) (x.extractLsb' 8 6) (x.getLsbD 7) sp)
  else
  if f.mn = 5 then
    (asReg4 f.d).bind fun d => (asReg4 f.a).bind fun a => (ofSparsity (x.extractLsb' 5 2)).bind fun sp => (asZero (x.extractLsb' 0 5)).bind fun _ => some (.mmas ⟨f.k, f.g, x.extractLsb' 30 2⟩ .i8 d a f.b (x.extractLsb' 24 6) (x.extractLsb' 20 4) (x.extractLsb' 14 6) (x.extractLsb' 8 6) (x.getLsbD 7) sp)
  else
  none

/-- Major 0x3C. -/
def decMajor3C (f : Fields) (x : BitVec 32) : Option Instr :=
  if f.mn = 0 then
    firstOf [
      ((asReg4 f.a).bind fun a => (asReg4 f.b).bind fun b => (asReg4 (x.extractLsb' 24 6)).bind fun c => (asConst (x.extractLsb' 18 2) 0).bind fun _ => (asZero (x.extractLsb' 0 18)).bind fun _ => some (.xcpIn ⟨f.k, f.g, x.extractLsb' 30 2⟩ f.d a b c (x.extractLsb' 20 4))),
      ((asReg4 f.a).bind fun a => (asReg4 f.b).bind fun b => (asReg4 (x.extractLsb' 24 6)).bind fun c => (asConst (x.extractLsb' 18 2) 1).bind fun _ => (asZero (x.extractLsb' 0 18)).bind fun _ => some (.xcpOut ⟨f.k, f.g, x.extractLsb' 30 2⟩ f.d a b c (x.extractLsb' 20 4)))]
  else
  if f.mn = 1 then
    (asReg4 f.a).bind fun a => (asReg4 f.b).bind fun b => (asZero (x.extractLsb' 24 6)).bind fun _ => (asZero (x.extractLsb' 0 20)).bind fun _ => some (.xcpV ⟨f.k, f.g, x.extractLsb' 30 2⟩ f.d a b (x.extractLsb' 20 4))
  else
  if f.mn = 2 then
    (asReg4 f.a).bind fun a => (asReg4 f.b).bind fun b => (asReg4 (x.extractLsb' 24 6)).bind fun c => (asZero (x.extractLsb' 0 20)).bind fun _ => some (.xgath ⟨f.k, f.g, x.extractLsb' 30 2⟩ f.d a b c (x.extractLsb' 20 4))
  else
  if f.mn = 3 then
    (asReg4 f.a).bind fun a => (asReg4 f.b).bind fun b => (asReg4 (x.extractLsb' 24 6)).bind fun c => (ofXredTy (x.extractLsb' 17 3)).bind fun ty => (asZero (x.extractLsb' 0 17)).bind fun _ => some (.xred ⟨f.k, f.g, x.extractLsb' 30 2⟩ f.d a b c (x.extractLsb' 20 4) ty)
  else
  none

/-- Major 0x3D. -/
def decMajor3D (f : Fields) (x : BitVec 32) : Option Instr :=
  if f.mn = 0 then
    (asReg4 f.d).bind fun d => (asReg4 f.a).bind fun a => (ofTldFmt (x.extractLsb' 5 3)).bind fun fmt => (asZero (x.extractLsb' 0 5)).bind fun _ => some (.tld ⟨f.k, f.g, x.extractLsb' 30 2⟩ d a f.b (x.extractLsb' 24 6) (x.extractLsb' 20 4) (x.extractLsb' 14 6) (x.extractLsb' 8 6) fmt)
  else
  if f.mn = 1 then
    (asReg4 f.d).bind fun d => (asReg4 f.a).bind fun a => (ofTstFmt (x.extractLsb' 5 3)).bind fun fmt => (ofRnd (x.extractLsb' 2 3)).bind fun rnd => (ofTstScale (x.extractLsb' 0 2)).bind fun scl => some (.tst ⟨f.k, f.g, x.extractLsb' 30 2⟩ d a f.b (x.extractLsb' 24 6) (x.extractLsb' 20 4) (x.extractLsb' 14 6) (x.extractLsb' 8 6) fmt rnd scl)
  else
  if f.mn = 2 then
    (asReg4 f.a).bind fun a => (asZero (x.extractLsb' 24 6)).bind fun _ => (asZero (x.extractLsb' 0 15)).bind fun _ => some (.trd ⟨f.k, f.g, x.extractLsb' 30 2⟩ f.d a f.b (x.getLsbD 23) (x.extractLsb' 15 8))
  else
  if f.mn = 3 then
    (asReg4 f.d).bind fun d => (asZero (x.extractLsb' 24 6)).bind fun _ => (asZero (x.extractLsb' 0 15)).bind fun _ => some (.twr ⟨f.k, f.g, x.extractLsb' 30 2⟩ d f.a f.b (x.getLsbD 23) (x.extractLsb' 15 8))
  else
  if f.mn = 4 then
    (asReg4 f.d).bind fun d => (asReg4 f.b).bind fun b => (asZero (x.extractLsb' 24 6)).bind fun _ => (ofTScaleMode (x.extractLsb' 4 2)).bind fun mode => (ofRnd (x.extractLsb' 1 3)).bind fun rnd => (asZero (x.extractLsb' 0 1)).bind fun _ => some (.tscale ⟨f.k, f.g, x.extractLsb' 30 2⟩ d f.a b (x.extractLsb' 18 6) (x.extractLsb' 12 6) (x.extractLsb' 6 6) mode rnd)
  else
  if f.mn = 5 then
    (asReg4 f.d).bind fun d => (asZero f.b).bind fun _ => (asZero (x.extractLsb' 24 6)).bind fun _ => (asZero (x.extractLsb' 0 12)).bind fun _ => some (.tzero ⟨f.k, f.g, x.extractLsb' 30 2⟩ d f.a (x.extractLsb' 18 6) (x.extractLsb' 12 6))
  else
  none

/-- Major 0x3E. -/
def decMajor3E (f : Fields) (x : BitVec 32) : Option Instr :=
  if f.mn = 0 then
    (asReg4 f.a).bind fun a => (asZero (x.extractLsb' 24 6)).bind fun _ => (ofOrder (x.extractLsb' 22 2)).bind fun ord => (ofScope (x.extractLsb' 19 3)).bind fun sc => (ofLdSize (x.extractLsb' 16 3)).bind fun sz => (asZero (x.extractLsb' 0 16)).bind fun _ => some (.ldOrdered ⟨f.k, f.g, x.extractLsb' 30 2⟩ f.d a f.b ord sc sz)
  else
  if f.mn = 1 then
    (asReg4 f.a).bind fun a => (asZero (x.extractLsb' 24 6)).bind fun _ => (ofOrder (x.extractLsb' 22 2)).bind fun ord => (ofScope (x.extractLsb' 19 3)).bind fun sc => (ofStSize (x.extractLsb' 16 3)).bind fun sz => (asZero (x.extractLsb' 0 16)).bind fun _ => some (.stOrdered ⟨f.k, f.g, x.extractLsb' 30 2⟩ f.d a f.b ord sc sz)
  else
  if f.mn = 2 then
    (asReg4 f.a).bind fun a => (ofOrder (x.extractLsb' 22 2)).bind fun ord => (ofScope (x.extractLsb' 19 3)).bind fun sc => (ofAmoSize (x.extractLsb' 16 3)).bind fun sz => (ofAmoOp (x.extractLsb' 12 4)).bind fun op => (asZero (x.extractLsb' 0 12)).bind fun _ => some (.amo ⟨f.k, f.g, x.extractLsb' 30 2⟩ f.d a f.b (x.extractLsb' 24 6) ord sc sz op)
  else
  if f.mn = 3 then
    (asReg4 f.a).bind fun a => (asZero (x.extractLsb' 24 6)).bind fun _ => (ofOrder (x.extractLsb' 22 2)).bind fun ord => (ofScope (x.extractLsb' 19 3)).bind fun sc => (ofAmoSize (x.extractLsb' 16 3)).bind fun sz => (asZero (x.extractLsb' 0 16)).bind fun _ => some (.lr ⟨f.k, f.g, x.extractLsb' 30 2⟩ f.d a f.b ord sc sz)
  else
  if f.mn = 4 then
    (asReg4 f.a).bind fun a => (asReg3 (x.extractLsb' 24 6)).bind fun c => (ofOrder (x.extractLsb' 22 2)).bind fun ord => (ofScope (x.extractLsb' 19 3)).bind fun scp => (ofAmoSize (x.extractLsb' 16 3)).bind fun sz => (asZero (x.extractLsb' 0 16)).bind fun _ => some (.sc ⟨f.k, f.g, x.extractLsb' 30 2⟩ f.d a f.b c ord scp sz)
  else
  none

/-- The instruction of a first word `w`, with `x` the word after it (read only by an X-class instruction), before the
exclusions of `Machine.legal`. Majors that 05 R72 and R73 reserve give none. -/
def decodeFields (f : Fields) (x : BitVec 32) : Option Instr :=
  if f.mj = 0 then decMajor00 f else
  if f.mj = 1 then decMajor01 f else
  if f.mj = 2 then decMajor02 f else
  if f.mj = 8 then decMajor08 f else
  if f.mj = 9 then decMajor09 f else
  if f.mj = 10 then decMajor0A f else
  if f.mj = 11 then decMajor0B f else
  if f.mj = 12 then decMajor0C f else
  if f.mj = 13 then decMajor0D f else
  if f.mj = 14 then decMajor0E f else
  if f.mj = 15 then decMajor0F f else
  if f.mj = 16 then decMajor10 f else
  if f.mj = 17 then decMajor11 f else
  if f.mj = 18 then decMajor12 f else
  if f.mj = 19 then decMajor13 f else
  if f.mj = 20 then decMajor14 f else
  if f.mj = 21 then decMajor15 f else
  if f.mj = 22 then decMajor16 f else
  if f.mj = 23 then decMajor17 f else
  if f.mj = 24 then decMajor18 f else
  if f.mj = 25 then decMajor19 f else
  if f.mj = 26 then decMajor1A f else
  if f.mj = 27 then decMajor1B f else
  if f.mj = 28 then decMajor1C f else
  if f.mj = 29 then decMajor1D f else
  if f.mj = 32 then decMajor20 f else
  if f.mj = 33 then decMajor21 f else
  if f.mj = 34 then decMajor22 f else
  if f.mj = 35 then decMajor23 f else
  if f.mj = 36 then decMajor24 f else
  if f.mj = 37 then decMajor25 f else
  if f.mj = 38 then decMajor26 f else
  if f.mj = 39 then decMajor27 f else
  if f.mj = 40 then decMajor28 f else
  if f.mj = 41 then decMajor29 f else
  if f.mj = 42 then decMajor2A f else
  if f.mj = 44 then decMajor2C f else
  if f.mj = 48 then decMajor30 f else
  if f.mj = 49 then decMajor31 f else
  if f.mj = 50 then decMajor32 f else
  if f.mj = 51 then decMajor33 f else
  if f.mj = 56 then decMajor38 f x else
  if f.mj = 57 then decMajor39 f x else
  if f.mj = 58 then decMajor3A f x else
  if f.mj = 59 then decMajor3B f x else
  if f.mj = 60 then decMajor3C f x else
  if f.mj = 61 then decMajor3D f x else
  if f.mj = 62 then decMajor3E f x else
  none

/-- The decoder (05 R63 to R75): the instruction of a first word and the word that follows it, or the name of the
reason why there is none. -/
def decode (w x : BitVec 32) : Except Reject Instr :=
  match decodeFields (unpack w) x with
  | none => .error .unlisted
  | some i => if i.WellFormed then .ok i else .error .excluded

/-- The first word of an instruction with its header and six-bit fields. -/
def word (k : BitVec 2) (g : BitVec 3) (mj d a b : BitVec 6) (mn : BitVec 3) : BitVec 32 := pack ⟨k, g, mj, d, a, b, mn⟩

/-- A four-bit register number in its six-bit field. -/
def field4 (r : BitVec 4) : BitVec 6 := 0#2 ++ r

/-- A three-bit register number in its six-bit field. -/
def field3 (r : BitVec 3) : BitVec 6 := 0#3 ++ r

/-- A two-bit register number in its six-bit field. -/
def field2 (r : BitVec 2) : BitVec 6 := 0#4 ++ r

/-- A one-bit field in six bits. -/
def field1 (b : Bool) : BitVec 6 := 0#5 ++ BitVec.ofBool b

/-- The encoder (05 R63, R72, R73): the words of a program instruction, the extension word only for an X-class one;
a device step has none. -/
def encode : Instr → Option (BitVec 32 × Option (BitVec 32))
  | .bra h o => some (word h.k h.g 0 (o.extractLsb' 12 6) (o.extractLsb' 6 6) (o.extractLsb' 0 6) 1, none)
  | .bru h o => some (word h.k h.g 0 (o.extractLsb' 12 6) (o.extractLsb' 6 6) (o.extractLsb' 0 6) 2, none)
  | .call h o => some (word h.k h.g 0 (o.extractLsb' 12 6) (o.extractLsb' 6 6) (o.extractLsb' 0 6) 3, none)
  | .brx h a => some (word h.k h.g 1 0 a 0 0, none)
  | .callx h a => some (word h.k h.g 1 0 a 0 1, none)
  | .jtb h a b => some (word h.k h.g 1 0 a (field4 b) 2, none)
  | .ret h => some (word h.k h.g 1 0 0 0 3, none)
  | .exit h => some (word h.k h.g 1 0 0 0 4, none)
  | .yield h => some (word h.k h.g 1 0 0 0 5, none)
  | .nop h => some (word h.k h.g 1 0 0 0 6, none)
  | .meet h o => some (word h.k h.g 2 (o.extractLsb' 12 6) (o.extractLsb' 6 6) (o.extractLsb' 0 6) 0, none)
  | .meetX h a => some (word h.k h.g 2 0 a 0 1, none)
  | .meetR h => some (word h.k h.g 2 0 0 0 2, none)
  | .add h sat w64 d a b => some (word h.k h.g 8 d a b (0#1 ++ BitVec.ofBool sat ++ BitVec.ofBool w64), none)
  | .addImm h w64 d a imm => some (word h.k h.g 8 d a imm (2#2 ++ BitVec.ofBool w64), none)
  | .movi h d imm => some (word h.k h.g 8 d (imm.extractLsb' 6 6) (imm.extractLsb' 0 6) 6, none)
  | .sel h d a b => some (word h.k h.g 8 d a b 7, none)
  | .sub h sat w64 d a b => some (word h.k h.g 9 d a b (0#1 ++ BitVec.ofBool sat ++ BitVec.ofBool w64), none)
  | .mul h sat w64 d a b => some (word h.k h.g 9 d a b (1#1 ++ BitVec.ofBool sat ++ BitVec.ofBool w64), none)
  | .mad h sat w64 d a b => some (word h.k h.g 10 d a b (0#1 ++ BitVec.ofBool sat ++ BitVec.ofBool w64), none)
  | .mulh h uns w64 d a b => some (word h.k h.g 10 d a b (1#1 ++ BitVec.ofBool uns ++ BitVec.ofBool w64), none)
  | .idiv h uns w64 d a b => some (word h.k h.g 11 d a b (0#1 ++ BitVec.ofBool uns ++ BitVec.ofBool w64), none)
  | .irem h uns w64 d a b => some (word h.k h.g 11 d a b (1#1 ++ BitVec.ofBool uns ++ BitVec.ofBool w64), none)
  | .min h uns w64 d a b => some (word h.k h.g 12 d a b (0#1 ++ BitVec.ofBool uns ++ BitVec.ofBool w64), none)
  | .max h uns w64 d a b => some (word h.k h.g 12 d a b (1#1 ++ BitVec.ofBool uns ++ BitVec.ofBool w64), none)
  | .and h d a b => some (word h.k h.g 13 d a b 0, none)
  | .or h d a b => some (word h.k h.g 13 d a b 1, none)
  | .xor h d a b => some (word h.k h.g 13 d a b 2, none)
  | .andn h d a b => some (word h.k h.g 13 d a b 3, none)
  | .bfx h d a b => some (word h.k h.g 13 d a b 4, none)
  | .bfxU h d a b => some (word h.k h.g 13 d a b 5, none)
  | .bfi h d a b => some (word h.k h.g 13 d a b 6, none)
  | .mov h d a => some (word h.k h.g 13 d a 0 7, none)
  | .popc h d a => some (word h.k h.g 13 d a 1 7, none)
  | .clz h d a => some (word h.k h.g 13 d a 2 7, none)
  | .ctz h d a => some (word h.k h.g 13 d a 3 7, none)
  | .brev h d a => some (word h.k h.g 13 d a 4 7, none)
  | .abs h d a => some (word h.k h.g 13 d a 5 7, none)
  | .absSat h d a => some (word h.k h.g 13 d a 6 7, none)
  | .mov64 h d a => some (word h.k h.g 14 d a 0 7, none)
  | .popc64 h d a => some (word h.k h.g 14 d a 1 7, none)
  | .clz64 h d a => some (word h.k h.g 14 d a 2 7, none)
  | .ctz64 h d a => some (word h.k h.g 14 d a 3 7, none)
  | .brev64 h d a => some (word h.k h.g 14 d a 4 7, none)
  | .abs64 h d a => some (word h.k h.g 14 d a 5 7, none)
  | .absSat64 h d a => some (word h.k h.g 14 d a 6 7, none)
  | .shl h w64 d a b => some (word h.k h.g 14 d a b (BitVec.ofBool w64 ++ 0#2), none)
  | .shr h w64 d a b => some (word h.k h.g 14 d a b (BitVec.ofBool w64 ++ 1#2), none)
  | .sar h w64 d a b => some (word h.k h.g 14 d a b (BitVec.ofBool w64 ++ 2#2), none)
  | .rol h d a b => some (word h.k h.g 14 d a b 3, none)
  | .shlImm h w64 d a amt => some (word h.k h.g 15 d a amt (BitVec.ofBool w64 ++ 0#2), none)
  | .shrImm h w64 d a amt => some (word h.k h.g 15 d a amt (BitVec.ofBool w64 ++ 1#2), none)
  | .sarImm h w64 d a amt => some (word h.k h.g 15 d a amt (BitVec.ofBool w64 ++ 2#2), none)
  | .rolImm h w64 d a amt => some (word h.k h.g 15 d a amt (BitVec.ofBool w64 ++ 3#2), none)
  | .sadd h w64 d a b => some (word h.k h.g (8#5 ++ BitVec.ofBool w64) d a b 0, none)
  | .ssub h w64 d a b => some (word h.k h.g (8#5 ++ BitVec.ofBool w64) d a b 1, none)
  | .smul h w64 d a b => some (word h.k h.g (8#5 ++ BitVec.ofBool w64) d a b 2, none)
  | .sand h w64 d a b => some (word h.k h.g (8#5 ++ BitVec.ofBool w64) d a b 3, none)
  | .sor h w64 d a b => some (word h.k h.g (8#5 ++ BitVec.ofBool w64) d a b 4, none)
  | .sxor h w64 d a b => some (word h.k h.g (8#5 ++ BitVec.ofBool w64) d a b 5, none)
  | .sshl h w64 d a b => some (word h.k h.g (8#5 ++ BitVec.ofBool w64) d a b 6, none)
  | .sshr h w64 d a b => some (word h.k h.g (8#5 ++ BitVec.ofBool w64) d a b 7, none)
  | .smov h w64 d a => some (word h.k h.g 18 d a 0 (0#2 ++ BitVec.ofBool w64), none)
  | .smovi h d imm => some (word h.k h.g 18 d (imm.extractLsb' 6 6) (imm.extractLsb' 0 6) 2, none)
  | .saddImm h d a imm => some (word h.k h.g 18 d a imm 3, none)
  | .rdlane h d a b => some (word h.k h.g 18 d a b 4, none)
  | .rdlaneImm h d a lane => some (word h.k h.g 18 d a lane 5, none)
  | .ssetp h cc d a b => some (word h.k h.g 19 (field3 d) a b (codeIntCond cc), none)
  | .arSetGlobal h d a b => some (word h.k h.g 20 (field4 d) a b 0, none)
  | .arSetVault h d a b => some (word h.k h.g 20 (field4 d) a b 1, none)
  | .arSetSystem h d a b => some (word h.k h.g 20 (field4 d) a b 2, none)
  | .arPtr h d a => some (word h.k h.g 20 (field4 d) a 0 3, none)
  | .arAdv h d a => some (word h.k h.g 20 (field4 d) a 0 4, none)
  | .arAdvImm h d imm => some (word h.k h.g 20 (field4 d) 0 imm 5, none)
  | .arRd h d a part => some (word h.k h.g 20 d (field4 a) (codeArPart part) 6, none)
  | .arNarrow h d a b => some (word h.k h.g 20 (field4 d) a b 7, none)
  | .arPerm h d msk => some (word h.k h.g 21 (field4 d) 0 (field4 msk) 0, none)
  | .ixSet h d base cntM1 => some (word h.k h.g 21 (field2 d) base cntM1 1, none)
  | .ixAdv h d imm => some (word h.k h.g 21 (field2 d) 0 imm 2, none)
  | .movxRead h d a elt => some (word h.k h.g 21 d (field2 a) elt 3, none)
  | .movxWrite h d a elt => some (word h.k h.g 21 (field2 d) a elt 4, none)
  | .isetp h w64 cc d a b => some (word h.k h.g (11#5 ++ BitVec.ofBool w64) (field3 d) a b (codeIntCond cc), none)
  | .pand h d a b => some (word h.k h.g 22 (field3 d) (field3 a) (field3 b) 6, none)
  | .por h d a b => some (word h.k h.g 22 (field3 d) (field3 a) (field3 b) 7, none)
  | .pxor h d a b => some (word h.k h.g 23 (field3 d) (field3 a) (field3 b) 6, none)
  | .selp h d a b => some (word h.k h.g 23 d a (field3 b) 7, none)
  | .fadd h ty d a b => some (word h.k h.g 24 d a b (0#1 ++ codeFTy ty), none)
  | .fsub h ty d a b => some (word h.k h.g 24 d a b (1#1 ++ codeFTy ty), none)
  | .fmul h ty d a b => some (word h.k h.g 25 d a b (0#1 ++ codeFTy ty), none)
  | .fmac h ty d a b => some (word h.k h.g 25 d a b (1#1 ++ codeFTy ty), none)
  | .fmin h ty d a b => some (word h.k h.g 26 d a b (0#1 ++ codeFTy ty), none)
  | .fmax h ty d a b => some (word h.k h.g 26 d a b (1#1 ++ codeFTy ty), none)
  | .fsetp h cc d a b => some (word h.k h.g 27 (field3 d) a b (codeFltCond cc), none)
  | .fclass h w64 d a => some (word h.k h.g 27 d a 0 (3#2 ++ BitVec.ofBool w64), none)
  | .fsetpF64 h cc d a b => some (word h.k h.g 28 (field3 d) a b (codeFltCond cc), none)
  | .fdiv h w64 d a b => some (word h.k h.g 28 d a b (3#2 ++ BitVec.ofBool w64), none)
  | .fsqrt h ty d a => some (word h.k h.g 29 d a 0 (0#1 ++ codeFTy ty), none)
  | .frcp h ty d a => some (word h.k h.g 29 d a 1 (0#1 ++ codeFTy ty), none)
  | .frsq h ty d a => some (word h.k h.g 29 d a 2 (0#1 ++ codeFTy ty), none)
  | .fexp2 h ty d a => some (word h.k h.g 29 d a 3 (0#1 ++ codeFTy ty), none)
  | .flog2 h ty d a => some (word h.k h.g 29 d a 4 (0#1 ++ codeFTy ty), none)
  | .ftanh h ty d a => some (word h.k h.g 29 d a 5 (0#1 ++ codeFTy ty), none)
  | .fsin h ty d a => some (word h.k h.g 29 d a 6 (0#1 ++ codeFTy ty), none)
  | .fcos h ty d a => some (word h.k h.g 29 d a 7 (0#1 ++ codeFTy ty), none)
  | .fsigm h ty d a => some (word h.k h.g 29 d a 8 (0#1 ++ codeFTy ty), none)
  | .frndRn h ty d a => some (word h.k h.g 29 d a 9 (0#1 ++ codeFTy ty), none)
  | .frndRz h ty d a => some (word h.k h.g 29 d a 10 (0#1 ++ codeFTy ty), none)
  | .frndRu h ty d a => some (word h.k h.g 29 d a 11 (0#1 ++ codeFTy ty), none)
  | .frndRd h ty d a => some (word h.k h.g 29 d a 12 (0#1 ++ codeFTy ty), none)
  | .fscale h ty d a b => some (word h.k h.g 29 d a b (1#1 ++ codeFTy ty), none)
  | .cvtI2F h rnd d a t => some (word h.k h.g 32 d a (codeCvtIF t) (codeRnd rnd), none)
  | .cvtF2I h rnd d a t => some (word h.k h.g 32 d a (codeCvtFI t) (codeRnd rnd), none)
  | .cvtF2F h rnd d a t => some (word h.k h.g 32 d a (codeCvtFF t) (codeRnd rnd), none)
  | .pack8 h d a c => some (word h.k h.g 33 d a (codePackCode c) 0, none)
  | .unpk8 h d a fmt => some (word h.k h.g 33 d a (codeFp8 fmt) 1, none)
  | .pack4 h d a c => some (word h.k h.g 33 d a (codePack4Code c) 2, none)
  | .unpk4 h d a => some (word h.k h.g 33 d a 0 3, none)
  | .scaleBlk h d a c => some (word h.k h.g 33 d a (codeBlkCode c) 4, none)
  | .rmix h d a b => some (word h.k h.g 33 d a b 5, none)
  | .shflIdx h d a b => some (word h.k h.g 34 d a b 0, none)
  | .shflUp h d a b => some (word h.k h.g 34 d a b 1, none)
  | .shflDown h d a b => some (word h.k h.g 34 d a b 2, none)
  | .shflXor h d a b => some (word h.k h.g 34 d a b 3, none)
  | .shflIdxImm h d a imm => some (word h.k h.g 34 d a imm 4, none)
  | .shflUpImm h d a imm => some (word h.k h.g 34 d a imm 5, none)
  | .shflDownImm h d a imm => some (word h.k h.g 34 d a imm 6, none)
  | .shflXorImm h d a imm => some (word h.k h.g 34 d a imm 7, none)
  | .voteAll h d a => some (word h.k h.g 35 (field3 d) (field3 a) 0 0, none)
  | .voteAny h d a => some (word h.k h.g 35 (field3 d) (field3 a) 0 1, none)
  | .voteBal h d a => some (word h.k h.g 35 d (field3 a) 0 2, none)
  | .matchLanes h d a => some (word h.k h.g 35 d a 0 3, none)
  | .red h d a fn => some (word h.k h.g 35 d a (codeRedFn fn) 4, none)
  | .scan h d a c => some (word h.k h.g 35 d a (codeScanCode c) 5, none)
  | .elect h d => some (word h.k h.g 35 (field3 d) 0 0 6, none)
  | .ldReg h sz d a b => some (word h.k h.g 36 d (field4 a) b (codeLdSize sz), none)
  | .ldImm h sz d a imm => some (word h.k h.g 37 d (field4 a) imm (codeLdSize sz), none)
  | .stReg h sz d a b => some (word h.k h.g 38 d (field4 a) b (codeStSize sz), none)
  | .stImm h sz d a imm => some (word h.k h.g 39 d (field4 a) imm (codeStSize sz), none)
  | .ldNt h sz d a b => some (word h.k h.g 40 d (field4 a) b (0#1 ++ codeNtSize sz), none)
  | .stNt h sz d a b => some (word h.k h.g 40 d (field4 a) b (1#1 ++ codeNtSize sz), none)
  | .prfReg h lvl a b => some (word h.k h.g 40 (codePrfLevel lvl) (field4 a) b 3, none)
  | .prfImm h lvl a imm => some (word h.k h.g 40 (codePrfLevel lvl) (field4 a) imm 7, none)
  | .ldsImm h w64 d a imm => some (word h.k h.g 41 d (field4 a) imm (0#2 ++ BitVec.ofBool w64), none)
  | .ldsReg h w64 d a b => some (word h.k h.g 41 d (field4 a) b (1#2 ++ BitVec.ofBool w64), none)
  | .stsImm h w64 d a imm => some (word h.k h.g 41 d (field4 a) imm (2#2 ++ BitVec.ofBool w64), none)
  | .stsReg h w64 d a b => some (word h.k h.g 41 d (field4 a) b (3#2 ++ BitVec.ofBool w64), none)
  | .fence h sc pred succ => some (word h.k h.g 42 pred succ 0 (codeScope sc), none)
  | .barInit h a b => some (word h.k h.g 44 0 (field4 a) b 0, none)
  | .barExp h d a b => some (word h.k h.g 44 d (field4 a) b 1, none)
  | .barArr h a => some (word h.k h.g 44 0 (field4 a) 0 2, none)
  | .barWait h d a b => some (word h.k h.g 44 d (field4 a) (field3 b) 3, none)
  | .barTest h d a b => some (word h.k h.g 44 d (field4 a) (field3 b) 4, none)
  | .barInv h a => some (word h.k h.g 44 0 (field4 a) 0 5, none)
  | .tbar h n => some (word h.k h.g 44 0 (field4 n) 0 6, none)
  | .spawn h d a b => some (word h.k h.g 48 (field3 d) a b 0, none)
  | .rodCfg h a b => some (word h.k h.g 48 0 a (field4 b) 1, none)
  | .rodStrike h a => some (word h.k h.g 48 0 a 0 2, none)
  | .chimeAdd h d a => some (word h.k h.g 48 d a 0 3, none)
  | .chimeSet h d a => some (word h.k h.g 48 d a 0 4, none)
  | .chimeWait h d a => some (word h.k h.g 48 d a 0 5, none)
  | .chimeRd h d a => some (word h.k h.g 48 d a 0 6, none)
  | .qpop h d a wait => some (word h.k h.g 49 d (field4 a) (field1 wait) 0, none)
  | .qdone h d a => some (word h.k h.g 49 d a 0 1, none)
  | .launch h a => some (word h.k h.g 49 0 (field4 a) 0 2, none)
  | .gangPrep h d a => some (word h.k h.g 49 d (field4 a) 0 3, none)
  | .gangCommit h d a => some (word h.k h.g 49 d a 0 4, none)
  | .irq h a => some (word h.k h.g 49 0 a 0 5, none)
  | .preempt h d a b => some (word h.k h.g 49 d a b 6, none)
  | .resume h d a => some (word h.k h.g 49 (field3 d) a 0 7, none)
  | .srd h d sr => some (word h.k h.g 50 d ((codeSReg sr).extractLsb' 6 6) ((codeSReg sr).extractLsb' 0 6) 0, none)
  | .swr h d sr => some (word h.k h.g 50 d ((codeSReg sr).extractLsb' 6 6) ((codeSReg sr).extractLsb' 0 6) 1, none)
  | .eqp h idx => some (word h.k h.g 50 0 (idx.extractLsb' 6 6) (idx.extractLsb' 0 6) 2, none)
  | .migr h => some (word h.k h.g 50 0 0 0 3, none)
  | .trap h code => some (word h.k h.g 50 0 (code.extractLsb' 6 6) (code.extractLsb' 0 6) 4, none)
  | .tret h => some (word h.k h.g 50 0 0 0 5, none)
  | .halt h => some (word h.k h.g 50 0 0 0 6, none)
  | .frecRd h d a => some (word h.k h.g 50 d a 0 7, none)
  | .bkpt h tag => some (word h.k h.g 51 0 (tag.extractLsb' 6 6) (tag.extractLsb' 0 6) 0, none)
  | .rgnEnter h rgn => some (word h.k h.g 51 0 (rgn.extractLsb' 6 6) (rgn.extractLsb' 0 6) 1, none)
  | .rgnLeave h rgn => some (word h.k h.g 51 0 (rgn.extractLsb' 6 6) (rgn.extractLsb' 0 6) 2, none)
  | .traceMark h d => some (word h.k h.g 51 d 0 0 3, none)
  | .ffma h ty d a b c rnd => some (word h.k h.g 56 d a b (0#1 ++ codeFTy ty), some (h.kx ++ c ++ codeRnd rnd ++ 0#21))
  | .ldi h d imm => some (word h.k h.g 57 d 0 0 0, some imm)
  | .smoviX h d imm => some (word h.k h.g 57 d 0 0 1, some imm)
  | .saddX h d a imm => some (word h.k h.g 57 d a 0 2, some imm)
  | .arAdvX h d imm => some (word h.k h.g 57 (field4 d) 0 0 3, some imm)
  | .ldOrdered h d a b ord sc sz => some (word h.k h.g 62 d (field4 a) b 0, some (h.kx ++ 0#6 ++ codeOrder ord ++ codeScope sc ++ codeLdSize sz ++ 0#16))
  | .stOrdered h d a b ord sc sz => some (word h.k h.g 62 d (field4 a) b 1, some (h.kx ++ 0#6 ++ codeOrder ord ++ codeScope sc ++ codeStSize sz ++ 0#16))
  | .amo h d a b c ord sc sz op => some (word h.k h.g 62 d (field4 a) b 2, some (h.kx ++ c ++ codeOrder ord ++ codeScope sc ++ codeAmoSize sz ++ codeAmoOp op ++ 0#12))
  | .lr h d a b ord sc sz => some (word h.k h.g 62 d (field4 a) b 3, some (h.kx ++ 0#6 ++ codeOrder ord ++ codeScope sc ++ codeAmoSize sz ++ 0#16))
  | .sc h d a b c ord scp sz => some (word h.k h.g 62 d (field4 a) b 4, some (h.kx ++ field3 c ++ codeOrder ord ++ codeScope scp ++ codeAmoSize sz ++ 0#16))
  | .xcpIn h d a b c bar => some (word h.k h.g 60 d (field4 a) (field4 b) 0, some (h.kx ++ field4 c ++ bar ++ 0#2 ++ 0#18))
  | .xcpOut h d a b c bar => some (word h.k h.g 60 d (field4 a) (field4 b) 0, some (h.kx ++ field4 c ++ bar ++ 1#2 ++ 0#18))
  | .xcpV h d a b bar => some (word h.k h.g 60 d (field4 a) (field4 b) 1, some (h.kx ++ 0#6 ++ bar ++ 0#20))
  | .xgath h d a b c bar => some (word h.k h.g 60 d (field4 a) (field4 b) 2, some (h.kx ++ field4 c ++ bar ++ 0#20))
  | .xred h d a b c bar ty => some (word h.k h.g 60 d (field4 a) (field4 b) 3, some (h.kx ++ field4 c ++ bar ++ codeXredTy ty ++ 0#17))
  | .mma h ty d a b c bar mM1 row z => some (word h.k h.g 58 (field4 d) (field4 a) b (codeMTy ty), some (h.kx ++ c ++ bar ++ mM1 ++ row ++ BitVec.ofBool z ++ 0#7))
  | .mmas h ty d a b c bar mM1 row z sp => some (word h.k h.g 59 (field4 d) (field4 a) b (codeMTy ty), some (h.kx ++ c ++ bar ++ mM1 ++ row ++ BitVec.ofBool z ++ codeSparsity sp ++ 0#5))
  | .tld h d a b c bar rowsM1 row fmt => some (word h.k h.g 61 (field4 d) (field4 a) b 0, some (h.kx ++ c ++ bar ++ rowsM1 ++ row ++ codeTldFmt fmt ++ 0#5))
  | .tst h d a b c bar rowsM1 row fmt rnd scl => some (word h.k h.g 61 (field4 d) (field4 a) b 1, some (h.kx ++ c ++ bar ++ rowsM1 ++ row ++ codeTstFmt fmt ++ codeRnd rnd ++ codeTstScale scl))
  | .trd h d a b col idx => some (word h.k h.g 61 d (field4 a) b 2, some (h.kx ++ 0#6 ++ BitVec.ofBool col ++ idx ++ 0#15))
  | .twr h d a b col idx => some (word h.k h.g 61 (field4 d) a b 3, some (h.kx ++ 0#6 ++ BitVec.ofBool col ++ idx ++ 0#15))
  | .tscale h d a b rowsM1 row srow mode rnd => some (word h.k h.g 61 (field4 d) a (field4 b) 4, some (h.kx ++ 0#6 ++ rowsM1 ++ row ++ srow ++ codeTScaleMode mode ++ codeRnd rnd ++ 0#1))
  | .tzero h d a rowsM1 row => some (word h.k h.g 61 (field4 d) a 0 5, some (h.kx ++ 0#6 ++ rowsM1 ++ row ++ 0#12))
  | _ => none

/-- The two words an instruction of `nbits` bits in `w` lays down, bit 0 the least significant bit of the first word;
bits above are zero. -/
def tableWords (w : Nat) : BitVec 32 × BitVec 32 := (BitVec.ofNat 32 w, BitVec.ofNat 32 (w / 4294967296))

/-- The instruction the decoder reads from an instruction whose bits are `w` (the host's numbering of the table). -/
def decodeTableWord (nbits w : Nat) : Option Instr :=
  match decode (tableWords (w % 2 ^ nbits)).1 (tableWords (w % 2 ^ nbits)).2 with
  | .ok i => some i
  | .error _ => none

end Sys2Proof
end

