-- ==== Sys2Proof/Machine/Save.lean ====
section
/-! DEFINITION. Context frames (17 R210, R221 to R224; 03 R33): their layout, saving a group and restoring it. -/

namespace Sys2Proof.Machine

/-- The 64 bytes of a fault record as eight words (17 R210). -/
def recWords (r : FaultRec) : List Nat :=
  [r.pc.toNat, r.lanes.toNat, r.addr.toNat, r.opc0.toNat + r.opc1.toNat * 2 ^ 32,
    r.entry.toNat * 2 ^ 6 + r.lane.toNat * 2 ^ 10 + r.info.toNat * 2 ^ 16 + r.res.toNat * 2 ^ 32 + bitNat r.form * 2 ^ 34 +
      bitNat r.eqpv * 2 ^ 35 + r.eqpidx.toNat * 2 ^ 36 + r.code.toNat * 2 ^ 48,
    r.xpc.toNat,
    r.team.toNat + r.group.toNat * 2 ^ 30 + r.core.toNat * 2 ^ 34 + r.rgn0.toNat * 2 ^ 40 + r.rgn1.toNat * 2 ^ 52,
    r.dtime.toNat]

/-- A fault record from its eight words (17 R210). -/
def recOf (w : Nat → Nat) : FaultRec :=
  { dtime := BitVec.ofNat 64 (w 7), rgn1 := fld 12 63 52 (w 6), rgn0 := fld 12 51 40 (w 6), core := fld 6 39 34 (w 6),
    group := fld 4 33 30 (w 6), team := fld 30 29 0 (w 6), xpc := BitVec.ofNat 64 (w 5), code := fld 16 63 48 (w 4),
    eqpidx := fld 12 47 36 (w 4), eqpv := bit (w 4) 35, form := bit (w 4) 34, res := fld 2 33 32 (w 4),
    info := fld 16 31 16 (w 4), lane := fld 6 15 10 (w 4), entry := fld 4 9 6 (w 4), opc1 := fld 32 63 32 (w 3),
    opc0 := fld 32 31 0 (w 3), addr := BitVec.ofNat 64 (w 2), lanes := BitVec.ofNat 64 (w 1), pc := BitVec.ofNat 64 (w 0) }

/-- The 40 bytes of a split-table entry as five words (03 R33). -/
def entWords (j : Nat) (x : Entry) : List Nat :=
  [bitNat x.v + j * 2 ^ 4 + x.parent * 2 ^ 8 + stateCode x.st * 2 ^ 16 + x.dcnt * 2 ^ 38 + x.hold * 2 ^ 51, x.meet.toNat,
    x.pc.toNat, x.act.toNat, x.mask.toNat]

/-- STATE of a code (03 R34). -/
def stateOf (n : Nat) : EState :=
  if n = 1 then .held else if n = 2 then .faulted else if n = 3 then .waiting else if n = 4 then .split
  else if n = 5 then .migrating else .ready

/-- A split-table entry from its five words; the order of issues is kept from `old` (03 R33). -/
def entOf (w : Nat → Nat) (old : Entry) : Entry :=
  { v := bit (w 0) 0, parent := bits (w 0) 11 8, st := stateOf (bits (w 0) 19 16), dcnt := bits (w 0) 50 38,
    hold := bits (w 0) 63 51, meet := BitVec.ofNat 64 (w 1), pc := BitVec.ofNat 64 (w 2), act := BitVec.ofNat 64 (w 3),
    mask := BitVec.ofNat 64 (w 4), last := old.last, busy := false }

/-- An address register as four words, attributes lowest (05 R60). -/
def aregWords (a : AReg) : List Nat :=
  [a.perm.toNat + a.space.toNat * 2 ^ 12, a.limit.toNat, a.base.toNat, a.ptr.toNat]

/-- An address register from its four words. -/
def aregOf (w : Nat → Nat) : AReg :=
  ⟨BitVec.ofNat 64 (w 3), BitVec.ofNat 64 (w 2), BitVec.ofNat 64 (w 1), fld 4 15 12 (w 0), fld 4 3 0 (w 0)⟩

/-- An index register as 16 bits (05 R61). -/
def iregVal (x : IReg) : Nat := x.base.toNat + x.count.toNat * 2 ^ 6

/-- An index register from 16 bits. -/
def iregOf (n : Nat) : IReg := ⟨fld 7 12 6 n, fld 6 5 0 n⟩

/-- The on-chip entries of a call stack as eight words, oldest first (17 R223). -/
def stackWords (st : List StackEnt) : List Nat :=
  (List.range 4).flatMap fun i => match st[i]? with | some x => [x.ra.toNat, x.meet.toNat] | none => [0, 0]

/-- The 96 bytes of a lane as twelve words (17 R223). -/
def laneWords (g : Group) (l : Nat) : List Nat :=
  let x := laneAt g l
  let inAct := g.ents.any fun e => e.v && e.act.getLsbD l
  let wait := isParked x && !isFaulted x && !inAct
  let flt := isFaulted x && !inAct
  [x.pc.toNat, x.meet.toNat] ++ stackWords x.stack ++
    [x.stack.length + bitNat x.exited * 8 + bitNat wait * 16 + bitNat flt * 32 + x.sd.toNat * 2 ^ 32,
      ((List.range 7).map fun r => bitNat (getPl g r l) * 2 ^ r).sum]

/-- The stop kind as 0 to 3 (29 R347). -/
def stopBits (g : Group) : Nat := match g.stopped with | some k => 2 ^ 31 + k % 16 * 2 ^ 32 | none => 0

/-- The region stack as two words: entry j in [12j+11:12j], depth in [99:96] (17 R223). -/
def rgnWords (g : Group) : List Nat :=
  valWords (((List.range 8).map fun j => (g.rgn.getD j 0).toNat * 2 ^ (12 * j)).sum + g.rgn.length * 2 ^ 96) 2

/-- The region stack from its two words. -/
def rgnOf (w0 w1 : Nat) : List (BitVec 12) :=
  let x := w0 + 2 ^ 64 * w1
  (List.range (min 8 (bits x 99 96))).map fun j => fld 12 (12 * j + 11) (12 * j) x

/-- The words of a context frame (17 R223), read with registers at the `.regs` of the running form. -/
def frameWords (s : State) (g : Group) : List Nat :=
  let regs := regsOf g
  let w32 := fun (f : Nat → Nat) n => (List.range (n / 2)).map fun i => f (2 * i) + f (2 * i + 1) * 2 ^ 32
  [1 + bitNat (formL g) * 2 ^ 8 + regs * 2 ^ 9 + g.w * 2 ^ 16 + s.epoch.toNat * 2 ^ 24, g.lt % 2 ^ 48, g.ker.kobj.toNat,
    g.srTeam + g.srGroup * 2 ^ 30 + g.core * 2 ^ 34, g.rmode.toNat + g.tbase.toNat * 2 ^ 32,
    g.frames.length + g.budget.toNat * 2 ^ 32, g.deadline.toNat,
    ((List.range 4).map fun r => iregVal (getI g r) * 2 ^ (16 * r)).sum,
    ((List.range 4).map fun r => bitNat (getQ g r) * 2 ^ r).sum +
      (match g.eqp with | some x => x.toNat * 2 ^ 16 + 2 ^ 28 | none => 0) + bitNat g.migReq * 2 ^ 29 +
      bitNat g.budgetPend * 2 ^ 30 + stopBits g] ++ rgnWords g ++ ((List.range 8).map fun i => mapGet 0 g.stalls i) ++
    List.replicate 13 0 ++ ((List.range 16).flatMap fun j => entWords j (entAt g j)) ++
    ((List.range 4).flatMap fun k => match g.frames[k]? with | some f => recWords f.fr | none => List.replicate 8 0) ++
    ((List.range 4).flatMap fun k => match g.frames[k]? with
      | some f => [f.h.toNat, f.pc.toNat, f.meet.toNat, f.fr.entry.toNat + f.fr.res.toNat * 2 ^ 8]
      | none => [0, 0, 0, 0]) ++
    w32 (fun r => (getS g r).toNat) 64 ++ ((List.range 16).flatMap fun r => aregWords (getA g r)) ++
    ((List.range g.w).flatMap fun l => laneWords g l) ++ w32 (fun i => (getV g (i / g.w) (i % g.w)).toNat) (regs * g.w)

/-- Half of a frame word as a 32-bit value: `i` counts 32-bit words. -/
def half (f : Nat → Nat) (i : Nat) : W32 := BitVec.ofNat 32 (f (i / 2) / 2 ^ (32 * (i % 2)))

/-- Build a map from the keys below `n`. -/
def mapOfFn {α : Type} [DecidableEq α] (d : α) (n : Nat) (f : Nat → α) : Assoc α :=
  (List.range n).filterMap fun i => if f i = d then none else some (i, f i)

/-- A restored lane: what the frame holds, with the wait or fault the lane is parked on kept (17 R223, R228). -/
def laneOf (f : Nat → Nat) (old : Lane) : Lane :=
  let cnt := min 4 (bits (f 10) 2 0)
  { pc := BitVec.ofNat 64 (f 0), meet := BitVec.ofNat 64 (f 1)
    stack := (List.range cnt).map fun i => ⟨BitVec.ofNat 64 (f (2 + 2 * i)), BitVec.ofNat 64 (f (3 + 2 * i))⟩
    sd := BitVec.ofNat 32 (f 10 / 2 ^ 32), exited := bit (f 10) 3, held := old.held, park := old.park, denied := old.denied
    dbg := old.dbg }

/-- A group as the words of its frame give it; what no frame holds is kept from the group that was saved
(17 R222, R223). lt loses 2^46 for each rebase since the save (13 R166). -/
def groupOfFrame (s : State) (old : Group) (f : Nat → Nat) : Group :=
  let w := old.w
  let regs := bits (f 0) 15 9
  let at_ := fun (b : Nat) (i : Nat) => f (b / 8 + i)
  let depth := min 4 (bits (f 5) 31 0)
  let drop := (s.epoch.toNat + 65536 - bits (f 0) 39 24) % 65536
  { old with
    lt := bits (f 1) 47 0 - drop * 2 ^ 46
    ker := { old.ker with kobj := BitVec.ofNat 64 (f 2) }
    srGroup := bits (f 3) 33 30, srTeam := bits (f 3) 29 0
    rmode := half f 8 &&& rmodeMask, tbase := half f 9 &&& tbaseMask, budget := half f 11, deadline := BitVec.ofNat 64 (f 6)
    i := mapOfFn iregZero 4 fun r => iregOf (bits (f 7) (16 * r + 15) (16 * r))
    q := mapOfFn false 4 fun r => bit (f 8) r
    eqp := if bit (f 8) 28 then some (fld 12 27 16 (f 8)) else none
    migReq := bit (f 8) 29, budgetPend := bit (f 8) 30
    stopped := if bit (f 8) 31 then some (bits (f 8) 35 32) else none
    rgn := rgnOf (f 9) (f 10)
    stalls := mapOfFn 0 8 fun j => f (11 + j)
    ents := (List.range 16).map fun j => entOf (at_ (256 + 40 * j)) (entAt old j)
    frames := (List.range depth).map fun k =>
      let h := at_ (1152 + 32 * k)
      ⟨recOf (at_ (896 + 64 * k)), BitVec.ofNat 64 (h 0), BitVec.ofNat 64 (h 1), BitVec.ofNat 64 (h 2)⟩
    s := mapOfFn 0 64 fun r => half (at_ 1280) r
    a := mapOfFn aregZero 16 fun r => aregOf (at_ (1536 + 32 * r))
    lanes := (List.range w).map fun l => laneOf (at_ (2048 + 96 * l)) (laneAt old l)
    p := mapOfFn 0 7 fun r => maskWhere w fun l => bit (at_ (2048 + 96 * l) 11) r
    v := (List.range (regs * w)).foldl (fun m i => mapPut 0 m (64 * (i / w) + i % w) (half (at_ (2048 + 96 * w)) i)) []
    released := 0, flights := [] }

/-- The lowest free slot of a save pool below `n`, by its bitmap (21 R265). -/
def poolFree (s : State) (map n : Nat) : Nat → Option Nat
  | 0 => none
  | k + 1 =>
    let i := n - (k + 1)
    if bit (memRead s 0 (map + i / 8) 1) (i % 8) then poolFree s map n k else some i

/-- SPMAP of a context (21 R265): bits [351:288] of its descriptor. -/
def spMap (s : State) (c : BitVec 20) : Nat := ctxWord s c 4 / 2 ^ 32 + ctxWord s c 5 % 2 ^ 32 * 2 ^ 32

/-- SPCOUNT of a context (21 R265): bits [383:352]. -/
def spCount (s : State) (c : BitVec 20) : Nat := ctxWord s c 5 / 2 ^ 32

/-- Set or clear a bit of a save pool's bitmap (21 R265). -/
def poolMark (s : State) (c : BitVec 20) (i : Nat) (b : Bool) : State :=
  let a := spMap s c + i / 8
  let x := memRead s 0 a 1
  let y := if b then x ||| 2 ^ (i % 8) else x &&& (255 - 2 ^ (i % 8))
  (physStore s 0 a 1 y 0).1

/-- Address of a slot of a context's save pool (21 R265). -/
def spSlot (s : State) (c : BitVec 20) (k : Nat) : Nat := ctxWord s c 6 + 24576 * k

/-- A free slot of a context's save pool (17 R223). -/
def spFree (s : State) (c : BitVec 20) : Option Nat := poolFree s (spMap s c) (spCount s c) (spCount s c)

/-- The outstanding result belongs to a wait of a lane, and returns when that ends (17 R221). -/
def ofWait (g : Group) (p : Pend) : Bool :=
  p.val.isNone && waitingOn g (fun w => waitTok w == p.own && (waitDests w).contains p.dst) != 0

/-- Every access, result and check the group waits for has come, but for the results of waits: it can be saved (17 R222 step 2). -/
def savable (s : State) (g : Group) : Bool :=
  isResident g && !g.front && g.stopReq.isNone && g.pend.all (ofWait g) && !(s.accs.any fun a => a.gid == g.gid && a.ent < 16) &&
    !(g.ents.any fun e => e.v && (e.busy || e.st == .migrating))

/-- A running bias command holds the byte of a save pool's bitmap that slot `k` has (25 R324). -/
def poolHeld (s : State) (c : BitVec 20) (k : Nat) : Bool := biasHeld s (lineOf (spMap s c + k / 8))

/-- A running bias command holds what a save of a group writes (25 R324). -/
def saveHeld (s : State) (g : Group) : Bool :=
  match spFree s g.pasid with
  | some k => poolHeld s g.pasid k || wordsHeld s (spSlot s g.pasid k) 3072
  | none => false

/-- Save a group into a free slot of its context's pool; its slot of the core is freed (17 R222). `why` says how it comes
back. None when no slot of the pool is free. Released registers are saved as 0 (23 R303). -/
def saveGroup (s : State) (g : Group) (why : Nat → Residency) : Option State :=
  match spFree s g.pasid with
  | none => none
  | some k =>
    let zeroed := (List.range 64).foldl (fun g r =>
      if g.released.getLsbD r then (List.range g.w).foldl (fun g l => setV g r l 0) g else g) g
    let s := loseResv s g.gid (fullMask 64)
    let (s, _) := devWriteWords s (pasidKey s g.pasid) (spSlot s g.pasid k) (frameWords s zeroed)
    let s := poolMark s g.pasid k true
    some (preemptCheck (setGroup s { zeroed with res := why k, released := 0 }))

/-- An uncorrectable error lies in the frame (17 R222). -/
def framePoisoned (s : State) (a : Nat) : Bool :=
  (List.range 192).any fun i => s.poison.contains (lineOf a + i)

/-- Restore a saved group from slot `k` of its pool into resident slot `slot` of `core` (17 R222, R224). Waits that ended
while it was saved complete now (R221). -/
def restoreGroup (s : State) (g : Group) (k core slot : Nat) : State :=
  let a := spSlot s g.pasid k
  if framePoisoned s a then teardown (poolMark s g.pasid k false) g.pasid 0x0601 0
  else
    let key := pasidKey s g.pasid
    let g' := groupOfFrame s g fun i => memRead s key (a + 8 * i) 8
    let s := poolMark s g.pasid k false
    let g' := tidy (completeSatisfied { g' with res := .resident slot, core := core })
    let s := setGroup s g'
    flow s { g' with ents := [] } g' none

end Sys2Proof.Machine
end

