-- ==== Sys2Proof/Machine/Stall.lean ====
section
/-! DEFINITION. What a group waits for in a cycle in which it issues nothing, and the stall counter that cycle adds to (29 R357). -/

namespace Sys2Proof.Machine

/-- The access has not ended. -/
def accOpen (a : Acc) : Bool :=
  match a.st with
  | .done .. => false
  | .failed .. => false
  | _ => true

/-- The order has its release half. -/
def isRel : Order → Bool
  | .rel => true
  | .ar => true
  | _ => false

/-- The order has its acquire half. -/
def isAcq : Order → Bool
  | .acq => true
  | .ar => true
  | _ => false

/-- The entry of a group that is MIGRATING (23 R309). -/
def migEntry (g : Group) : Option Nat := (List.range 16).find? fun e => (entAt g e).v && (entAt g e).st == .migrating

/-- The matrix queue of a core, oldest first (19 R248). -/
def queueOf (s : State) (core : Nat) : List MatOp := mapGet [] s.mq core

/-- A READY entry of the group stands before an instruction that satisfies `f` (29 R357). -/
def nextIs (s : State) (g : Group) (f : Instr → Bool) : Bool :=
  (List.range 16).any fun e => entReady g e && !(entAt g e).busy &&
    match peek s g.pasid (entAt g e).pc.toNat 4, peek s g.pasid ((entAt g e).pc.toNat + 4) 4 with
    | some a, some b =>
      match decode (BitVec.ofNat 32 a) (BitVec.ofNat 32 b) with
      | .ok i => f i
      | .error _ => false
    | _, _ => false

/-- The instruction enters the matrix queue (19 R248). -/
def isMatrix : Instr → Bool
  | .mma .. => true
  | .mmas .. => true
  | .tld .. => true
  | .tst .. => true
  | .trd .. => true
  | .twr .. => true
  | .tscale .. => true
  | .tzero .. => true
  | _ => false

/-- The instruction waits for the answers to its group's remote stores: it releases at .sys, or forks a thread of its own (13 R172, R179). -/
def isSysRelease : Instr → Bool
  | .fence _ sc pred _ => sc == .sys && pred.getLsbD 1
  | .stOrdered _ _ _ _ ord sc _ => sc == .sys && isRel ord
  | .amo _ _ _ _ _ ord sc _ _ => sc == .sys && isRel ord
  | .sc _ _ _ _ _ ord sc _ => sc == .sys && isRel ord
  | .xcpIn .. => true
  | .xcpOut .. => true
  | .xcpV .. => true
  | .xgath .. => true
  | .xred .. => true
  | _ => false

/-- The open accesses an instruction of the group waits for. -/
def openAccs (s : State) (gid : Nat) : List Acc := s.accs.filter fun a => a.gid == gid && a.ent < 16 && accOpen a

/-- Remote stores of a group are still waiting for their answer (13 R172). -/
def remoteWaits (s : State) (gid : Nat) : Bool :=
  s.accs.any fun a => a.gid == gid && a.ent == 16 && match a.place with | .remote _ _ => true | _ => false

/-- The access is served by the near vault (29 R357). -/
def nearAcc (a : Acc) : Bool := match a.place with | .vault k => k / Config.vaultSize == a.core | _ => false

/-- The next instruction of the group waits for the matrix queue: an entry for its tile read, or for a place in a full queue
(29 R357). -/
def matrixWait (s : State) (g : Group) : Bool :=
  ((queueOf s g.core).any fun o => o.gid == g.gid && (entAt g o.ent).busy && match o.kind with | .trd .. => true | _ => false) ||
    (32 ≤ (queueOf s g.core).length && nextIs s g isMatrix)

/-- The group waits for an access served beyond its L1 and near vault: one of its instruction's, or a remote store that its next
instruction waits for; or an entry is FAULTED (29 R357). -/
def farWait (s : State) (g : Group) : Bool :=
  (openAccs s g.gid).any (fun a => !nearAcc a) || g.ents.any (fun x => x.v && x.st == .faulted) ||
    (remoteWaits s g.gid && nextIs s g isSysRelease)

/-- The counter a cycle without an issue adds to (29 R357; 23 R314); `own` is the counter of what an instruction that could not go on
in the cycle waits for. Whether a READY entry waits on a fixed-latency result is the device's timing, a free choice (assumption 2). -/
def stallClass (s : State) (g : Group) (own : Option Nat) : Nat × State :=
  let waits := fun (f : Wait → Bool) => waitingOn g f != 0
  if (migEntry g).isSome || g.arriving then (7, s)
  else if waits fun w => match w with | .bar .. => true | .tbar _ => true | _ => false then (3, s)
  else if waits fun w => match w with | .chime .. => true | .cell _ => true | .qpop .. => true | .qdone .. => true | _ => false then (4, s)
  else if own = some 5 || matrixWait s g then (5, s)
  else if own = some 2 || farWait s g then (2, s)
  else if own = some 1 || !(openAccs s g.gid).isEmpty then (1, s)
  else if own.isNone && (List.range 16).any fun e => entReady g e then
    let (b, s) := drawBit s
    (if b then 0 else 6, s)
  else (6, s)

/-- A cycle in which a group issues nothing is counted (29 R357). -/
def stallAdd (s : State) (gid : Nat) (own : Option Nat) : State :=
  match getGroup s gid with
  | none => s
  | some g =>
    let (k, s) := stallClass s g own
    setGroup s { g with stalls := mapPut 0 g.stalls k (min (mapGet 0 g.stalls k + 1) (2 ^ 64 - 1)) }

end Sys2Proof.Machine
end

