-- ==== Sys2Proof/Machine/Ops.lean ====
section
/-! DEFINITION. What every instruction shares: the issue of an instruction (05 R65, R74, R75), reads under pending and released
registers (03 R49, R51), causes of traps and their order (17 R209), page faults (03 R52, R53; 17 R227), taking a trap and
returning from one (17 R210 to R214, R218; 29 R347), retirement and parking (03 R373). -/

namespace Sys2Proof.Machine

/-- The answer of a meaning. -/
abbrev Res := Host.Outcome State Fault Refusal

/-- What an instruction sees when it issues: the state, its group as it is written (`g`) and as it is read (`r`), the
entry, ACT and the active lanes, its words, what an early register release may raise, the issue it belongs to, the lane registers
it writes through an index register, and the causes it has found in lanes while the accesses of other lanes were sent (09 R103; 17 R209). -/
structure Ctx where
  i : Instr
  s : State
  g : Group
  r : Group
  e : Nat
  act : W64
  on : W64
  pc : W64
  nxt : W64
  w0 : W32
  w1 : W32
  hint : W64
  tok : Nat
  wr : List Nat
  cs : List (Nat × Cause)
deriving DecidableEq, Repr

/-- ENC_ILLEGAL (17 R209 position 1). -/
def causeEnc : Cause := ⟨1, 0x0101, 0, 0, none⟩
/-- PRIV. -/
def causePriv : Cause := ⟨2, 0x0102, 0, 0, none⟩
/-- CONV with its INFO (17 R211). -/
def causeConv (info : BitVec 16) : Cause := ⟨3, 0x0201, info, 0, none⟩
/-- ALIGN. -/
def causeAlign (a : W64) : Cause := ⟨4, 0x0301, 0, a, none⟩
/-- BOUNDS. -/
def causeBounds (a : W64) : Cause := ⟨5, 0x0302, 0, a, none⟩
/-- PERM from an address register, a space, ownership or a root-only register. -/
def causePerm (a : W64) : Cause := ⟨6, 0x0304, 0, a, none⟩
/-- PAGE. -/
def causePage (f : PageFault) (a : W64) : Cause := ⟨7, 0x0303, 0, a, some f⟩
/-- PERM from translation with its INFO (17 R211). -/
def causeXlat (info : BitVec 16) (a : W64) : Cause := ⟨8, 0x0304, info, a, none⟩
/-- WATCH. -/
def causeWatch (a : W64) : Cause := ⟨9, 0x0401, 0, a, none⟩
/-- STACK. -/
def causeStack : Cause := ⟨10, 0x0202, 0, 0, none⟩
/-- HINT_MISUSE. -/
def causeHint : Cause := ⟨11, 0x0103, 0, 0, none⟩
/-- ECC with its INFO (17 R211). -/
def causeEcc (info : BitVec 16) (a : W64) : Cause := ⟨12, 0x0601, info, a, none⟩
/-- REMOTE. -/
def causeRemote (a : W64) : Cause := ⟨13, 0x0602, 0, a, none⟩
/-- BIND. -/
def causeBind : Cause := ⟨14, 0x0502, 0, 0, none⟩
/-- MIGR_FAIL. -/
def causeMigr : Cause := ⟨15, 0x0503, 0, 0, none⟩
/-- BKPT with its tag. -/
def causeBkpt (tag : BitVec 16) : Cause := ⟨16, 0x0402, tag, 0, none⟩
/-- SWTRAP with its code. -/
def causeSw (code : BitVec 16) : Cause := ⟨17, 0x0203, code, 0, none⟩
/-- BUDGET. -/
def causeBudget : Cause := ⟨18, 0x0501, 0, 0, none⟩

/-- Resume kind of a code (17 R208): 1 next, 2 retry with debug suppressed, else retry. -/
def resumeKind (code : BitVec 16) : BitVec 2 :=
  if code = 0x0203 ∨ code = 0x0402 ∨ code = 0x0503 then 1 else if code = 0x0401 then 2 else 0

/-- The last equivalence point as records carry it: valid, index, address in the other form's image
(17 R212; 23 R308). -/
def eqpInfo (s : State) (g : Group) : Bool × BitVec 12 × W64 :=
  match g.eqp with
  | none => (false, 0, 0)
  | some x =>
    match eqpFind s g.pasid g.ker.kobj.toNat x.toNat with
    | none => (false, 0, 0)
    | some r =>
      (true, x, if formL g then g.ker.ibD + BitVec.ofNat 64 r.daddr else g.ker.ibL + BitVec.ofNat 64 r.laddr)

/-- A fault record (17 R210, R211). -/
def mkRec (s : State) (g : Group) (e : Nat) (pc : W64) (w0 w1 : W32) (code : BitVec 16) (info : BitVec 16) (lanes : W64)
    (addr : W64) : FaultRec :=
  let (v, idx, xpc) := eqpInfo s g
  { dtime := dtime s (dieOf g.core), rgn1 := rgn1 g, rgn0 := rgn0 g, core := BitVec.ofNat 6 g.core
    group := BitVec.ofNat 4 g.srGroup, team := BitVec.ofNat 30 g.srTeam, xpc := xpc, code := code, eqpidx := idx, eqpv := v
    form := formL g, res := resumeKind code, info := info, lane := BitVec.ofNat 6 ((lowestLane 64 lanes).getD 0)
    entry := BitVec.ofNat 4 e, opc1 := w1, opc0 := w0, addr := addr, lanes := lanes, pc := pc }

/-- The handler's address in the running image, if sr.tbase enables one and names a point (09 R131; 17 R213). A record with V = 0 counts as a
point that HIDX names, and in a table that cannot be read HIDX names none (DESIGN CHOICE, unsafe; assumption 95). -/
def handlerAddr (s : State) (g : Group) : Option W64 :=
  if g.tbase.getLsbD 31 then
    match eqpFind s g.pasid g.ker.kobj.toNat (g.tbase.toNat % 4096) with
    | some r => some (if formL g then g.ker.ibL + BitVec.ofNat 64 r.laddr else g.ker.ibD + BitVec.ofNat 64 r.daddr)
    | none => none
  else none

/-- A stop record leaves for its ring, or waits for room there (29 R348). -/
def writeStop (s : State) (k : Nat) (r : StopRec) : State :=
  let tail := regField s (offDbgatt k) 31 24
  let a := (regGet s (offDbgatt k + 8)).toNat + 128 * (tail % 64)
  let (s, t) := devWriteWords s 0 a
    (recWords r.fr ++ [r.slot + r.kind * 2 ^ 8 + r.pasid.toNat * 2 ^ 20] ++ List.replicate 7 0)
  let s := regSetField s (offDbgatt k) 31 24 ((tail + 1) % 256)
  chimeDevice s 0 (regField s (offDbgatt k) 43 32) 1 t

/-- The stop ring of a slot has room, and no bias command holds the place of the next record (25 R324; 29 R348). -/
def stopRoom (s : State) (k : Nat) : Bool :=
  (regField s (offDbgatt k) 31 24 + 256 - regField s (offDbgatt k) 23 16) % 256 != 64 &&
    !wordsHeld s ((regGet s (offDbgatt k + 8)).toNat + 128 * (regField s (offDbgatt k) 31 24 % 64)) 16

/-- The entry whose ACT holds the lowest of some lanes, else the lowest in use. -/
def holderOf (g : Group) (m : W64) : Nat :=
  (((lowestLane g.w m).bind fun l => (List.range 16).find? fun e => (entAt g e).v && (entAt g e).act.getLsbD l).or
    ((List.range 16).find? fun e => (entAt g e).v)).getD 0

/-- The stop record of a group that stops between instructions (29 R348): CODE 0, PC and LANES of the stopping entry. -/
def stopRec (s : State) (g : Group) (e : Nat) : FaultRec :=
  mkRec s g e (entAt g e).pc 0 0 0 0 (entAt g e).act 0

/-- Loads and results that a stop awaits are outstanding (29 R348 step 2). -/
def stopAwaits (g : Group) : Bool := (g.ents.any fun x => x.v && x.busy) || !(g.pend.all fun p => p.val.isSome || ofWait g p)

/-- A stop goes on: while loads or results are outstanding the group only no longer issues; then it is stopped, and a stop record is
written for the slot that serves its context (29 R347, R348). -/
def stopNow (s : State) (g0 g : Group) : State :=
  match (if stopAwaits g || liveMask g = 0 then none else g.stopReq) with
  | none => commit s g0 g none
  | some q =>
    let s := commit s g0 { landAll g with stopped := some q.kind, stopReq := none, stopLanes := q.lanes } none
    match debugSlot s g.pasid with
    | none => s
    | some k =>
      let r : StopRec := ⟨q.fr.getD (stopRec s g (holderOf g q.lanes)), slotOf g, q.kind, g.pasid⟩
      if stopRoom s k && !(s.stopQ.any fun q => q.1 == k) then writeStop s k r else { s with stopQ := s.stopQ ++ [(k, r)] }

/-- A group reaches a stop between instructions, in the entry that holds some lanes (29 R347, R348). -/
def stopAt (s : State) (g : Group) (m : W64) (kind : Nat) : State :=
  stopNow s g { g with halt := false, stopReq := some ⟨kind, none, m⟩ }

/-- A debug slot stops this context's groups on WATCH and BKPT (29 R344, R347). -/
def debugStops (s : State) (pasid : BitVec 20) : Bool :=
  match debugSlot s pasid with
  | some k => regField s (offDbgatt k) 1 1 == 1
  | none => false

/-- The instruction of entry `e` has reached its core's issue selector (29 R355): it is counted once, one of each run is tagged, and its
fetch time is kept until it leaves the core. -/
def reach (s : State) (g : Group) (e : Nat) : State :=
  let r := offPrfctl g.core
  let k := 16 * g.gid + e
  if regField s r 1 1 == 1 && regField s r 63 44 == g.pasid.toNat && mapGet 0 s.tags k == 0 then
    let run := 2 ^ (regField s r 39 36 + 8)
    let n := mapGet 0 s.sampleCnt g.core
    let (pick, s) := if n = 0 then drawNat s else (mapGet 0 s.samplePick g.core, s)
    { s with sampleCnt := mapPut 0 s.sampleCnt g.core ((n + 1) % run)
             samplePick := mapPut 0 s.samplePick g.core (pick % run)
             tags := mapPut 0 s.tags k (1 + bitNat (n == pick % run) + 2 * (dtime s (dieOf g.core)).toNat) }
  else s

/-- The memory levels a sample may give for an access of a core at a place (29 R356): its own vault or another, the L1, the L2 or HBM,
another device, the host; none for a register. -/
def levelsOf (core : Nat) : Place → List Nat
  | .vault key => [if key / Config.vaultSize = core then 2 else 3]
  | .mem pa => if inRegs pa then [] else [1, 4, 5]
  | .remote _ _ => [6]
  | .host _ => [7]

/-- The memory levels of what a unit reads or writes at home or at a host port: a chime, a ring, a table (29 R356). -/
def unitLevels : List Nat := [4, 5, 7]

/-- The memory levels of the records LAUNCH, ROD.CFG and GANG.PREP read, wherever they lie (29 R356). -/
def recordLevels : List Nat := [1, 2, 3, 4, 5, 6, 7]

/-- The memory levels of what a wait has looked at as it begins (29 R356). -/
def waitLevels (core : Nat) : Wait → List Nat
  | .bar key _ _ _ _ => levelsOf core (.vault key)
  | .chime _ _ _ => unitLevels
  | .qdone .. => unitLevels
  | .gangPrep .. => recordLevels
  | _ => []

/-- The instruction of entry `e` leaves the core: a sample record if it was tagged, with its fetch time (29 R356). Outcome: 0 retired, 1
discarded, 2 trapped. The latencies are free, and 0 for the stages that an instruction that does not retire has not reached; the memory
level is free among those of the places it has accessed, `mem`, and 0 without one (assumption 2). -/
def sample (s : State) (g : Group) (e : Nat) (pc act : W64) (mem : List Nat) (outcome : Nat) : State :=
  match mapGet 0 s.tags (16 * g.gid + e) with
  | 0 => s
  | t + 1 =>
    let s := { s with tags := mapPut 0 s.tags (16 * g.gid + e) 0 }
    if t % 2 = 0 then s
    else
      let (l0, s) := drawWord s
      let (l1, s) := drawWord s
      let (n, s) := drawNat s
      let (lv, s) := drawNat s
      let lat := (l0.toNat + l1.toNat * 2 ^ 64) % 2 ^ (32 * if outcome = 0 then 4 else n % 4)
      profRec s g.core [1 + g.core * 2 ^ 8 + slotOf g * 2 ^ 16 + e * 2 ^ 24 +
          (bitNat (formL g) + outcome * 2 + mem.getD (lv % mem.length) 0 * 16) * 2 ^ 32,
        pc.toNat, t / 2, lat % 2 ^ 64, lat / 2 ^ 64, act.toNat,
        (rgn0 g).toNat + (rgn1 g).toNat * 2 ^ 16 + g.pasid.toNat * 2 ^ 32, 0]

/-- TAKING A TRAP other than PAGE (17 R213). The frame holds the record, the ACT lanes, their PC and MEET; those lanes go on
at the handler with MEET NONE. Without a handler or with four frames in use the context ends (03 R55; 17 R218). WATCH
and BKPT stop the group instead while a debugger asks for it (29 R347). -/
def takeTrap (s : State) (g0 g : Group) (e : Nat) (pc : W64) (w0 w1 : W32) (code info : BitVec 16) (lanes addr : W64) :
    State :=
  let r := mkRec s g e pc w0 w1 code info lanes addr
  let act := (entAt g e).act
  let s := sample s g e pc act [] 2
  let g := updLanes g act fun _ x => { x with denied := none, dbg := false }
  if (code = 0x0401 ∨ code = 0x0402) && debugStops s g.pasid then
    stopNow s g0 { g with stopReq := some ⟨if code = 0x0402 then 0 else 1, some r, act⟩ }
  else
    match handlerAddr s g with
    | none => teardown (setGroup s g) g.pasid code pc
    | some h =>
      if 4 ≤ g.frames.length then teardown (setGroup s g) g.pasid code pc
      else
        let x := entAt g e
        let f : Frame := ⟨r, act, pc, x.meet⟩
        let g := updLanes g act fun _ x => { x with pc := h, meet := Config.none64 }
        let g := setEnt { g with frames := g.frames ++ [f] } e { x with pc := h, meet := Config.none64 }
        commit s g0 g none

/-- The access kinds of a report: read, write, engine and fetch in bits 0 to 3 (17 R226). -/
abbrev AccKind := BitVec 4

/-- Lanes `m` of entry `e` park on the pages `f` gives them, as the child or entry `e'` that the report names, with one
parked-group entry and one page entry for each distinct page (17 R227, R229). The lanes among them that `free` selects have not faulted
themselves: they wait for the pages of the others, and no refusal of these reaches them (03 R53; 17 R228). -/
def parkOnPages (s : State) (g0 g : Group) (e' : Nat) (pc addr : W64) (m free : W64) (acc : AccKind)
    (f : Nat → PageFault) : State :=
  let die := dieOf g.core
  let n := (lanesOf g.w m).length
  let s := if batchTakes s die then addReport s die
      { report0 2 with a := pc, b := addr, pasid := g.pasid, count := BitVec.ofNat 32 n, core := BitVec.ofNat 6 g.core,
                       slot := BitVec.ofNat 6 (slotOf g), entry := BitVec.ofNat 4 e', acc := acc } else s
  let pages := dedup ((lanesOf g.w (m &&& ~~~ free)).map f)
  let (s, noted) := pages.foldl (fun (x : State × List PageFault) p =>
    if batchTakes x.1 die then (addReport x.1 die (pageReport p acc), p :: x.2) else x) (s, [])
  let g := parkLanes g m fun l => .faulted { f l with recorded := noted.contains (f l) } (free.getLsbD l)
  commit s g0 (tidy g) none

/-- The lowest rank among the causes of lanes. -/
def minRank (cs : List (Nat × Cause)) : Option Nat := minList (cs.map fun x => x.2.rank)

/-- The issuing entry, marked busy while the faulting lanes of its instruction leave, so that its other lanes, which have not retired, are
in no position to join an entry or be joined (03 R39, R52; 09 R105, R106). -/
def markBusy (g : Group) (e : Nat) (b : Bool) : Group := setEnt g e { entAt g e with busy := b }

/-- PAGE is the first cause (03 R52, R53; 17 R209): the faulting lanes leave in a fault child and the rest go on with `k`;
or the whole entry parks when all its ACT lanes fault or no entry is free. -/
def splitPages (c : Ctx) (cs : List (Nat × Cause)) (acc : AccKind) (k : Ctx → State) : State :=
  let pg := cs.filter fun x => x.2.rank == 7
  let m := maskOf (pg.map (·.1))
  let f := fun l => ((pg.find? fun x => x.1 == l).bind fun x => x.2.page).getD
    (((pg.head?).bind fun x => x.2.page).getD ⟨c.g.pasid, 0, false, false, false⟩)
  let addr := ((pg.head?).map fun x => x.2.addr).getD 0
  let whole := fun (m : W64) => parkOnPages (sample c.s c.g c.e c.pc c.act [] 1) c.g c.g c.e c.pc addr m (c.act &&& ~~~ maskOf (pg.map (·.1))) acc f
  if m = c.act then whole m
  else
    match faultChild c.g c.e m with
    | none => whole c.act
    | some g =>
      let child := (freeEnts c.g).headD 0
      let s := parkOnPages c.s c.g (markBusy g c.e true) child c.pc addr m 0 acc f
      match getGroup s c.g.gid with
      | none => s
      | some g => k { c with s := s, g := markBusy g c.e false, act := c.act &&& ~~~ m, on := c.on &&& ~~~ m }

/-- Report the causes of an instruction, or go on with `k` when there is none (17 R209). `cs` gives at most one cause for
each lane, its first; a second round follows a page fault for the lanes that did not fault. `all` reports for every ACT
lane (a Q-class instruction). -/
def orTrap (c : Ctx) (acc : AccKind) (cs : List (Nat × Cause)) (k : Ctx → State) : State :=
  let hints := (lanesOf c.g.w (c.hint &&& c.act)).map fun l => (l, causeHint)
  let go := fun (c : Ctx) (cs : List (Nat × Cause)) (k : Ctx → State) =>
    match minRank cs with
    | none => k c
    | some r =>
      let cs' := cs.filter fun x => x.2.rank == r
      let m := maskOf (cs'.map (·.1))
      match cs'.find? fun x => some x.1 == lowestLane c.g.w m with
      | none => k c
      | some (_, x) => takeTrap c.s c.g c.g c.e c.pc c.w0 c.w1 x.code x.info m x.addr
  let all := cs ++ hints
  if minRank all = some 7 then
    splitPages c all acc fun c' => go c' (all.filter fun x => x.2.rank != 7 && c'.act.getLsbD x.1) k
  else go c all k

/-- The same cause in every ACT lane, as a Q-class instruction raises it. -/
def onAct (c : Ctx) (x : Cause) : List (Nat × Cause) := (lanesOf c.g.w c.act).map fun l => (l, x)

/-- The same cause in every active lane. -/
def onActive (c : Ctx) (x : Cause) : List (Nat × Cause) := (lanesOf c.g.w c.on).map fun l => (l, x)

/-- Trap with one cause in the lanes of a mask. -/
def trapWith (c : Ctx) (m : W64) (x : Cause) : State := orTrap c 0 ((lanesOf c.g.w m).map fun l => (l, x)) fun c => c.s

/-- The vector run of TRD and TWR: registers at D for TRD and at A for TWR, one for each W lanes of a slice (19 R260). -/
def tileRun (w : Nat) (i : Instr) : Option (Nat × Nat) :=
  let n := fun (col : Bool) => if col then (64 + w - 1) / w else 256 / w
  match i with
  | .trd _ d _ _ col _ => some (d.toNat, n col)
  | .twr _ _ a _ col _ => some (a.toNat, n col)
  | _ => none

/-- The vector operands of an instruction in a group of width `w`: TRD and TWR use their whole run (19 R260). -/
def laneUses (w : Nat) (i : Instr) : List VUse :=
  match tileRun w i with
  | some (_, n) => (vUses i).map fun u => { u with n := n }
  | none => vUses i

/-- The registers named by a field whose container bit promises a last use: KA, KB and KC (05 R70, R71). -/
def hintRegs (w : Nat) (i : Instr) : List Nat :=
  let k := containerOf i
  let on : Fld → Bool := fun f =>
    match f with
    | .a => k.getLsbD 1
    | .b => k.getLsbD 0
    | .c => (kxOf i).elim false fun x => x.getLsbD 1
    | .d => false
  (laneUses w i).flatMap fun u => if on u.fld && u.rd then (List.range u.n).map (u.r + ·) else []

/-- The vector registers an instruction reads. -/
def readRegs (w : Nat) (i : Instr) : List Nat :=
  (laneUses w i).flatMap fun u => if u.rd then (List.range u.n).map (u.r + ·) else []

/-- The vector registers an instruction writes. -/
def writeRegs (w : Nat) (i : Instr) : List Nat :=
  (laneUses w i).flatMap fun u => if u.wr then (List.range u.n).map (u.r + ·) else []

/-- The group as an instruction reads it on a D-core: each outstanding result that has returned may or may not have been written
(03 R49). -/
def pendView (s : State) (g : Group) : Group × State :=
  if g.pend.isEmpty then (g, s)
  else g.pend.foldl (fun (x : Group × State) p =>
    if p.val.isNone then x
    else
      let (b, s) := drawBit x.2
      (if b then landPend x.1 p else x.1, s)) (g, s)

/-- The instructions whose own rules leave HINT_MISUSE out of the traps they raise: branches, integer words, compares and selects
(09 R113, R132), floating, conversion and cross-lane words (11 R133, R151), memory and engine words (15 R207), matrix words (19 R264),
SPAWN (21 R298). For them the device takes the other outcome of R51, the value last written (DEDUCED; assumption 89). -/
def hintFree : Instr → Bool
  | .jtb .. => false
  | .movxWrite .. => false
  | _ => true

/-- A read of released registers returns their value or raises HINT_MISUSE (03 R51); answers the lanes that raise it. -/
def hintLanes (s : State) (g : Group) (i : Instr) (act : W64) : W64 × State :=
  if !hintFree i && g.released != 0 && (readRegs g.w i).any fun r => g.released.getLsbD r then
    let (b, s) := drawBit s
    (if b then act else 0, s)
  else (0, s)

/-- Container bits that R74 excludes in native mode: C where no word of the packet follows, and extension bits; KA, KB and KC
on a field that is no vector operand. -/
def containerOk (g : Group) (i : Instr) (pc : W64) : Bool :=
  let k := containerOf i
  if !native g then true
  else if formL g then
    let has := fun f => (vUses i).any fun u => u.fld == f && u.rd
    (!k.getLsbD 1 || has .a) && (!k.getLsbD 0 || has .b) &&
      match kxOf i with
      | some x => !x.getLsbD 0 && (!x.getLsbD 1 || has .c)
      | none => true
  else
    (!k.getLsbD 1 || (slotOfPc g pc < 2 && !controlFamily i && !(twoWords i && slotOfPc g pc == 1))) &&
      match kxOf i with
      | some x => x == 0
      | none => true

/-- The word is an instruction for this group: every vector register lies below .regs, the container bits are legal, and an
X-class word does not stand in slot 2 (05 R62, R74, R75, R76; 19 R260). -/
def encOk (g : Group) (i : Instr) (pc : W64) : Bool :=
  legal i && ((laneUses g.w i).all fun u => u.r + u.n ≤ regsOf g) &&
    containerOk g i pc && (formL g || !twoWords i || slotOfPc g pc < 2)

/-- The instruction requires system mode (05 R72; 09 R129). -/
def privileged : Instr → Bool
  | .arSetSystem .. => true
  | .rodCfg .. => true
  | .qpop .. => true
  | .qdone .. => true
  | .launch .. => true
  | .gangPrep .. => true
  | .gangCommit .. => true
  | .irq .. => true
  | .preempt .. => true
  | .resume .. => true
  | .halt .. => true
  | .swr _ _ .budget => true
  | _ => false

/-- The lanes for which the guard is true (05 R65): p0 to p7 per lane, or one uniform predicate for all. -/
def guardLanes (r : Group) (i : Instr) (act : W64) : W64 :=
  let (n, isQ) := guardOf i
  if isQ then (if getQ r n.toNat then act else 0) else act &&& getP r n.toNat

/-- ISSUE of an instruction by the entry the cursor names: the encoding and privilege checks, then its body. Without a
cursor nothing issues. A busy entry goes on with the instruction it has issued, whose guard and operands it has read
(09 R102, R103). -/
def issue (i : Instr) (s : State) (f : Ctx → State) : Res :=
  match s.cur with
  | none => .next s
  | some cu =>
    let s := { s with cur := none }
    match getGroup s cu.gid with
    | none => .next s
    | some g =>
      let x := entAt g cu.ent
      let two := twoWords i
      let base : Ctx := ⟨i, s, g, g, cu.ent, x.act, x.act, x.pc, nextPc g x.pc (controlFamily i) two, cu.w0,
        if two then cu.w1 else 0, 0, g.last, [], []⟩
      if !encOk g i x.pc then .next (trapWith base x.act causeEnc)
      else if privileged i && !g.sys then .next (trapWith base x.act causePriv)
      else if x.busy then
        let fl := mapGet noFlight g.flights cu.ent
        .next (f { base with on := fl.on, hint := fl.hint, tok := fl.tok, cs := fl.causes })
      else
        let (r, s) := pendView s g
        let on := guardLanes r i x.act
        let (hint, s) := hintLanes s g i on
        .next (f { base with s := s, r := r, on := on, hint := hint })

/-- Apply `f` for each lane of a mask, ascending (00 R11). -/
def forLanes (g : Group) (m : W64) (f : Group → Nat → Group) : Group := (lanesOf g.w m).foldl f g

/-- The bit set of a list of register numbers. -/
def regSetOf (rs : List Nat) : W64 := rs.foldl (fun m r => m ||| BitVec.twoPow 64 r) 0

/-- Mapping releases at retirement (03 R51; 05 R70): on an L-core in native mode the marked registers are released, and a
written register no longer is. The spec does not say whether a promise binds single lanes: here it binds the register, and is made and
ended by a word that is active in some lane (assumption 66). -/
def releaseRegs (g : Group) (c : Ctx) : Group :=
  if formL g && native g && c.on != 0 then
    { g with released := (g.released ||| regSetOf (hintRegs g.w c.i)) &&& ~~~ regSetOf (writeRegs g.w c.i ++ c.wr) }
  else g

/-- A word with S = 1 parks its group until every result outstanding has been written, those of its own included (03 R48; 05 R69), on
a D-core in native mode. -/
def sBit (g : Group) (i : Instr) : Group :=
  if latent g && (containerOf i).getLsbD 0 && !g.pend.isEmpty then { g with spark := true } else g

/-- The retirement of an instruction that is no memory instruction, but for where its lanes go on. -/
def retired (g : Group) (c : Ctx) : Group :=
  let g := sBit (releaseRegs g c) c.i
  { g with retired := g.retired + 1 }

/-- RETIRE with the group as the instruction leaves it: every ACT lane goes on at the fall-through (09 R101). `mem` are the memory levels of
what its active lanes have accessed (29 R356). -/
def retireAt (c : Ctx) (s : State) (g : Group) (mem : List Nat) : State :=
  let g := retired g c
  let g := updLanes g c.act fun _ x => { x with pc := c.nxt, dbg := false, denied := none }
  let g := setEnt g c.e { entAt g c.e with pc := c.nxt }
  let s := sample s g c.e c.pc c.act (if c.on = 0 then [] else mem) 0
  commit s c.g (tidy g) (some (c.e, c.nxt))

/-- Retire an instruction that changed only its group. -/
def retire (c : Ctx) (g : Group) : State := retireAt c c.s g []

/-- Retire a control instruction: active lanes take their own next PCs, and the entry divides by them; by MEET too after
MEET instructions, calls and returns (09 R101, R108; 03 R35, R36). -/
def retireTo (c : Ctx) (g : Group) (meet : Bool) (next : Nat → W64) : State :=
  let g := retired g c
  let g := updLanes g c.act fun l x =>
    { x with pc := if c.on.getLsbD l then next l else c.nxt, dbg := false, denied := none }
  let s := sample c.s g c.e c.pc c.act [] 0
  commit s c.g (tidy (regroup g c.e c.on meet)) (some (c.e, c.nxt))

/-- PARK: the lanes `m` of the issuing entry wait at this instruction (03 R373), which retires for the other ACT lanes. The results
of the wait take their place in the order of writes (03 R49). It counts as retired, and leaves the core, as it parks (assumption 61). -/
def park (c : Ctx) (s : State) (g : Group) (m : W64) (w : Wait) : State :=
  let g := sBit (releaseRegs (openPend g (waitTok w) (waitDests w)) c) c.i
  let g := updLanes g (c.act &&& ~~~ m) fun _ x => { x with pc := c.nxt, dbg := false, denied := none }
  let g := parkLanes { g with retired := g.retired + 1 } m fun _ => .waiting w
  commit (sample s g c.e c.pc c.act (waitLevels g.core w) 0) c.g (tidy g) (some (c.e, c.nxt))

/-- The instruction cannot go on yet and issues again at a later turn of its entry: the group has issued nothing in this cycle, for a wait
that the stall counter `k` counts (29 R357). -/
def againAs (c : Ctx) (k : Nat) : State := stallAdd c.s c.g.gid (some k)

/-- The instruction cannot go on yet, for a wait of no class of its own (29 R357). -/
def again (c : Ctx) : State := againAs c 6

/-- The instruction waits for memory beyond the L1 and near vault (29 R357). -/
def againFar (c : Ctx) : State := againAs c 2

/-- The instruction waits for accesses to bytes at a place (29 R357). -/
def againAt (c : Ctx) (p : Place) : State := againAs c (match p with | .vault k => if k / Config.vaultSize = c.g.core then 1 else 2 | _ => 2)

/-- An instruction without causes of its own: HINT_MISUSE, or its effect on the group and retirement. -/
def simple (c : Ctx) (f : Ctx → Group) : State := orTrap c 0 [] fun c => retire c (f c)

end Sys2Proof.Machine
end

