-- ==== Sys2Proof/Machine/Operands.lean ====
section
/-! DEFINITION. Operand forms: addresses of memory instructions (15 R185), immediates (05 R64), the checks of an access
(13 R152 to R155; 15 R185; 25 R321; 29 R345; 31 R358 to R360) and its translation (13 R159; 17 R234, R237). -/

namespace Sys2Proof.Machine

/-- The offset of `[aA + vB]`: vB as a signed 32-bit integer (15 R185). -/
def offReg (r : Group) (b : BitVec 6) (l : Nat) : Int := (getV r b.toNat l).toInt

/-- The offset of `[aA + imm]`: S6 times the scale (15 R185). -/
def offImm (imm : BitVec 6) (scale : Nat) : Int := imm.toInt * scale

/-- The offset of `[aA + sB]`: sB as a signed 32-bit integer (15 R185). -/
def offUni (r : Group) (b : BitVec 6) : Int := (getS r b.toNat).toInt

/-- The address a lane forms, exact (15 R185). -/
def formAddr (a : AReg) (off : Int) : Int := a.ptr.toNat + off

/-- An exact address as records hold it. -/
def addr64 (x : Int) : W64 := BitVec.ofInt 64 x

/-- Bytes of a load size (15 R187). -/
def ldBytes : LdSize → Nat
  | .b8 => 1
  | .i8 => 1
  | .b16 => 2
  | .i16 => 2
  | .b32 => 4
  | .b64 => 8
  | .b128 => 16

/-- Bytes of a store size (15 R187). -/
def stBytes : StSize → Nat
  | .b8 => 1
  | .b16 => 2
  | .b32 => 4
  | .b64 => 8
  | .b128 => 16

/-- Bytes of a non-temporal size (15 R188). -/
def ntBytes : NtSize → Nat
  | .b32 => 4
  | .b64 => 8
  | .b128 => 16

/-- Bytes of an atomic size (15 R190). -/
def amoBytes : AmoSize → Nat
  | .b32 => 4
  | .b64 => 8

/-- The kinds of access that the checks tell apart (13 R155, R168; 15 R185; 17 R234). `rd` and `wr` are the reads and writes of
instructions that raise no WATCH (29 R345). -/
inductive AccessKind where
  | load
  | store
  | rd
  | wr
  | amo
  | lr
  | sc
  | prefetch
  | engine
deriving DecidableEq, Repr

/-- The PERM bit of an address register an access needs (13 R155): R, W, A, E are bits 0 to 3. -/
def permBit : AccessKind → Nat
  | .rd => 0
  | .wr => 1
  | .load => 0
  | .prefetch => 0
  | .store => 1
  | .amo => 2
  | .lr => 2
  | .sc => 2
  | .engine => 3

/-- The permissions translation asks for (17 R234): R = 1, W = 2. -/
def needBits : AccessKind → Nat
  | .rd => 1
  | .wr => 2
  | .load => 1
  | .prefetch => 1
  | .store => 2
  | .amo => 3
  | .lr => 3
  | .sc => 3
  | .engine => 3

/-- The ACC bits of reports (17 R226). -/
def accBits : AccessKind → AccKind
  | .rd => 1
  | .wr => 2
  | .load => 1
  | .prefetch => 1
  | .store => 2
  | .amo => 3
  | .lr => 3
  | .sc => 3
  | .engine => 4

/-- Every byte of [x, hi) lies in one of the spaces `sp`, each a start and an end; `fuel` bounds the spaces passed. -/
def spacesCover (sp : List (Nat × Nat)) (hi : Nat) : Nat → Nat → Bool
  | 0, x => decide (hi ≤ x)
  | fuel + 1, x =>
    if hi ≤ x then true
    else
      match sp.find? fun t => t.1 ≤ x && x < t.2 with
      | some t => spacesCover sp hi fuel t.2
      | none => false

/-- Every byte [off, off + n) of a core's vault lies in space that teams of a context hold (13 R154). -/
def vaultOwned (s : State) (pasid : BitVec 20) (core off n : Nat) : Bool :=
  let sp := (s.teams.filter fun t => t.pasid == pasid && t.home == core).map fun t => (t.vbase, t.vbase + t.vsize)
  spacesCover sp (off + n) sp.length off

/-- Where a vault address lies, for a group of a team on a core, or BOUNDS or PERM (13 R154). `sys` marks system mode. -/
def vaultPlace (s : State) (team core : Nat) (pasid : BitVec 20) (sys : Bool) (x n : Nat) (a : W64) : Except Cause Nat :=
  let rel := bit x 30
  let k := bits x 29 26
  let off := bits x 25 0
  if 2 ^ 31 ≤ x || (rel && k != 0) then .error (causeBounds a)
  else if rel then
    match getTeam s team with
    | some t => if off + n ≤ t.vsize then .ok (vaultKey t.home (t.vbase + off)) else .error (causeBounds a)
    | none => .error (causeBounds a)
  else
    let c := core / 16 * 16 + k
    if Config.vaultSize < off + n then .error (causeBounds a)
    else if !sys && !vaultOwned s pasid c off n then .error (causePerm a)
    else .ok (vaultKey c off)

/-- A translation through the cluster translation unit: the unit may still hold the old one, and until an invalidation
completes either may serve (13 R159; 17 R237). -/
def xlate (s : State) (core : Nat) (pasid : BitVec 20) (va need : Nat) : Except XErr XOk × State :=
  let fresh := translate s pasid va need (Config.choice s.seq)
  let same := fun (t : Tlb) => t.die == dieOf core && t.pasid == pasid && t.vpage == va / 4096
  match s.tlb.find? same with
  | some t =>
    let old : Except XErr XOk :=
      if hasPerm t.perm.toNat need then .ok ⟨t.ppage * 4096 + va % 4096, t.perm.toNat, t.s2pages⟩ else .error (.perm 1)
    let agree := match fresh with
      | .ok x => x.pa == t.ppage * 4096 + va % 4096 && x.perm == t.perm.toNat
      | .error (.perm 1) => !hasPerm t.perm.toNat need
      | .error _ => false
    if agree then (fresh, s)
    else
      let (b, s) := drawBit s
      (if b then old else fresh, s)
  | none =>
    match fresh with
    | .ok x =>
      if x.pa % 4096 = va % 4096 then
        let (ts, s) := makeRoom s Config.tlbEntries (fun (t : Tlb) => t.die == dieOf core) s.tlb
        (fresh, { s with tlb := ts ++ [⟨dieOf core, pasid, va / 4096, x.pa / 4096, BitVec.ofNat 4 x.perm, x.s2pages⟩] })
      else (fresh, s)
    | .error _ => (fresh, s)

/-- The cause of a failed translation in a lane (17 R234, R235). -/
def xCause (pasid : BitVec 20) (a : W64) : XErr → Cause
  | .page p s2 => causePage ⟨pasid, p, s2, false, false⟩ a
  | .perm info => causeXlat (BitVec.ofNat 16 info) a
  | .ecc info => causeEcc info a

/-- A watchpoint of the slot that serves a context sees the access (29 R345). -/
def watched (s : State) (pasid : BitVec 20) (space : Nat) (x n : Nat) (kind : AccessKind) : Bool :=
  match debugSlot s pasid with
  | none => false
  | some k => (List.range 8).any fun j =>
      let lo := (regGet s (offWp k j)).toNat
      let addr := (regGet s (offWp k j + 8)).toNat
      let len := bits lo 63 32
      let sees := match kind with
        | .load => bit lo 1
        | .lr => bit lo 1
        | .store => bit lo 2
        | .sc => bit lo 2
        | .amo => bit lo 1 || bit lo 2
        | .rd => false
        | .wr => false
        | .prefetch => false
        | .engine => false
      bit lo 0 && len != 0 && bitNat (bit lo 3) == space && addr < x + n && x < addr + len && sees

/-- Where a local global access goes once it is translated; the lane's refused page and the kinds the target does not
perform raise PERM (13 R168; 17 R228; 25 R321). -/
def globalPlace (s : State) (g : Group) (l : Nat) (x need : Nat) (kind : AccessKind) (a : W64) :
    Except Cause Place × State :=
  let (r, s) := xlate s g.core g.pasid x need
  match r with
  | .error e => (.error (if (laneAt g l).denied.any fun f => !f.fetch then causeXlat 3 a else xCause g.pasid a e), s)
  | .ok y =>
    if (laneAt g l).denied.any fun f => !f.fetch then (.error (causeXlat 3 a), s)
    else if inHost y.pa then
      (if kind = .lr ∨ kind = .sc then .error (causeXlat 5 a) else .ok (.host y.pa), s)
    else (.ok (.mem y.pa), s)

/-- Where a system-space access goes (13 R152; 25 R321; 31 R358 to R360, R370). -/
def systemPlace (x n : Nat) (kind : AccessKind) (a : W64) : Except Cause Place :=
  if inRegs x then
    if (kind = .store || kind = .wr) && (rootOnly (x - Config.regBase) || x - Config.regBase == offPlimit) then .error (causePerm a)
    else .ok (.mem x)
  else if x + n ≤ Config.rootBase then .ok (.mem x)
  else if inHost x then .ok (.host x)
  else .error (causeXlat 4 a)

/-- The checks of one lane's access in the order of R155 and R209, and where it goes (13 R152 to R155, R168; 15 R185). -/
def checkAccess (s : State) (g : Group) (l : Nat) (ar : AReg) (x : Int) (n : Nat) (kind : AccessKind) :
    Except Cause Place × State :=
  let a := addr64 x
  let sp := ar.space.toNat
  let xn := x.toNat
  if sp = 2 && !g.sys then (.error causePriv, s)
  else if x % n ≠ 0 || (sp = 2 && 0 ≤ x && inRegs xn && n != 8 && kind != .prefetch) then (.error (causeAlign a), s)
  else if x < 0 || 2 ^ 64 ≤ x || x < ar.base.toNat || (ar.limit.toNat : Int) < x + n then (.error (causeBounds a), s)
  else
    let local_ := sp = 0 && xn < 2 ^ 63
    let vp : Except Cause Nat :=
      if sp = 1 then vaultPlace s g.team g.core g.pasid g.sys xn n a
      else if local_ && 2 ^ 57 ≤ xn then .error (causeBounds a) else .ok 0
    match vp with
    | .error c =>
      if c.rank = 5 || ar.perm.getLsbD (permBit kind) then (.error c, s) else (.error (causePerm a), s)
    | .ok key =>
      if !ar.perm.getLsbD (permBit kind) then (.error (causePerm a), s)
      else if (kind = .lr || kind = .sc) && !local_ then (.error (causePerm a), s)
      else if kind = .amo && sp = 2 then (.error (causePerm a), s)
      else
        let (r, s) : Except Cause Place × State :=
          if sp = 1 then (.ok (.vault key), s)
          else if sp = 2 then (systemPlace xn n kind a, s)
          else if local_ then globalPlace s g l xn (needBits kind) kind a
          else (.ok (.remote (bits xn 62 43) (bits xn 42 0)), s)
        let watch := sp ≤ 1 && !(laneAt g l).dbg && watched s g.pasid sp xn n kind
        match r with
        | .error c => (.error (if watch && 9 < c.rank then causeWatch a else c), s)
        | .ok p => if watch then (.error (causeWatch a), s) else (.ok p, s)

/-- One lane's access as checked: lane, exact address and place. -/
structure Req where
  lane : Nat
  x : Nat
  place : Place
deriving DecidableEq, Repr

/-- Check the accesses of the lanes of a mask, ascending: the causes found, and the requests of the lanes without one. -/
def gather (c : Ctx) (m : W64) (ar : AReg) (off : Nat → Int) (n : Nat) (kind : AccessKind) :
    Ctx × List (Nat × Cause) × List Req :=
  (lanesOf c.g.w m).foldl (fun (x : Ctx × List (Nat × Cause) × List Req) l =>
    let (c, cs, rs) := x
    let ad := formAddr ar (off l)
    let (r, s) := checkAccess c.s c.g l ar ad n kind
    match r with
    | .error e => ({ c with s := s }, cs ++ [(l, e)], rs)
    | .ok p => ({ c with s := s }, cs, rs ++ [⟨l, ad.toNat, p⟩])) (c, [], [])

/-- The requests of the lanes that are still active. -/
def stillOn (c : Ctx) (rs : List Req) : List Req := rs.filter fun r => c.on.getLsbD r.lane

end Sys2Proof.Machine
end

