-- ==== Sys2Proof/Machine/Access.lean ====
section
/-! DEFINITION. Accesses in flight and how they are performed: L1 hits, homes, vaults, host ports and other devices
(13 R156 to R170, R181; 25 R321, R327 to R330), releases (13 R172, R173). -/

namespace Sys2Proof.Machine

/-- The encryption key of an access: slot 0 in system space, else the context's (31 R362). -/
def accKey (s : State) (a : Acc) : Nat := if a.sys then 0 else pasidKey s a.pasid

/-- The old value an AMO reads and its operand, as numbers of 8n bits, give the new value; none when a cas fails
(15 R191). -/
def amoNew (op : AmoOp) (n old opnd cmp : Nat) : Option Nat :=
  let m := 2 ^ (8 * n)
  let sg := fun (x : Nat) => if x < m / 2 then (x : Int) else (x : Int) - m
  match op with
  | .add => some ((old + opnd) % m)
  | .sub => some ((old + m - opnd) % m)
  | .min => some (if sg opnd < sg old then opnd else old)
  | .max => some (if sg old < sg opnd then opnd else old)
  | .minu => some (min old opnd)
  | .maxu => some (max old opnd)
  | .and => some (old &&& opnd)
  | .or => some (old ||| opnd)
  | .xor => some (old ^^^ opnd)
  | .swap => some opnd
  | .cas => if old = cmp then some opnd else none
  | .fadd => some (roundF fp32 .rn false (addF .rn (decodeF fp32 old) (decodeF fp32 opnd)))

/-- The L1 serves a load at logical time `lt`: the line is there under a lease still open, read by the same key
(13 R158, R162; 25 R322). Answers the value with buffered stores merged, ws and le. -/
def l1Hit (s : State) (core : Nat) (pasid : BitVec 20) (pa n lt : Nat) : Option (Nat × Nat × Nat) :=
  match l1Find s core (lineOf pa) with
  | some x =>
    if lt ≤ x.le && pasidKey s x.pasid == pasidKey s pasid && !hostBias s (lineOf pa) then
      some (lineBytes (mergeBuffered s core (lineOf pa) (pasidKey s pasid) x.data) pa n, x.ws, x.le)
    else none
  | none => none

/-- A line whose lease has run out asks for a renewal (13 R164). -/
def wantsRenewal (s : State) (core pa lt : Nat) : Bool :=
  match l1Find s core (lineOf pa) with
  | some x => x.le < lt
  | none => false

/-- A line found under another tag moves to the tag of the access, with the permissions of its translation; the core's filter and
micro-TLB take its page (13 R158, R159). -/
def retag (s : State) (core : Nat) (pasid : BitVec 20) (pa va : Nat) (perm : BitVec 4) : State :=
  match l1Find s core (lineOf pa) with
  | some x =>
    if x.pasid = pasid ∧ x.vline = lineOf va then s
    else
      let s := notePage s ⟨core, pasid, va / 4096, pa / 4096, perm⟩
      l1Upd s core (lineOf pa) fun x => { x with pasid := pasid, vline := lineOf va, perm := perm }
  | none => s

/-- Two places are of one kind and their bytes overlap. -/
def overlap (p q : Place) (n m : Nat) : Bool :=
  let o := fun (a b : Nat) => a < b + m && b < a + n
  match p, q with
  | .vault a, .vault b => o a b
  | .mem a, .mem b => o a b
  | .host a, .host b => o a b
  | .remote d a, .remote d' b => d == d' && o a b
  | _, _ => false

/-- Access `b`, sent and not yet performed, comes before a later access of a group on a core to `n` bytes at a place: for a vault
location the program order of the core counts, elsewhere that of the group (13 R156, R167, R175, R181). -/
def keepsPlace (core gid : Nat) (p : Place) (n : Nat) (b : Acc) : Bool :=
  b.st == .sent && overlap b.place p b.n n && match p with | .vault _ => b.core == core | _ => b.gid == gid

/-- An instruction that acts on `n` bytes at a place at once must wait for earlier accesses to them (13 R156, R175, R181). -/
def placeBusy (s : State) (g : Group) (p : Place) (n : Nat) : Bool := s.accs.any (keepsPlace g.core g.gid p n)

/-- An earlier access not yet performed, of those that `sel` selects, keeps the place of access `k`; SCs of one instruction to one line keep
the order of their lanes (13 R168). -/
def blockedBy (s : State) (k : Nat) (sel : Acc → Bool) : Bool :=
  match s.accs[k]? with
  | none => true
  | some a => (s.accs.take k).any fun b =>
      sel b && (keepsPlace a.core a.gid a.place a.n b ||
        b.st == .sent && a.op == .sc && b.op == .sc && a.gid == b.gid && a.ent == b.ent &&
          match a.place, b.place with | .mem x, .mem y => lineOf x == lineOf y | _, _ => false)

/-- An earlier access not yet performed keeps the place of access `k` (13 R156, R168, R175, R181). -/
def accBlocked (s : State) (k : Nat) : Bool := blockedBy s k fun _ => true

/-- Change access `k`. -/
def setAcc (s : State) (k : Nat) (f : Acc → Acc) : State := { s with accs := updAt f s.accs k }

/-- Drop access `k`. -/
def dropAcc (s : State) (k : Nat) : State := { s with accs := dropAt s.accs k }

/-- The lt an access is performed with: the one it issued with on a D-core, the group's own on an L-core (13 R162,
R165). -/
def accLt (s : State) (a : Acc) : Nat :=
  if isLCore a.core && a.ent < 16 then ((getGroup s a.gid).map (·.lt)).getD a.lt else a.lt

/-- Load, prefetch or renewal `a`, the `k`-th access, is served at home or at its host port (13 R162, R188; 25 R321,
R322; 17 R220). A store of its core that an acquire reads leaves the buffer first, so that the acquire takes its stamp (13 R158, R174);
what a relaxed load reads from the buffer, or in host memory, it notes (13 R176, R184; assumption 70). -/
def performLoad (s : State) (k : Nat) (a : Acc) : State :=
  match a.place with
  | .mem pa =>
    let l := lineOf pa
    if a.op = .pfL2 then dropAcc (setHome s l (homeAt s l)) k
    else if s.poison.contains l then
      if a.op = .pfL1 then dropAcc s k else setAcc s k fun a => { a with st := .failed 0x0601 (eccInfo s l) }
    else
      let s := if a.acq then (drainLine s a.core l).1 else s
      let (s, ws, le) := homeGrant s l (accLt s a) a.renew a.nt
      let key := accKey s a
      let d := clearLine s key l
      let v := lineBytes (mergeBuffered s a.core l key d) pa a.n
      let install := !a.sys && !hostBias s l && !(a.nt && (l1Find s a.core l).isNone)
      let t := bufferedLt s a.core key pa a.n
      setAcc s k fun a => { a with rst := t, st := .replied (BitVec.ofNat 64 v) ws le d install }
  | .host pa =>
    let t := hostStamp s pa
    setAcc s k fun a =>
      { a with rst := t, st := .done (BitVec.ofNat 64 (memRead s 0 pa a.n)) (if a.acq then t else 0) (2 ^ 64) true }
  | _ => s

/-- The reply to access `a`, the `k`-th, reaches its core: the L1 installs or refreshes the line (13 R162, R188). -/
def performReply (s : State) (k : Nat) (a : Acc) : State :=
  match a.st, a.place with
  | .replied v ws le d install, .mem pa =>
    let l := lineOf pa
    let newer := match l1Find s a.core l with | some x => decide (x.ws ≤ ws) | none => true
    let s := if install && newer then
        l1Put s ⟨a.core, l, a.pasid, lineOf a.va, a.perm, mergeBuffered s a.core l (accKey s a) d, ws, le⟩
      else s
    if a.op = .pfL1 then dropAcc s k else setAcc s k fun a => { a with st := .done v ws le true }
  | _, _ => s

/-- The export entry that serves a window range, if it has the permissions asked for (25 R328): VOFF and PASID. -/
def exportFind (s : State) (win n need : Nat) : Nat → Nat → Option (Nat × BitVec 20)
  | 0, _ => none
  | cnt + 1, a =>
    let x := wordsVal (memReadWords s 0 a 4)
    if bit x 0 && bits x 255 213 ≤ win && win + n ≤ bits x 212 170 then
      if bits x 3 1 &&& need = need then some (bits x 169 106 + (win - bits x 255 213), fld 20 105 86 x) else none
    else exportFind s win n need cnt (a + 32)

/-- How a request fails at its target: REMOTE (25 R328 to R330), or an uncorrectable error that the load or atomic meets in the target's
memory, which R328 does not count among the cases of REMOTE (17 R211, R220; 31 R366; assumption 87). -/
inductive RemErr where
  | remote
  | ecc (info : BitVec 16)
deriving DecidableEq, Repr

/-- The result of a request at its target: the value and the stamp, or how it fails. -/
abbrev Remote := Except RemErr (Nat × Nat)

/-- The fault code and INFO of a request that fails (17 R211, R220). -/
def remCode : RemErr → BitVec 16 × BitVec 16
  | .remote => (0x0602, 0)
  | .ecc info => (0x0601, info)

/-- XRED's operation on an element (15 R204): add in the element's type. -/
def xredAdd (ty : XredTy) (old x : Nat) : Nat :=
  match ty with
  | .s32 => (old + x) % 2 ^ 32
  | .s64 => (old + x) % 2 ^ 64
  | .f32 => roundF fp32 .rn false (addF .rn (decodeF fp32 old) (decodeF fp32 x))
  | .f16 => roundF fp16 .rn false (addF .rn (decodeF fp16 old) (decodeF fp16 x))
  | .bf16 => roundF bfp16 .rn false (addF .rn (decodeF bfp16 old) (decodeF bfp16 x))

/-- `n` bytes at a virtual address as the pieces that lie in one line each: an export may begin at any address (25 R328). -/
def linePieces (va n : Nat) : List (Nat × Nat) :=
  let k := 128 - va % 128
  if n ≤ k then [(va, n)] else [(va, k), (va + k, n - k)]

/-- The physical pieces of virtual ones, all translated, or none. -/
def physPieces (s : State) (pasid : BitVec 20) (need : Nat) : List (Nat × Nat) → Option (List (Nat × Nat))
  | [] => some []
  | (va, n) :: r =>
    match translate s pasid va need (Config.choice s.seq) with
    | .error _ => none
    | .ok y => (physPieces s pasid need r).map ((y.pa, n) :: ·)

/-- INFO of the uncorrectable error that a read of pieces meets, if there is one (17 R211; 31 R366). -/
def piecesEcc (s : State) (ps : List (Nat × Nat)) : Option (BitVec 16) :=
  (ps.find? fun p => p.1 < Config.memSize && s.poison.contains (lineOf p.1)).map fun p => eccInfo s (lineOf p.1)

/-- The bytes of pieces as one number. -/
def pieceRead (s : State) (key : Nat) : List (Nat × Nat) → Nat
  | [] => 0
  | (pa, n) :: r => memRead s key pa n + 2 ^ (8 * n) * pieceRead s key r

/-- A load of pieces, each at its home: the value and the largest ws. -/
def pieceLoad (s : State) (key lt : Nat) : List (Nat × Nat) → State × Nat × Nat
  | [] => (s, 0, 0)
  | (pa, n) :: r =>
    let (s, v, t) := physLoad s key pa n lt
    let (s, v', t') := pieceLoad s key lt r
    (s, v + 2 ^ (8 * n) * v', max t t')

/-- A store of pieces, each at its home: the largest ws. -/
def pieceStore (s : State) (key lt : Nat) : List (Nat × Nat) → Nat → State × Nat
  | [], _ => (s, 0)
  | (pa, n) :: r, v =>
    let (s, t) := physStore s key pa n v lt
    let (s, t') := pieceStore s key lt r (v / 2 ^ (8 * n))
    (s, max t t')

/-- A read-modify-write of pieces (13 R167; 15 R204): the old value and the stamp. -/
def pieceRmw (s : State) (key lt : Nat) (ps : List (Nat × Nat)) (f : Nat → Option Nat) : State × Remote :=
  let s := ps.foldl (fun s p => recallHost s p.1 .i) s
  let old := pieceRead s key ps
  match f old with
  | some v => let (s, ws) := pieceStore s key lt ps v; (s, .ok (old, ws))
  | none => (s, .ok (old, maxList 0 (ps.map fun p => (homeAt s (lineOf p.1)).wts)))

/-- The pieces of a request at its target, with the exporting context: the access lies in `m` bytes at window address `base`, which its
export entry must hold (25 R328). -/
def targetPieces (s : State) (win n base m : Nat) (op : RemoteOp) : Option (List (Nat × Nat) × BitVec 20) :=
  let need := match op with | .load => 1 | .store _ => 2 | .amo .. => 4 | .red .. => 4
  match exportFind s base m need 4096 (regGet s offExport).toNat with
  | none => none
  | some (va, pasid) =>
    (physPieces s pasid (match op with | .load => 1 | .store _ => 2 | _ => 3) (linePieces (va + (win - base)) n)).map fun ps => (ps, pasid)

/-- Whether a request would fail at this device as its target, and how (25 R328; 17 R220; 31 R366). A store to a poisoned line does not
fail: it is dropped. -/
def targetErr (s : State) (win n base m : Nat) (op : RemoteOp) : Option RemErr :=
  match targetPieces s win n base m op with
  | none => some .remote
  | some (ps, _) => match op with | .store _ => none | _ => (piecesEcc s ps).map .ecc

/-- A running bias command holds the lines of a request at its target (25 R324). -/
def targetHeld (s : State) (win n base m : Nat) (op : RemoteOp) : Bool :=
  match targetPieces s win n base m op with
  | some (ps, _) => ps.any fun p => biasHeld s (lineOf p.1)
  | none => false

/-- A running bias command holds a remote access that this device performs for itself (25 R324, R327). -/
def remoteHeld (s : State) (dev win n : Nat) (op : RemoteOp) : Bool := dev == devid s && targetHeld s win n win n op

/-- A running bias command holds the read of `n` bytes at a place (25 R324). -/
def placeHeld (s : State) (p : Place) (n : Nat) : Bool :=
  match p with
  | .mem pa => biasHeld s (lineOf pa)
  | .remote d w => remoteHeld s d w n .load
  | _ => false

/-- A running bias command holds an access (25 R324). -/
def accHeld (s : State) (a : Acc) : Bool :=
  match a.place with
  | .remote d w => remoteHeld s d w a.n (remoteOpOf a)
  | p => placeHeld s p a.n

/-- A request performed at this device as the target (25 R328): translated in the exporting context and performed at home
with the request's lt. -/
def atTarget (s : State) (win n base m lt : Nat) (op : RemoteOp) : State × Remote :=
  match targetErr s win n base m op, targetPieces s win n base m op with
  | some e, _ => (s, .error e)
  | none, none => (s, .error .remote)
  | none, some (ps, pasid) =>
    let key := pasidKey s pasid
    match op with
    | .load => let (s, v, ws) := pieceLoad s key lt ps; (s, .ok (v, ws))
    | .store d => let (s, ws) := pieceStore s key lt ps d.toNat; (s, .ok (0, ws))
    | .amo o x c => pieceRmw s key lt ps fun old => amoNew o n old x.toNat c.toNat
    | .red ty x => pieceRmw s key lt ps fun old => some (xredAdd ty old (x.toNat % 2 ^ (8 * n)))

/-- The accesses of the read-modify-write instruction of access `a`, its own among them. -/
def siblings (s : State) (a : Acc) : List Acc := s.accs.filter fun b => b.gid == a.gid && b.ent == a.ent && a.ent < 16

/-- How access `b`, sent and not yet performed, would fail if it were performed now (17 R211, R220; 25 R327, R328). -/
def accErr (s : State) (b : Acc) : Option RemErr :=
  match b.place with
  | .mem pa => if s.poison.contains (lineOf pa) then some (.ecc (eccInfo s (lineOf pa))) else none
  | .vault key => if s.vpoison.contains (key / 128) then some (.ecc 1) else none
  | .remote d w =>
    if d = devid s then targetErr s w b.n w b.n (remoteOpOf b)
    else if noRoute s b.place then some .remote else none
  | .host _ => none

/-- Access `b` has failed, or would fail if it were performed now (17 R220; 25 R327, R328). -/
def accBad (s : State) (b : Acc) : Bool :=
  match b.st with
  | .failed .. => true
  | .sent => (accErr s b).isSome
  | _ => false

/-- Another access of the instruction of `a` fails, so that this one has no effect: an instruction that traps performs none
(03 R52; 17 R220). -/
def rmwStopped (s : State) (a : Acc) : Bool := (siblings s a).any (accBad s)

/-- Accesses of the instruction of `a` at places that `f` selects by their device have not all been answered: the others wait, so that a
REMOTE finds none of them performed (03 R52; 17 R220). -/
def rmwWaits (s : State) (a : Acc) (f : Nat → Bool) : Bool :=
  (siblings s a).any fun b => b.st == .sent && match b.place with | .remote d _ => f d | _ => false

/-- An access that has no effect because another of its instruction fails. -/
def noEffect (s : State) (k : Nat) : State := setAcc s k fun a => { a with st := .done 0 0 (2 ^ 64) false }

/-- A read-modify-write access `a`, the `k`-th, of this device: it meets an error, or has no effect beside one that does, or, once the
other devices that `wait` selects have answered, is performed by `f` (03 R52; 17 R220). -/
def rmwStep (s : State) (k : Nat) (a : Acc) (wait : Nat → Bool) (f : State → State) : State :=
  match accErr s a with
  | some e => setAcc s k fun a => { a with st := .failed (remCode e).1 (remCode e).2 }
  | none => if rmwStopped s a then noEffect s k else if rmwWaits s a wait then s else f s

/-- An access reaches a place that `f` selects, as this device's own target too (25 R327, R328). -/
def accReaches (s : State) (b : Acc) (f : Place → Bool) : Bool :=
  f b.place ||
    match b.place with
    | .remote d w => d == devid s && (targetPieces s w b.n w b.n (remoteOpOf b)).any fun x => x.1.any fun p => f (.mem p.1)
    | _ => false

/-- A read-modify-write instruction has performed some of its accesses and has one open at a place that `f` selects: an error cannot show
there before that one too is performed (17 R220). -/
def rmwPartly (s : State) (f : Place → Bool) : Bool :=
  s.accs.any fun b => b.st == .sent && accReaches s b f &&
    (match b.op with | .amo .. => true | .lr => true | .sc => true | _ => false) &&
    (siblings s b).any fun x => match x.st with | .done .. => true | _ => false

/-- A vault access is performed at the vault (13 R156, R157, R167). What a relaxed load reads it notes (13 R157, R176; assumption
70). -/
def performVault (s : State) (k : Nat) (a : Acc) (key : Nat) : State :=
  let fin := fun (s : State) (v st rst : Nat) (ok : Bool) =>
    setAcc s k fun a => { a with rst := rst, st := .done (BitVec.ofNat 64 v) st (2 ^ 64) ok }
  match a.op with
  | .store => dropAcc (vaultWrite s key a.n a.data.toNat a.lt) k
  | .load =>
    if s.vpoison.contains (key / 128) then setAcc s k fun a => { a with st := .failed 0x0601 1 }
    else fin s (vaultRead s key a.n) (if a.acq then vsAt s key else 0) (vsAt s key) true
  | .amo op x y =>
    rmwStep s k a (fun _ => true) fun s =>
      let old := vaultRead s key a.n
      match amoNew op a.n old x.toNat y.toNat with
      | some v =>
        let s := vaultWrite s key a.n v (accLt s a)
        fin s old (vsAt s key) 0 true
      | none => fin s old (vsAt s key) 0 false
  | _ => s

/-- Perform every vault access a core has sent, in its order (13 R156, R172). -/
def drainVault (s : State) (core : Nat) : Nat → Nat → State
  | 0, _ => s
  | fuel + 1, k =>
    match s.accs[k]? with
    | none => s
    | some a =>
      match a.place with
      | .vault key =>
        if a.core = core && a.st == .sent then
          drainVault (performVault s k a key) core fuel (if a.op = .store then k else k + 1)
        else drainVault s core fuel (k + 1)
      | _ => drainVault s core fuel (k + 1)

/-- An atomic is performed at the home of its line, or at the host port (13 R167; 25 R321, R323). -/
def performAmo (s : State) (k : Nat) (a : Acc) : State :=
  match a.op, a.place with
  | .amo op x y, .mem pa => rmwStep s k a (fun _ => true) fun s =>
    let l := lineOf pa
    let (s, _) := drainLine s a.core l
    let key := accKey s a
    let s := backInval s l .i
    let old := memRead s key pa a.n
    match amoNew op a.n old x.toNat y.toNat with
    | some v =>
      let (s, ws) := physStore s key pa a.n v (accLt s a)
      let s := ackCopy s a.core l key (maskAt pa a.n) (dataAt pa v) ws
      setAcc s k fun a => { a with st := .done (BitVec.ofNat 64 old) ws (2 ^ 64) true }
    | none => setAcc s k fun a => { a with st := .done (BitVec.ofNat 64 old) (homeAt s l).wts (2 ^ 64) false }
  | .amo op x y, .host pa => rmwStep s k a (fun _ => true) fun s =>
    let old := memRead s 0 pa a.n
    let s := match amoNew op a.n old x.toNat y.toNat with
      | some v => hostPut s pa a.n v (accLt s a)
      | none => s
    setAcc s k fun a => { a with st := .done (BitVec.ofNat 64 old) (hostStamp s pa) (2 ^ 64) true }
  | _, _ => s

/-- Reservations of one M-die (13 R168). -/
def resvOf (s : State) (l : Nat) : List Resv := s.resv.filter fun r => mdieOf r.line == mdieOf l

/-- An LR reads its line at home and reserves it, unless another lane has precedence or the table is full of young
entries (13 R168 to R170). Whether the oldest entry is old enough is the device's (assumption 2). -/
def performLr (s : State) (k : Nat) (a : Acc) : State :=
  match a.place with
  | .mem pa => rmwStep s k a (fun _ => true) fun s =>
    let l := lineOf pa
    let (s, _) := drainLine s a.core l
    let s := backInval s l .i
    let v := memRead s (accKey s a) pa a.n
    let h := homeAt s l
    let s := setHome s l h
    let s := { s with resv := s.resv.filter fun r => !(r.gid == a.gid && r.lane == a.lane) }
    let other := s.scf.any fun r => r.line == l && r.window && !(r.gid == a.gid && r.lane == a.lane)
    let s :=
      if other then s
      else if (resvOf s l).length < 4096 then { s with resv := s.resv ++ [⟨a.gid, a.lane, l⟩] }
      else
        let (old, s) := drawBit s
        if old then { s with resv := (match (resvOf s l).head? with | some r => s.resv.erase r | none => s.resv) ++
            [⟨a.gid, a.lane, l⟩] } else s
    setAcc s k fun a => { a with st := .done (BitVec.ofNat 64 v) h.wts (2 ^ 64) true }
  | _ => s

/-- An SC is decided at home (13 R168 to R170): it writes if the lane's reservation covers its line, once a host's copy has gone
(25 R323). -/
def performSc (s : State) (k : Nat) (a : Acc) : State :=
  match a.place with
  | .mem pa => rmwStep s k a (fun _ => true) fun s =>
    let l := lineOf pa
    let (s, _) := drainLine s a.core l
    let s := backInval s l .i
    let mine := fun (r : ScFail) => r.gid == a.gid && r.lane == a.lane && r.line == l
    if s.resv.any fun r => r.gid == a.gid && r.lane == a.lane && r.line == l then
      let (s, ws) := physStore s (accKey s a) pa a.n a.data.toNat (accLt s a)
      let s := ackCopy s a.core l (accKey s a) (maskAt pa a.n) (dataAt pa (a.data.toNat % 2 ^ (8 * a.n))) ws
      setAcc { s with scf := s.scf.filter fun r => !mine r } k fun a => { a with st := .done 0 ws (2 ^ 64) true }
    else
      let n := ((s.scf.find? mine).map (·.fails)).getD 0 + 1
      let w := ((s.scf.find? mine).map (·.window)).getD false ||
        2 ≤ n && !(s.scf.any fun r => r.line == l && r.window && !mine r)
      let s := { s with scf := (s.scf.filter fun r => !mine r) ++ [⟨a.gid, a.lane, l, n, w⟩] }
      setAcc s k fun a => { a with st := .done 0 0 (2 ^ 64) false }
  | _ => s

/-- The answer to remote or host access `a`, the `k`-th, arrives: `ans` is the target's, or this device's own for its own
identifier (25 R327, R330). A failed store is kept for its group's next release at .sys; of several that fail before it the first is
kept and reported, the others are dropped (DESIGN CHOICE, unsafe: R220 speaks of one; assumption 88). The failure of a store whose group
has ended is reported (17 R220). -/
def performRemote (s : State) (k : Nat) (a : Acc) (ans : Remote) : State :=
  let s := match ans, a.place with
    | .error .remote, .remote d w => dropIncn s (dieOf a.core) d w
    | _, _ => s
  match a.op with
  | .store =>
    let s := dropAcc s k
    match ans with
    | .ok (_, st) => raiseLt s a.gid st
    | .error (.ecc _) => s
    | .error .remote =>
      match getGroup s a.gid with
      | some _ => updGroup s a.gid fun g => { g with remFail := if g.remFail.isSome then g.remFail else some (addr64 a.va) }
      | none => addReport s (dieOf a.core)
          { report0 4 with b := a.tg, pasid := a.pasid, code := 0x0602, count := 1, core := BitVec.ofNat 6 a.core }
  | _ =>
    match ans with
    | .ok (v, st) => setAcc s k fun a => { a with st := .done (BitVec.ofNat 64 v) st (2 ^ 64) true }
    | .error e => setAcc s k fun a => { a with st := .failed (remCode e).1 (remCode e).2 }

/-- A posted store to host memory is performed at its port (25 R321), under the lt it was sent with. -/
def performHostStore (s : State) (k : Nat) (a : Acc) (pa : Nat) : State := dropAcc (hostPut s pa a.n a.data.toNat a.lt) k

/-- Perform the host-memory stores a group has posted (13 R172; 25 R321). -/
def drainHost (s : State) (gid : Nat) : Nat → Nat → State
  | 0, _ => s
  | fuel + 1, k =>
    match s.accs[k]? with
    | none => s
    | some a =>
      match a.place with
      | .host pa => if a.gid = gid && a.op = .store then drainHost (performHostStore s k a pa) gid fuel k
                    else drainHost s gid fuel (k + 1)
      | _ => drainHost s gid fuel (k + 1)

/-- A group's team uses both cores of its pair (03 R43; 13 R172). -/
def spansPair (s : State) (g : Group) : Bool := ((getTeam s g.team).map fun t => decide (1 < t.cores.length)).getD false

/-- A release or an acquire at the scope goes beyond the core (13 R172). -/
def wideScope (s : State) (g : Group) : Scope → Bool
  | .grp => false
  | .team => spansPair s g
  | _ => true

/-- RELEASE of a group at a wide scope: the core's buffered stores and vault accesses are performed, the group takes their
largest stamp; at .sys its host stores too (13 R172, R173). -/
def releaseWide (s : State) (gid core : Nat) (sys : Bool) : State :=
  let (s, ws) := drainCore s core
  let s := drainVault s core s.accs.length 0
  let s := if sys then drainHost s gid s.accs.length 0 else s
  raiseLt s gid ws

/-- A buffered store of a core lies in a page that a bias command holds, so that a release waits for it (25 R324; 13 R173). -/
def relHeld (s : State) (core : Nat) : Bool := s.cbuf.any fun y => y.core == core && biasHeld s y.line

/-- The release of an instruction at a scope (13 R172, R173; 17 R220): at .sys it waits for remote stores and reports one
that has failed; then `k` runs. -/
def withRelease (c : Ctx) (sc : Scope) (k : Ctx → State) : State :=
  if !wideScope c.s c.g sc then k c
  else if relHeld c.s c.g.core || sc = .sys && remoteWaits c.s c.g.gid then againFar c
  else
    let fail := if sc = .sys then c.g.remFail else none
    match fail with
    | some a =>
      let g := { c.g with remFail := none }
      let s := setGroup c.s g
      trapWith { c with s := s, g := g } c.act (causeRemote a)
    | none =>
      let s := releaseWide (setGroup c.s c.g) c.g.gid c.g.core (sc = .sys)
      match getGroup s c.g.gid with
      | some g => k { c with s := s, g := g, r := { c.r with lt := g.lt } }
      | none => s

/-- A release that leaves no store of the group to host memory or to another device unperformed either, and reports none that has failed:
of an instruction that forks a thread of its own, whose accesses come after every earlier one of the group (13 R173, R179), and of QDONE
and IRQ, which raise no REMOTE (21 R298). -/
def withFork (c : Ctx) (k : Ctx → State) : State :=
  if relHeld c.s c.g.core || remoteWaits c.s c.g.gid then againFar c
  else
    let s := releaseWide (setGroup c.s c.g) c.g.gid c.g.core true
    match getGroup s c.g.gid with
    | some g => k { c with s := s, g := g, r := { c.r with lt := g.lt } }
    | none => s

end Sys2Proof.Machine
end

