-- ==== Sys2Proof/Machine/Special.lean ====
section
/-! DEFINITION. State registers (09 R129 to R131; 07 R90; 21 R290), the debugger's access to a stopped group (29 R350), and the
release of parked pages (17 R228). -/

namespace Sys2Proof.Machine

/-- The value of a state register that is the same for every lane (09 R130); sr.lane is `l`. -/
def srVal (s : State) (g : Group) (l : Nat) : SReg → W64
  | .lane => BitVec.ofNat 64 l
  | .group => BitVec.ofNat 64 g.srGroup
  | .team => BitVec.ofNat 64 g.srTeam
  | .width => BitVec.ofNat 64 g.w
  | .core => BitVec.ofNat 64 g.core
  | .pair => BitVec.ofNat 64 (pairOf g.core)
  | .die => BitVec.ofNat 64 (dieOf g.core)
  | .lt => BitVec.ofNat 64 (g.lt % 2 ^ 48)
  | .dtime => dtime s (dieOf g.core)
  | .rmode => g.rmode.setWidth 64
  | .tbase => g.tbase.setWidth 64
  | .tdepth => BitVec.ofNat 64 g.frames.length
  | .deadline => g.deadline
  | .budget => g.budget.setWidth 64

/-- The state register takes a pair of uniform registers (09 R130). -/
def srWide : SReg → Bool
  | .lt => true
  | .dtime => true
  | .deadline => true
  | _ => false

/-- SWR writes the register (09 R130). -/
def srWritable : SReg → Bool
  | .rmode => true
  | .tbase => true
  | .budget => true
  | _ => false

/-- SWR (09 R129): reserved bits are ignored; sr.budget changes only for a limited slice, and 0 raises BUDGET at the next
boundary (17 R219; 21 R290). -/
def srWrite (g : Group) (sr : SReg) (x : W32) : Group :=
  match sr with
  | .rmode => { g with rmode := x &&& rmodeMask }
  | .tbase => { g with tbase := x &&& tbaseMask }
  | .budget =>
    match g.slice with
    | some sl => if sl.limited then { g with budget := x, budgetPend := g.budgetPend || x == 0 } else g
    | none => g
  | _ => g

/-- Lanes of entry `e` whose fault is resolved: its ACT lanes together once each of their pages is, its deferred lanes one by
one (03 R373; 17 R228). -/
def replayEnt (g : Group) (e : Nat) : W64 :=
  let x := entAt g e
  let fin := laneWhere g fun l => match l.park with | .faulted _ d => d | _ => false
  let act := x.act &&& laneWhere g isFaulted
  let own := ownMask g e
  (if (act &&& ~~~ fin) == 0 then act else 0) ||| (own &&& ~~~ x.act &&& fin)

/-- The entries of a group whose pages are resolved go on at their instruction (17 R228). -/
def replayGroup (g : Group) : Group :=
  let m := (List.range 16).foldl (fun m e => if (entAt g e).v then m ||| replayEnt g e else m) 0#64
  if m = 0 then g else tidy (updLanes g m fun _ x => { x with park := .none })

/-- The group a debug access names, when it is stopped and an enabled slot serves its context (29 R350). -/
def daccGroup (s : State) (sel : Nat) : Option Group :=
  match s.groups.find? fun g => g.core == bits sel 63 58 && isResident g && slotOf g == bits sel 57 52 with
  | some g => if g.stopped.isSome && (debugSlot s g.pasid).isSome then some g else none
  | none => none

/-- Word `k` of an address register as DACC numbers them (29 R350). -/
def aregPart (a : AReg) (k : Nat) : W64 :=
  if k = 0 then a.ptr else if k = 1 then a.base else if k = 2 then a.limit
  else BitVec.ofNat 64 (a.perm.toNat + a.space.toNat * 2 ^ 12)

/-- Address register with word `k` replaced. -/
def aregSet (a : AReg) (k : Nat) (x : W64) : AReg :=
  if k = 0 then { a with ptr := x } else if k = 1 then { a with base := x } else if k = 2 then { a with limit := x }
  else { a with space := fld 4 15 12 x.toNat, perm := fld 4 3 0 x.toNat }

/-- The state register of an SRD number (09 R130). -/
def srOfNum (n : Nat) : Option SReg := ofSReg (BitVec.ofNat 12 n)

/-- A debug read (29 R350); none when the access is refused. -/
def daccReadReg (s : State) (g : Group) (kind lane num : Nat) : Option W64 :=
  let inLane := lane < g.w
  if kind = 0 then (if inLane && num < regsOf g then
      some (if g.released.getLsbD num then 0 else (getV g num lane).setWidth 64) else none)
  else if kind = 1 then (if num < 64 then some ((getS g num).setWidth 64) else none)
  else if kind = 2 then (if num < 64 then some (aregPart (getA g (num / 4)) (num % 4)) else none)
  else if kind = 3 then (if inLane && num < 8 then some (if getPl g num lane then 1 else 0) else none)
  else if kind = 4 then (if num < 4 ∨ num = 7 then some (if getQ g num then 1 else 0) else none)
  else if kind = 5 then (if num < 4 then some (BitVec.ofNat 64 (iregVal (getI g num))) else none)
  else if kind = 6 then (if inLane then some (laneAt g lane).pc else none)
  else if kind = 7 then (if inLane then some (laneAt g lane).meet else none)
  else if kind = 8 then (srOfNum num).map (srVal s g lane)
  else none

/-- A PC write: an ACT lane moves its whole entry, another lane itself (29 R350). -/
def daccPc (g : Group) (lane : Nat) (x : W64) : Group :=
  match (List.range 16).find? fun e => (entAt g e).v && (entAt g e).act.getLsbD lane with
  | some e =>
    let g := updLanes g (entAt g e).act fun _ l => { l with pc := x }
    setEnt g e { entAt g e with pc := x }
  | none => setLane g lane { laneAt g lane with pc := x }

/-- A debugger's write to a register is final: the outstanding results of it, those of the group's waits, are ended (29 R350). -/
def endResult (g : Group) (d : Dest) : Group :=
  let ws := waitsOf g fun w => (waitDests w).contains d
  { dropPend g d with kept := g.kept ++ ws.map fun w => (waitTok w, d) }

/-- A debug write (29 R350); none when the access is refused. A write to a released register ends the release. -/
def daccWriteReg (g : Group) (kind lane num : Nat) (x : W64) : Option Group :=
  let inLane := lane < g.w
  let lo := x.setWidth 32
  if kind = 0 then (if inLane && num < regsOf g then
      some { setV (endResult g (.v num lane)) num lane lo with released := g.released &&& ~~~ BitVec.twoPow 64 num } else none)
  else if kind = 1 then (if num < 64 then some (setS (endResult g (.s num)) num lo) else none)
  else if kind = 2 then (if num < 64 then some (setA g (num / 4) (aregSet (getA g (num / 4)) (num % 4) x)) else none)
  else if kind = 3 then (if inLane && num < 8 then some (setPl (endResult g (.p num lane)) num lane (x.getLsbD 0)) else none)
  else if kind = 4 then (if num < 4 ∨ num = 7 then some (setQ (endResult g (.q num)) num (x.getLsbD 0)) else none)
  else if kind = 5 then (if num < 4 then some (setI g num (iregOf (x.toNat % 2 ^ 16))) else none)
  else if kind = 6 then (if inLane then some (daccPc g lane x) else none)
  else if kind = 7 then (if inLane then
      let g := setLane g lane { laneAt g lane with meet := x }
      some { g with ents := g.ents.map fun y => refreshEnt g y } else none)
  else if kind = 8 then
    match srOfNum num with
    | some sr => if srWritable sr then some (srWrite g sr lo) else none
    | none => none
  else none

/-- Resume of a stopped group (29 R350): the lanes that stopped at a BKPT, kind 0, go on at its fall-through, those of kind 1 retry with
debug suppressed, kinds 2 and 3 go on at the stop point. A HALT that the group has not answered by a stop of kind 3 stays pending (R347),
and a register the debugger has written takes no result of a wait from before the stop. -/
def daccGo (g : Group) : Group :=
  let m := g.stopLanes
  let g := match g.stopped with
    | some 0 =>
      let g := updLanes g m fun _ x => { x with pc := nextPc g x.pc false false }
      (List.range 16).foldl (fun g e => if (entAt g e).v && ((entAt g e).act &&& m) != 0 then regroup g e m false else g) g
    | some 1 => updLanes g m fun _ x => { x with dbg := true }
    | _ => g
  tidy { { g with ents := g.ents.map fun y => refreshEnt g y } with stopped := none, stopLanes := 0 }

/-- One debug access with selector word `sel` (29 R350): ERR in bit 3 tells whether it was refused. -/
def daccRun (s : State) (sel : Nat) : State :=
  let kind := bits sel 51 48
  let lane := bits sel 47 42
  let num := bits sel 41 30
  let wr := bit sel 1
  let err := fun (s : State) (b : Bool) => regSetField s offDacc 3 3 (bitNat b)
  match daccGroup s sel with
  | none => err s true
  | some g =>
    if kind = 15 then
      if num = 0 then err ((List.range 16).foldl (fun s n => tbarCheck s g.team n) (putGroup s (daccGo g))) false
      else if num = 1 then
        err (commit s g (tidy (updLanes { g with stopped := none } (fullMask g.w) fun _ x => { x with exited := true })) none) false
      else err s true
    else if wr then
      match daccWriteReg g kind lane num (regGet s offDdata) with
      | some g' => err (putGroup s g') false
      | none => err s true
    else
      match daccReadReg s g kind lane num with
      | some v => err (regSet s offDdata v) false
      | none => err s true

end Sys2Proof.Machine
end

