-- ==== Sys2Proof/Machine/Commands.lean ====
section
/-! DEFINITION. What a write to a device register starts (31 R360): fault resolution (17 R228), invalidation (17 R237, R238),
revocation (25 R319), bias flips (25 R324), interrupt re-examination (25 R325), debug, trace and mailbox commands. -/

namespace Sys2Proof.Machine

/-- The page of a fault lies in a range of pages of an address space and stage. -/
def inPages (f : PageFault) (pasid : BitVec 20) (va pages : Nat) (s2 : Bool) : Bool :=
  f.pasid == pasid && f.s2 == s2 && va ≤ f.page && f.page < va + 4096 * pages

/-- A lane's parked fault under a GO of FRES_CMD: its page is resolved, by DENY for `deny`; a fault that no entry names
replays at every GO (17 R228, R229). A lane that waits on no page, its own resolved or never missing, is refused none. -/
def fresLane (hit : PageFault → Bool) (deny : Bool) (x : Lane) : Lane :=
  match x.park with
  | .faulted f done =>
    if hit f then { x with park := .faulted f true, denied := if deny && !done then some f else x.denied }
    else if !f.recorded then { x with park := .faulted f true } else { x with park := .faulted f done }
  | _ => x

/-- GO of FRES_CMD (17 R228): every parked access on a page of the range is resolved. -/
def fresGo (s : State) (pasid : BitVec 20) (va pages : Nat) (deny s2 none_ : Bool) : State :=
  let hit := fun (f : PageFault) => !none_ && inPages f pasid va pages s2
  let s := s.groups.foldl (fun s g0 =>
    let g := updLanes g0 (fullMask g0.w) fun _ x => fresLane hit deny x
    if g.lanes == g0.lanes then s
    else if isResident g then putGroup s (replayGroup g) else setGroup s g) s
  let clear := fun (p d : Option PageFault) =>
    match p with
    | some f => if hit f then (none, if deny then some f else d) else if f.recorded then (p, d) else (none, d)
    | none => (p, d)
  { s with
    ops := s.ops.map fun o => let (p, d) := clear o.park o.denied; { o with park := p, denied := d }
    mq := s.mq.map fun q => (q.1, q.2.map fun o => let (p, d) := clear o.park o.denied; { o with park := p, denied := d }) }

/-- A translation falls in the range of an invalidation (17 R237). -/
def invCovers (v : Inv) (pasid : BitVec 20) (vpage : Nat) (s2pages : List Nat) : Bool :=
  let inR := fun (p : Nat) => v.va / 4096 ≤ p && p < v.va / 4096 + v.pages
  if v.kind = 0 then pasid == v.pasid && (if v.s2 then s2pages.any inR else inR vpage)
  else if v.kind = 1 then pasid == v.pasid
  else true

/-- Accesses of a core that still use a translation of an invalidation's range (17 R238). -/
def invUses (s : State) (v : Inv) (core : Nat) : Bool :=
  s.accs.any fun a => a.core == core && !a.sys &&
    (match a.place with | .mem _ => true | .host _ => true | _ => false) &&
    (match a.st with | .sent => true | .replied .. => true | _ => false) &&
    (v.s2 || invCovers v a.pasid (a.va / 4096) [])

/-- A core's filter has a hit for a command (13 R159): a page of a range, or for whole spaces any page at all. -/
def filterHit (s : State) (v : Inv) (core : Nat) : Bool :=
  let f := mapGet 0 s.filters core
  if v.kind = 0 && !v.s2 then
    f != 0 && (List.range v.pages).any fun k => f.testBit (Config.pageHash v.pasid.toNat (v.va / 4096 + k) % 4096)
  else f != 0

/-- A core's filter has a hit, or it holds a buffered store or an access that a command may cover (17 R238; 13 R159). -/
def invHit (s : State) (v : Inv) (core : Nat) : Bool :=
  invUses s v core || filterHit s v core || s.cbuf.any fun y => y.core == core && (2 ≤ v.kind.toNat || y.pasid == v.pasid)

/-- A command that every party has acknowledged completes (17 R238). -/
def invDone (s : State) : State :=
  { s with invs := s.invs.filter fun v => !((List.range 72).all fun p => v.acks.contains p) }

/-- GO of INV_CMD (17 R237, R238): the cores without a hit acknowledge at once. KIND 3 completes and invalidates
nothing. -/
def invGo (s : State) (v : Inv) : State :=
  if v.kind = 3 then s
  else invDone { s with invs := s.invs ++ [{ v with acks := ((List.range 64).filter fun c => !invHit s v c).map (4 + ·) }] }

/-- A party drops what it holds in the range of a command and acknowledges it once it can (17 R238). -/
def invParty (s : State) (k party : Nat) : State :=
  match s.invs[k]? with
  | none => s
  | some v =>
    if v.acks.contains party || 72 ≤ party then s
    else
      let ackd := fun (s : State) => invDone { s with invs := updAt (fun w => { w with acks := w.acks ++ [party] }) s.invs k }
      if party < 4 then
        ackd { s with tlb := s.tlb.filter fun t => !(t.die == party && invCovers v t.pasid t.vpage t.s2pages) }
      else if party < 68 then
        let core := party - 4
        if relHeld s core then s else
        let (s, _) := drainCore s core
        let s := settleFilters { s with
          l1 := s.l1.filter fun x => !(x.core == core && (v.s2 || invCovers v x.pasid (x.vline / 32) []))
          micro := s.micro.filter fun x => !(x.core == core && (v.s2 || invCovers v x.pasid x.vpage [])) }
        if invUses s v core then s else ackd s
      else ackd s

/-- The pages of a bias command that lie in device memory (25 R324). -/
def biasPages (s : State) : Nat × Nat :=
  let p0 := regField s offBiaspa 63 12
  let n := regField s offBiascmd 63 40
  (p0, min n (Config.memSize / 4096 - p0))

/-- Write the bias bits of `n` pages from `p` (25 R322, R324). -/
def biasSet (s : State) (base : Nat) (host : Bool) : Nat → Nat → State
  | 0, _ => s
  | n + 1, p =>
    let a := base + p / 8
    let x := memRead s 0 a 1
    let y := if host then x ||| 2 ^ (p % 8) else x &&& (255 - 2 ^ (p % 8))
    biasSet (memWrite s 0 a 1 y) base host n (p + 1)

/-- GO of BIASCMD: the steps of R324 for its direction; until DONE the accesses to the pages wait, and are then performed under the new
bias. A command names no port; with no port trained as CXL it
completes without changing any page (25 R315; DEDUCED). -/
def biasGo (s : State) : State :=
  if s.cxl = 0 then { s with biasRun := some (0, 0, false) } else
  let (p0, n) := biasPages s
  let inP := fun (l : Nat) => p0 ≤ l / 32 && l / 32 < p0 + n
  let host := regField s offBiascmd 1 1 == 1
  let s := if host then
      { s with l1 := s.l1.filter fun x => !inP x.line
               accs := s.accs.map fun a =>
                 match a.st, a.place with
                 | .replied v ws le d _, .mem pa => if inP (lineOf pa) then { a with st := .replied v ws le d false } else a
                 | _, _ => a }
    else (s.home.filter fun h => inP h.1).foldl (fun s h => backInval s h.1 .i) s
  { biasSet s (regGet s offBias).toNat host n p0 with biasRun := some (p0, n, host) }

/-- The remapping entry of an interface and vector, examined for an IRQ or for IRTSYNC (25 R325; 21 R273), once no bias command holds it
(25 R324). -/
def irtTake (s : State) (intf vec : Nat) (irq : Bool) : State :=
  let a := regField s offIrtbase 63 12 * 4096 + 16 * (32 * intf + vec)
  if regField s offIrtbase 0 0 = 0 then s
  else if wordsHeld s a 2 then holdWrite s (.irq intf vec irq)
  else
    let s := recallHost s a .s
    let w0 := memRead s 0 a 8
    let w1 := memRead s 0 (a + 8) 8
    let func := (qif s intf).func
    if !bit w1 33 || 3 < func then s
    else if bit w1 34 then (if irq then (physStore s 0 (a + 8) 8 (w1 ||| 2 ^ 35) 0).1 else s)
    else if !irq && !bit w1 35 then s
    else
      let s := if bit w1 35 then (physStore s 0 (a + 8) 8 (w1 - 2 ^ 35) 0).1 else s
      { s with outbox := s.outbox ++ [.msi (func / 2) (BitVec.ofNat 64 (w0 / 4 * 4)) (BitVec.ofNat 32 w1)] }

/-- HALT of DBGATTk: the groups of the context, stopped ones too, are to stop (29 R347). -/
def haltAll (s : State) (pasid : BitVec 20) : State :=
  { s with groups := s.groups.map fun g => if g.pasid == pasid then { g with halt := true, haltCyc := if g.halt then g.haltCyc else 0 } else g }

/-- EN := 1 of TRCTL: PAD to the next multiple of 4,096, then a SYNC with its GSTATE records (29 R351, R352). -/
def traceStart (s : State) (core : Nat) : State :=
  let s := tracePad s core
  let gs := gstates s core
  traceList s core ([1 + core * 2 ^ 8 + gs.length % 256 * 2 ^ 16, (dtime s (dieOf core)).toNat] :: gs)

/-- A store with GO that waits until the running command has completed (17 R237; 25 R319, R324). -/
def regWaits (s : State) (off : Nat) (v : W64) : Bool :=
  v.getLsbD 0 &&
    ((off == offInvCmd && 16 ≤ s.invs.length) || (off == offRevoke && s.revoking.isSome) || (off == offBiascmd && s.biasRun.isSome))

/-- A store of GO to the mailbox while a request is unanswered: it is not performed, and the earlier request is answered alone
(31 R361). -/
def mboxBusy (s : State) (off : Nat) (v : W64) : Bool := off == offMbox && v.getLsbD 0 && (regGet s offMbox).getLsbD 0

/-- A write of eight bytes to the register at an offset is performed (00 R9; 31 R360), with the command it starts. -/
def writeReg (s : State) (off : Nat) (v : W64) : State :=
  if mboxBusy s off v then s else
  let s := regStore s off v
  let x := (regGet s off).toNat
  let go := v.getLsbD 0
  let pasid : BitVec 20 := fld 20 63 44 x
  if off = offFresCmd then
    (if go then fresGo s pasid (regGet s offFresVa).toNat (bits x 43 20) (bits x 19 18 == 1) (bit x 17) (1 < bits x 19 18) else s)
  else if off = offInvCmd then
    (if go then invGo s ⟨fld 2 19 18 x, pasid, (regGet s offInvVa).toNat, bits x 43 20, bit x 17, []⟩ else s)
  else if off = offRevoke then (if go then { s with revoking := some (pasid, fld 4 43 40 x) } else s)
  else if off = offBiascmd then (if go then biasGo s else s)
  else if off = offMbox then (if go then regSet s offMbox (regGet s offMbox ||| 1) else s)
  else if off = offIrtsync then irtTake s (bits v.toNat 7 0) (bits v.toNat 12 8) false
  else if off = offDacc then (if go then daccRun s x else s)
  else if 0x40000 ≤ off ∧ off < 0x41000 ∧ off % 0x400 = 0 then
    let s := if regField s off 0 0 = 1 then { s with dbgSeen := true } else s
    if v.getLsbD 2 then haltAll s pasid else s
  else if 0x100000 ≤ off ∧ off < 0x140000 ∧ off % 0x1000 = 0 then
    (if go then traceStart s ((off - 0x100000) / 0x1000) else s)
  else if 0x1000 ≤ off ∧ off < 0x1020 then tryWrite s ((off - 0x1000) / 8)
  else if 0x10000 ≤ off ∧ off < 0x14000 then queueWake s
  else s

/-- A register store of a program: it is performed at once, or waits with the stores of its group that wait already. -/
def storeReg (s : State) (a : Acc) (off : Nat) : State :=
  if regWaits s off a.data || s.accs.any fun b => b.gid == a.gid && b.ent == 16 && b.sys then
    { s with accs := s.accs ++ [a] }
  else writeReg s off a.data

/-- Waiting register stores are performed in order, each once its command may start. -/
def retryRegs (s : State) : Nat → Nat → State
  | 0, _ => s
  | fuel + 1, k =>
    match s.accs[k]? with
    | none => s
    | some a =>
      match a.place with
      | .mem pa =>
        if a.ent = 16 && a.sys && a.op = .store && !regWaits s (pa - Config.regBase) a.data then
          retryRegs (writeReg (dropAcc s k) (pa - Config.regBase) a.data) fuel k
        else retryRegs s fuel (k + 1)
      | _ => retryRegs s fuel (k + 1)

/-- A command has completed: stores that waited for it go on. -/
def commandEnd (s : State) : State := retryRegs s s.accs.length 0

/-- A write of a unit that has waited for a bias command is performed (25 R324); PREPARE messages follow (`preparesGo`). -/
def heldGo (s : State) : HeldWrite → State
  | .words pa ws => (devWriteWords s 0 pa ws).1
  | .chime c n x stamp drops => chimeSignal s c n x stamp drops
  | .ctx c v => setCtxState s c v
  | .irq intf vec irq => irtTake s intf vec irq
  | .prepare .. => s

/-- A bias command has completed: what waited for it is performed, in order, and batches, rings and register stores go on (25 R324). -/
def biasEnd (s : State) : State :=
  let s := s.biasQ.foldl heldGo { s with biasRun := none, biasQ := [] }
  commandEnd (queueWake ((List.range 4).foldl tryWrite s))

end Sys2Proof.Machine
end

