-- ==== Sys2Proof/Machine/Transfer.lean ====
section
/-! DEFINITION. How memory instructions send their accesses, wait for them and finish (13 R162, R163, R165; 15 R186), and how
stores are made. -/

namespace Sys2Proof.Machine

/-- The parts of an access of n bytes: one of n, or two of eight for n = 16. -/
def partsOf (n : Nat) : List Nat := if n = 16 then [0, 1] else [0]

/-- The permissions that a line takes with the tag of an access to it: none where no line is cached (13 R158). -/
def reqPerm (c : Ctx) (q : Req) : BitVec 4 :=
  match q.place with
  | .mem _ => tagPerm c.s c.g.core c.g.pasid q.x
  | _ => 0

/-- An access as it is sent. `waits` says that its entry waits for it. -/
def newAcc (c : Ctx) (q : Req) (part n : Nat) (op : AccOp) (data : W64) (waits nt acq renew : Bool) : Acc :=
  { accOf c.g (if waits then c.e else 16) q.lane q.x q.place part n op data nt acq renew false with perm := reqPerm c q }

/-- The outstanding accesses of the issuing entry. -/
def ofEntry (c : Ctx) (a : Acc) : Bool := a.gid == c.g.gid && a.ent == c.e

/-- The stamp an ended access gives lt. -/
def accStamp (a : Acc) : Nat :=
  match a.st with
  | .done _ t _ _ => t
  | _ => 0

/-- A load read under a lease that ended before `lt` (13 R165). -/
def accStale (lt : Nat) (a : Acc) : Bool :=
  match a.st with
  | .done _ _ le _ => a.op == .load && le < lt
  | _ => false

/-- The cause of an access that failed (17 R220). -/
def accCause (a : Acc) : Option (Nat × Cause) :=
  match a.st with
  | .failed code info => some (a.lane, if code = 0x0602 then causeRemote (addr64 a.va) else causeEcc info (addr64 a.va))
  | _ => none

/-- The value a lane's accesses returned. -/
def accVal (as : List Acc) (l : Nat) : Nat :=
  as.foldl (fun v a => if a.lane == l then
    match a.st with
    | .done x _ _ _ => v + x.toNat * 2 ^ (64 * a.part)
    | _ => v else v) 0

/-- Whether a lane's access had its effect: an SC that wrote. -/
def accOk (as : List Acc) (l : Nat) : Bool :=
  as.any fun a => a.lane == l && match a.st with | .done _ _ _ ok => ok | _ => false

/-- The lanes of a list of accesses, each once. -/
def accLanes (as : List Acc) : List Nat := dedup (as.map (·.lane))

/-- What a finished instruction does with its accesses. -/
abbrev Settle := Ctx → List Acc → State

/-- The entry issues its instruction again: on an L-core a load read under a lease that has ended (13 R165), or an operand of it has
changed (09 R102). -/
def replayLoad (c : Ctx) : State := setGroup c.s c.g

/-- A load of the instruction read under a lease that has ended, on an L-core (13 R165). -/
def staleLoad (c : Ctx) (as : List Acc) : Bool := formL c.g && as.any (accStale c.g.lt)

/-- lt takes the stamps of finished accesses (13 R161), and the group notes what its loads have read (13 R176; assumption 70). -/
def joinAccs (g : Group) (as : List Acc) : Group :=
  { g with lt := maxList g.lt (as.map accStamp), rlt := maxList g.rlt (as.map (·.rst)) }

/-- Every access of the instruction has ended: a failure traps (17 R220); on an L-core a stale load makes the instruction issue again;
else lt takes the stamps and `fin` retires it. -/
def settleAccs (fin : Settle) (c : Ctx) (as : List Acc) : State :=
  let bad := as.filterMap accCause
  if !bad.isEmpty then orTrap { c with hint := 0, g := dropOwn c.g c.tok } 0 bad fun c => c.s
  else if staleLoad c as then replayLoad c
  else fin { c with g := joinAccs c.g as } as

/-- The uniform operands of an instruction that waits for accesses: its address register, offset and uniform guard (09 R103). -/
def seenOf (r : Group) (i : Instr) : Seen :=
  let q := if (guardOf i).2 then [getQ r (guardOf i).1.toNat] else []
  match i with
  | .ldReg _ _ _ a _ => ⟨[], [getA r a.toNat], q⟩
  | .ldImm _ _ _ a _ => ⟨[], [getA r a.toNat], q⟩
  | .ldNt _ _ _ a _ => ⟨[], [getA r a.toNat], q⟩
  | .ldOrdered _ _ a .. => ⟨[], [getA r a.toNat], q⟩
  | .ldsImm _ _ _ a _ => ⟨[], [getA r a.toNat], q⟩
  | .ldsReg _ _ _ a b => ⟨[getS r b.toNat], [getA r a.toNat], q⟩
  | .jtb _ _ b => ⟨[], [getA r b.toNat], q⟩
  | .ret _ => ⟨[], [getA r 15], q⟩
  | _ => ⟨[], [], q⟩

/-- The group while the issuing entry waits: the entry is busy, and what its instruction has read, with the causes it has found, is kept
for the issue that takes its accesses up; a word with S = 1 parks the group (05 R69). -/
def busyGroup (c : Ctx) : Group :=
  sBit (setEnt { c.g with flights := mapPut noFlight c.g.flights c.e ⟨c.w0, c.w1, c.on, c.hint, c.tok, seenOf c.r c.i, c.cs⟩ } c.e
    { entAt c.g c.e with busy := true }) c.i

/-- Send accesses, whose results `ds` take their place in the order of writes (03 R49). The instruction finishes at once if none is
open, else its entry waits. -/
def sendAccs (c : Ctx) (as : List Acc) (ds : List Dest) (settle : Settle) : State :=
  let c := { c with g := openPend c.g c.tok ds }
  if as.any accOpen then
    let (s, as) := sendRemotes c.s as
    setGroup { s with accs := s.accs ++ as } (busyGroup c)
  else settle c as

/-- The instruction of a busy entry reads, modifies and writes memory. -/
def isRmw (as : List Acc) : Bool :=
  as.any fun a => match a.op with | .amo .. => true | .lr => true | .sc => true | _ => false

/-- The group with the issuing entry no longer busy. -/
def idleGroup (c : Ctx) : Group :=
  setEnt { c.g with flights := mapPut noFlight c.g.flights c.e noFlight } c.e { entAt c.g c.e with busy := false }

/-- The accesses of a waiting entry: go on waiting, or take them up. An L-core's instruction takes its place among those of its group
when it retires (09 R102): a load whose uniform operands have changed since it was sent issues again. -/
def takeAccs (c : Ctx) (settle : Settle) : State :=
  let as := c.s.accs.filter (ofEntry c)
  if as.any accOpen then c.s
  else
    let old := (mapGet noFlight c.g.flights c.e).seen
    let c := { c with s := { c.s with accs := c.s.accs.filter fun a => !ofEntry c a }, g := idleGroup c }
    if formL c.g && !isRmw as && seenOf c.g c.i != old then replayLoad c else settle c as

/-- An instruction that sends accesses at its first issue and takes them up later. -/
def withAccs (c : Ctx) (first : Ctx → State) (settle : Settle) : State :=
  if (entAt c.g c.e).busy then takeAccs c settle else first c

/-- A load of one part as it is sent: the register window and an L1 hit answer at once (13 R162; 31 R360). `home` asks for
the home branch. An acquire that an L1 hit serves with bytes of the core's buffer takes the stamp that those stores were made under
(13 R158, R172, R174, R176; assumption 70). -/
def loadAcc (c : Ctx) (q : Req) (n part : Nat) (sys home nt acq : Bool) : Acc :=
  let a := { newAcc c q part n .load 0 true nt acq false with sys := sys }
  match a.place with
  | .mem pa =>
    if inRegs pa then { a with st := .done (regRead c.s (pa - Config.regBase)) 0 (2 ^ 64) true }
    else if home || sys then { a with renew := !sys && wantsRenewal c.s c.g.core pa c.g.lt }
    else
      match l1Hit c.s c.g.core c.g.pasid pa a.n c.g.lt with
      | some (v, ws, le) =>
        let t := bufferedLt c.s c.g.core (pasidKey c.s c.g.pasid) pa a.n
        { a with rst := t, st := .done (BitVec.ofNat 64 v) (if acq then max ws t else ws) le true }
      | none => { a with renew := wantsRenewal c.s c.g.core pa c.g.lt }
  | .remote _ _ => if noRoute c.s a.place then { a with st := .failed 0x0602 0 } else a
  | _ => a

/-- Lines that L1 hits find under another tag move to the tag of the access (13 R159). -/
def retagAll (c : Ctx) (as : List Acc) : Ctx :=
  { c with s := as.foldl (fun s a =>
      match a.st, a.place with
      | .done .., .mem pa => if a.sys then s else retag s c.g.core c.g.pasid pa a.va a.perm
      | _, _ => s) c.s }

/-- Loads of n bytes in the lanes of the requests. -/
def sendLoads (c : Ctx) (qs : List Req) (n : Nat) (sys home nt acq : Bool) (ds : List Dest) (settle : Settle) : State :=
  let as := qs.flatMap fun q => (partsOf n).map fun p => loadAcc c q n p sys home nt acq
  sendAccs (retagAll c as) as ds settle

/-- One part of a store at retirement (13 R156, R158, R163; 25 R321, R327; 31 R360): to a register, or as a store of the group. -/
def storePart (c : Ctx) (q : Req) (n part : Nat) (v : Nat) (sys nt : Bool) : Ctx :=
  let a := { newAcc c q part n .store (BitVec.ofNat 64 (v / 2 ^ (64 * part))) false nt false false with sys := sys }
  match a.place with
  | .mem pa =>
    if inRegs pa then { c with s := storeReg c.s a (pa - Config.regBase) }
    else let (s, g) := groupStore c.s c.g a; { c with s := s, g := g }
  | _ => let (s, g) := groupStore c.s c.g a; { c with s := s, g := g }

/-- Stores of n bytes, ascending lanes; `val` gives each lane's value (15 R186). A register command may change groups, so
the group is read back. -/
def storeAll (c : Ctx) (qs : List Req) (n : Nat) (sys nt : Bool) (val : Nat → Nat) : Ctx :=
  let c' := qs.foldl (fun c q => (partsOf n).foldl (fun c p => storePart c q n p (val q.lane) sys nt) c) c
  if sys then
    match getGroup c'.s c'.g.gid with
    | some g => { c' with g := { g with lt := max g.lt c'.g.lt } }
    | none => c'
  else c'

/-- The space of an address register is the system space. -/
def isSys (a : AReg) : Bool := a.space == 2

/-- A load at this order and scope takes the home branch (13 R162, R172; 15 R190). -/
def loadHome (c : Ctx) (sc : Scope) : Bool := wideScope c.s c.g sc

/-- A running bias command holds some of the system-space stores of an instruction, which wait at issue (25 R324): other stores leave
their core by a buffer that waits itself. -/
def storesHeld (c : Ctx) (ar : AReg) (qs : List Req) (n : Nat) : Bool := isSys ar && qs.any fun q => placeHeld c.s q.place n

/-- Sign or zero extension of a loaded value to the registers it fills (15 R187). -/
def extendLoad : LdSize → Nat → Nat
  | .i8, v => (BitVec.ofInt 32 (BitVec.ofNat 8 v).toInt).toNat
  | .i16, v => (BitVec.ofInt 32 (BitVec.ofNat 16 v).toInt).toNat
  | _, v => v

/-- The memory levels of ended accesses (29 R356): what reads, modifies and writes does so at home. -/
def accLevels (as : List Acc) : List Nat := as.flatMap fun a => (levelsOf a.core a.place).filter fun l => !isRmw [a] || l != 1

/-- The memory levels of requests (29 R356). -/
def reqLevels (core : Nat) (qs : List Req) : List Nat := qs.flatMap fun q => levelsOf core q.place

/-- Retire after memory accesses. -/
def retireMem (c : Ctx) (mem : List Nat) (g : Group) : State := retireAt c c.s g mem

/-- A vector load retires: every lane's value into D and the registers after it (15 R187). -/
def finLoad (d : Nat) (sz : LdSize) (c : Ctx) (as : List Acc) : State :=
  retireMem c (accLevels as) ((accLanes as).foldl (fun g l => fillVn g c.tok d l (ldRegs sz) (extendLoad sz (accVal as l))) c.g)

/-- The lane registers that results of `n` registers from `d` fill in the lanes of requests. -/
def reqDests (d n : Nat) (qs : List Req) : List Dest := qs.flatMap fun q => runDests d q.lane n

/-- LD in every form: check, split page faults, send (15 R187, R190). -/
def vload (c : Ctx) (d a : Nat) (off : Nat → Int) (sz : LdSize) (home nt acq : Bool) : State :=
  withAccs c (fun c =>
    let ar := getA c.r a
    let (c, cs, qs) := gather c c.on ar off (ldBytes sz) .load
    orTrap c 1 cs fun c => sendLoads c (stillOn c qs) (ldBytes sz) (isSys ar) home nt acq
      (reqDests d (ldRegs sz) (stillOn c qs)) (settleAccs (finLoad d sz))) (settleAccs (finLoad d sz))

/-- The value of `n` bytes in a run of lane registers, low word first (05 R58). -/
def runVal (g : Group) (r l : Nat) : Nat → Nat
  | 0 => 0
  | n + 1 => (getV g r l).toNat + 2 ^ 32 * runVal g (r + 1) l n

/-- ST in every form (15 R187, R190); a release waits first (13 R172). -/
def vstore (c : Ctx) (d a : Nat) (off : Nat → Int) (sz : StSize) (nt : Bool) (rel : Option Scope) : State :=
  let ar := getA c.r a
  let n := stBytes sz
  let (c, cs, qs) := gather c c.on ar off n .store
  orTrap c 2 cs fun c =>
    let go := fun (c : Ctx) =>
      let ls := reqLevels c.g.core (stillOn c qs)
      let c := storeAll c (stillOn c qs) n (isSys ar) nt fun l => runVal c.r d l (stRegs sz) % 2 ^ (8 * n)
      retireMem c ls c.g
    if storesHeld c ar (stillOn c qs) n then againFar c else match rel with
    | some sc => withRelease c sc go
    | none => go c

/-- A read-modify-write access as it is sent; one that no route serves has failed already (25 R327). -/
def rmwAcc (c : Ctx) (q : Req) (n : Nat) (op : AccOp) (data : W64) : Acc :=
  let a := newAcc c q 0 n op data true false false false
  if noRoute c.s a.place then { a with st := .failed 0x0602 0 } else a

/-- AMO, LR and SC: check, release, send in ascending lane order, and finish (13 R167, R168; 15 R191, R192). -/
def vrmw (c : Ctx) (a b n : Nat) (kind : AccessKind) (rel : Option Scope) (op : Group → Nat → AccOp × W64)
    (ds : List Req → List Dest) (fin : Settle) : State :=
  withAccs c (fun c =>
    let (c, cs, qs) := gather c c.on (getA c.r a) (fun l => (getV c.r b l).toInt) n kind
    orTrap c 3 cs fun c =>
      let go := fun (c : Ctx) =>
        sendAccs c ((stillOn c qs).map fun q => rmwAcc c q n (op c.r q.lane).1 (op c.r q.lane).2) (ds (stillOn c qs))
          (settleAccs fin)
      match rel with
      | some sc => withRelease c sc go
      | none => go c) (settleAccs fin)

/-- The release scope of an ordered access, if it releases. -/
def relScope (o : Order) (sc : Scope) : Option Scope := if isRel o then some sc else none

end Sys2Proof.Machine
end

