-- ==== Sys2Proof/Machine/Engine.lean ====
section
/-! DEFINITION. Barrier operands (15 R196), layout records (15 R199, R200), and engine copies: their checks at issue and the
movement of their elements (15 R198 to R205; 13 R179; 19 R262). -/

namespace Sys2Proof.Machine

/-- The vault key of a barrier operand whose bytes lie in its register's range and in a vault; ownership apart (15 R196). -/
def barKey (c : Ctx) (ar : AReg) : Option Nat :=
  let x := ar.ptr.toNat
  if ar.space = 1 && x % 64 == 0 && ar.base.toNat ≤ x && x + 64 ≤ ar.limit.toNat then
    match vaultPlace c.s c.g.team c.g.core c.g.pasid true x 64 ar.ptr with
    | .ok key => some key
    | .error _ => none
  else none

/-- The causes of a barrier operand (15 R196): `need` is the PERM bit, `valid` asks for VALID = 1, `more` is a BOUNDS condition of the
instruction on the object. -/
def barCauses (c : Ctx) (ar : AReg) (need : Nat) (valid : Bool) (more : Nat → Bool) : List Cause :=
  let x := ar.ptr.toNat
  let a := ar.ptr
  (if x % 64 ≠ 0 then [causeAlign a] else []) ++
    (if x < ar.base.toNat || ar.limit.toNat < x + 64 then [causeBounds a] else []) ++
    (if ar.space = 1 then
      match vaultPlace c.s c.g.team c.g.core c.g.pasid c.g.sys x 64 a with
      | .error e => [e]
      | .ok _ => []
    else [causePerm a]) ++
    (match barKey c ar with
    | some key => if valid && !(readBar c.s key).valid || more key then [causeBounds a] else []
    | none => []) ++
    (if ar.perm.getLsbD need then [] else [causePerm a])

/-- A system-space register used in user mode (13 R152; 15 R207). -/
def sysPriv (c : Ctx) (ar : AReg) : List Cause := if ar.space = 2 && !c.g.sys then [causePriv] else []

/-- The barrier an engine or matrix operation names (15 R196, R198): its causes with E in place of W. -/
def opBar (c : Ctx) (ar : AReg) : List Cause := barCauses c ar 3 true fun _ => false

/-- Earlier vault accesses of the core to the barrier's bytes have not been performed (13 R156). -/
def barBusy (c : Ctx) (ar : AReg) : Bool :=
  match barKey c ar with
  | some key => placeBusy c.s c.g (.vault key) 64
  | none => false

/-- The layout record of 64 bytes (15 R199). -/
def layoutOf (x : Nat) : Layout :=
  { strides := 2 ^ bits x 1 0 :: (List.range 4).map fun i => bits x (391 + 40 * i) (352 + 40 * i)
    dims := (List.range 5).map fun i => bits x (223 + 32 * i) (192 + 32 * i)
    boxes := (List.range 5).map fun i => bits x (127 + 16 * i) (112 + 16 * i)
    fill := BitVec.ofNat 32 (bits x 111 80), metaOff := bits x 79 40, sparse := bits x 15 14, oob := bits x 13 12
    playout := bits x 9 8, rank := bits x 6 4, esize := bits x 1 0 }

/-- Element size of a record. -/
def esOf (l : Layout) : Nat := 2 ^ l.esize

/-- Box size nb_i (15 R199). -/
def nbOf (l : Layout) (i : Nat) : Nat := l.boxes.getD i 0 + 1

/-- DIM_i. -/
def dimOf (l : Layout) (i : Nat) : Nat := l.dims.getD i 0

/-- Product of the box sizes below dimension `n`. -/
def boxProd (l : Layout) : Nat → Nat
  | 0 => 1
  | n + 1 => boxProd l n * nbOf l n

/-- Elements of the box. -/
def boxCount (l : Layout) : Nat := boxProd l l.rank

/-- Coordinate b_i of the element at row-major index `el`. -/
def boxAt (l : Layout) (el i : Nat) : Nat := el / boxProd l i % nbOf l i

/-- The reserved bits of a record are zero (15 R199). -/
def layoutRsv (x : Nat) : Bool := bits x 39 16 == 0 && bits x 11 10 == 0 && bits x 7 7 == 0 && bits x 3 2 == 0

/-- The record is valid for an instruction; `cpin` says that it is XCP.in (15 R200). -/
def layoutOk (x : Nat) (cpin : Bool) : Bool :=
  let l := layoutOf x
  layoutRsv x && 1 ≤ l.rank && l.rank ≤ 5 && l.oob ≤ 1 && l.playout ≤ 2 && l.sparse ≤ 2 &&
    ((l.sparse != 0) == (l.playout == 2)) && (l.metaOff == 0 || l.playout == 2) &&
    ((List.range 5).all fun i =>
      if i < l.rank then dimOf l i != 0
      else dimOf l i == 0 && l.boxes.getD i 0 == 0 && (i == 0 || l.strides.getD i 0 == 0)) &&
    (l.strides.all fun t => t % esOf l == 0) && esOf l * boxCount l ≤ 67108864 &&
    (l.playout == 0 || (nbOf l 0 ≤ 256 && l.boxes.getD 2 0 == 0 && l.boxes.getD 3 0 == 0 && l.boxes.getD 4 0 == 0 && cpin))

/-- The element's tensor coordinates (15 R201). -/
def coord (l : Layout) (org : List Int) (el i : Nat) : Int := org.getD i 0 + boxAt l el i

/-- The coordinates lie in the tensor. -/
def inBounds (l : Layout) (org : List Int) (el : Nat) : Bool :=
  (List.range l.rank).all fun i => 0 ≤ coord l org el i && coord l org el i < dimOf l i

/-- Byte offset of an element from aA.PTR (15 R201). -/
def elemOff (l : Layout) (org : List Int) (el : Nat) : Int :=
  (List.range l.rank).foldl (fun t i => t + (l.strides.getD i 0 : Int) * coord l org el i) 0

/-- Lowest and highest in-bounds offsets of the box, if any element is in bounds: by dimension (15 R201). -/
def elemSpan (l : Layout) (org : List Int) : Option (Int × Int) :=
  (List.range l.rank).foldl (fun (a : Option (Int × Int)) i =>
    match a with
    | none => none
    | some (lo, hi) =>
      let c := org.getD i 0
      let x0 := max c 0
      let x1 := min (c + nbOf l i - 1) ((dimOf l i : Int) - 1)
      if x1 < x0 then none
      else some (lo + (l.strides.getD i 0 : Int) * x0, hi + (l.strides.getD i 0 : Int) * x1)) (some (0, 0))

/-- Stored values per group of 128 positions of a sparse-packed copy (19 R262). -/
def sparseN (l : Layout) : Nat := if l.sparse = 1 then 64 else 32

/-- Elements an operation moves, the masks of a sparse-packed copy after its values. -/
def opCount : OpKind → Nat
  | .xcpIn _ _ _ l _ => boxCount l + (if l.playout = 2 then nbOf l 0 * (nbOf l 1 / sparseN l) else 0)
  | .xcpOut _ _ _ l _ => boxCount l
  | .xcpV _ _ n => n / 4
  | .xgath _ _ l rows => rows.length * nbOf l 0
  | .xred _ _ _ _ l _ => boxCount l

/-- How a burst ends: parked on a page with the address and access kind, a fault code, waiting for its home, with an element read,
or done with the bytes delivered and their stamp. -/
inductive Burst where
  | page (f : PageFault) (addr : Nat) (acc : BitVec 4)
  | fault (code : BitVec 16)
  | wait
  | got (v : Nat)
  | done (bytes stamp : Nat)
deriving DecidableEq, Repr

/-- A step of a burst: its answer, or how the burst ends there. -/
abbrev Bursting (α : Type) := State × Except Burst α

/-- Where an operation finds an address of a space; vault addresses were checked at issue (13 R154), global ones are
translated by the cluster translation unit (13 R159; 15 R205). An access to a line that a bias command holds waits (25 R324). -/
def engPlace (s : State) (team core : Nat) (pasid : BitVec 20) (denied : Option PageFault) (space : Nat) (x : Int) (n need : Nat) :
    Bursting Place :=
  let v := x.toNat
  if space = 1 then
    match vaultPlace s team core pasid true v n 0 with
    | .ok key => (s, .ok (.vault key))
    | .error _ => (s, .error (.fault 0x0302))
  else if 2 ^ 63 ≤ v then (s, .ok (.remote (bits v 62 43) (bits v 42 0)))
  else
    let (r, s) := xlate s core pasid v need
    (s, match r with
      | .error (.page p s2) =>
        if denied.isSome then .error (.fault 0x0304)
        else .error (.page ⟨pasid, p, s2, false, false⟩ v (if need = 1 then 5 else if need = 2 then 6 else 7))
      | .error (.perm _) => .error (.fault 0x0304)
      | .error (.ecc _) => .error (.fault 0x0601)
      | .ok y =>
        if denied.isSome then .error (.fault 0x0304)
        else if inHost y.pa then .ok (.host y.pa)
        else if biasHeld s (lineOf y.pa) then .error .wait
        else .ok (.mem y.pa))

/-- The answer of another device to one access performed at once: this device's own as a loopback, else any answer (assumption 2), REMOTE
or, for a read, an uncorrectable error there too (25 R327 to R330; assumption 87). -/
def engRemote (s : State) (core dev win n lt : Nat) (op : RemoteOp) : State × Remote :=
  if dev = devid s then atTarget s win n win n lt op
  else if (routeOf s dev).isNone then (s, .error .remote)
  else
    let s := askRemote s core dev win n lt op
    let (ok, s) := drawBit s
    let (bad, s) := drawNat s
    let (v, s) := drawWord s
    let (t, s) := drawNat s
    let read := match op with | .store _ => false | _ => true
    if ok then (s, .ok (v.toNat % 2 ^ (8 * n), t % 2 ^ 48))
    else if read && bad % 4 != 3 then (s, .error (.ecc (BitVec.ofNat 16 (bad % 4))))
    else (dropIncn s (dieOf core) dev win, .error .remote)

/-- Read `n` bytes for an operation. -/
def engRead (s : State) (core key lt : Nat) (p : Place) (n : Nat) : Bursting Nat :=
  match p with
  | .vault k => if s.vpoison.contains (k / 128) then (s, .error (.fault 0x0601)) else (s, .ok (vaultRead s k n))
  | .mem pa =>
    if s.poison.contains (lineOf pa) then (s, .error (.fault 0x0601))
    else let (s, v, _) := physLoad s key pa n lt; (s, .ok v)
  | .host pa => (s, .ok (memRead s 0 pa n))
  | .remote d w =>
    if remoteHeld s d w n .load then (s, .error .wait)
    else
      let (s, r) := engRemote s core d w n lt .load
      (s, match r with | .ok (v, _) => .ok v | .error e => .error (.fault (remCode e).1))

/-- Write `n` bytes for an operation; answers the stamp. -/
def engWrite (s : State) (core key lt : Nat) (p : Place) (n v : Nat) : Bursting Nat :=
  match p with
  | .vault k => let s := vaultWrite s k n v lt; (s, .ok (vsAt s k))
  | .mem pa => let (s, ws) := physStore s key pa n v lt; (s, .ok ws)
  | .host pa => let s := hostPut s pa n v lt; (s, .ok (hostStamp s pa))
  | .remote d w =>
    let op := .store (BitVec.ofNat 128 v)
    if remoteHeld s d w n op then (s, .error .wait)
    else
      let (s, r) := engRemote s core d w n lt op
      (s, match r with | .ok (_, t) => .ok t | .error e => .error (.fault (remCode e).1))

/-- XRED's atomic add at an element's place, stamped as an AMO (15 R204; 13 R167); answers the stamp. -/
def engAdd (s : State) (core key lt : Nat) (p : Place) (n : Nat) (ty : XredTy) (x : Nat) : Bursting Nat :=
  match p with
  | .remote d w =>
    let op := .red ty (BitVec.ofNat 64 x)
    if remoteHeld s d w n op then (s, .error .wait)
    else
      let (s, r) := engRemote s core d w n lt op
      (s, match r with | .ok (_, t) => .ok t | .error e => .error (.fault (remCode e).1))
  | .mem pa =>
    if s.poison.contains (lineOf pa) then (s, .error (.fault 0x0601))
    else
      let s := backInval s (lineOf pa) .i
      let (s, ws) := physStore s key pa n (xredAdd ty (memRead s key pa n) x) lt
      (s, .ok ws)
  | .vault k =>
    if s.vpoison.contains (k / 128) then (s, .error (.fault 0x0601))
    else engWrite s core key lt p n (xredAdd ty (vaultRead s k n) x)
  | .host pa => engWrite s core key lt p n (xredAdd ty (memRead s 0 pa n) x)

/-- Go on with the answer of a step of a burst. -/
def burstBind {α β : Type} (x : Bursting α) (f : State → α → Bursting β) : Bursting β :=
  match x.2 with
  | .error e => (x.1, .error e)
  | .ok a => f x.1 a

/-- The key an operation's global data are encrypted with (31 R362). -/
def opKey (s : State) (o : Op) : Nat := pasidKey s o.pasid

/-- The place of an address of an operation's side. -/
def opPlace (s : State) (o : Op) (p : Side) (x : Int) (n need : Nat) : Bursting Place :=
  engPlace s o.team o.core o.pasid o.denied p.space x n need

/-- Read `n` bytes at an address of a side. -/
def opRead (s : State) (o : Op) (p : Side) (x : Int) (n : Nat) : Bursting Nat :=
  burstBind (opPlace s o p x n 1) fun s q => engRead s o.core (opKey s o) o.lt q n

/-- Read `n` single bytes from an address of a side on, the first lowest. -/
def opBytes (s : State) (o : Op) (p : Side) (x : Int) : Nat → Bursting Nat
  | 0 => (s, .ok 0)
  | n + 1 =>
    burstBind (opRead s o p x 1) fun s b => burstBind (opBytes s o p (x + 1) n) fun s v => (s, .ok (b + 256 * v))

/-- The vault key of slice `k` of an operation's packed side, at `off` bytes past its place in the slice (15 R201; 19 R262). -/
def sliceKey (p : Side) (k off : Nat) : Nat :=
  let t := p.vkey % Config.vaultSize
  p.vkey / Config.vaultSize * Config.vaultSize + (t / Config.sliceSize + k) * Config.sliceSize + t % Config.sliceSize + off

/-- Place of an element on the packed side of an operation (15 R201): row-major by address, column-sliced by key. -/
def packedPlace (s : State) (o : Op) (p : Side) (off : Nat) (l : Layout) (el need : Nat) : Bursting Place :=
  if l.playout = 0 then opPlace s o p (p.ptr + off + esOf l * el) (esOf l) need
  else (s, .ok (.vault (sliceKey p (boxAt l el 0) (esOf l * boxAt l el 1))))

/-- Fill value of an out-of-bounds element (15 R199). -/
def fillVal (l : Layout) : Nat := if l.oob = 1 then l.fill.toNat % 2 ^ (8 * esOf l) else 0

/-- An element of the tensor side, or its fill (15 R201, R203). -/
def tensorEl (s : State) (o : Op) (g : Side) (l : Layout) (org : List Int) (el : Nat) : Bursting Nat :=
  if inBounds l org el then opRead s o g (g.ptr + elemOff l org el) (esOf l) else (s, .ok (fillVal l))

/-- Mask `k` of the box of a sparse-packed copy, byte by byte; zero outside the tensor (19 R262). -/
def maskEl (s : State) (o : Op) (g : Side) (l : Layout) (org : List Int) (k : Nat) : Bursting Nat :=
  let n := sparseN l
  let x0 := org.getD 0 0 + (k % nbOf l 0 : Nat)
  let h := org.getD 1 0 / n + (k / nbOf l 0 : Nat)
  if x0 < 0 || (dimOf l 0 : Int) ≤ x0 || h < 0 || (dimOf l 1 : Int) ≤ h * n then (s, .ok 0)
  else opBytes s o g (g.ptr + l.metaOff + 16 * (x0 + (dimOf l 0 : Int) * h)) 16

/-- An operation moves nothing for this element: out of bounds on its way to the tensor (15 R201, R204). -/
def noMove (k : OpKind) (el : Nat) : Bool :=
  match k with
  | .xcpOut _ _ _ l org => !inBounds l org el
  | .xred _ _ _ _ l org => !inBounds l org el
  | _ => false

/-- Element `el` of an operation is read (15 R201 to R204). -/
def readEl (s : State) (o : Op) (el : Nat) : Bursting Nat :=
  match o.kind with
  | .xcpIn g _ _ l org => if el < boxCount l then tensorEl s o g l org el else maskEl s o g l org (el - boxCount l)
  | .xcpOut _ p off l _ => burstBind (packedPlace s o p off l el 1) fun s q => engRead s o.core (opKey s o) o.lt q (esOf l)
  | .xcpV src _ _ => engRead s o.core 0 o.lt (.vault (src + 4 * el)) 4
  | .xgath g _ l rows => tensorEl s o g l [0, rows.getD (el / nbOf l 0) 0] (el % nbOf l 0)
  | .xred _ _ p off l _ => burstBind (packedPlace s o p off l el 1) fun s q => engRead s o.core (opKey s o) o.lt q (esOf l)

/-- `n` bytes are written at a place: the bytes delivered, and their stamp. -/
def opWrite (s : State) (o : Op) (n v : Nat) (q : Place) : Bursting (Nat × Nat) :=
  burstBind (engWrite s o.core (opKey s o) o.lt q n v) fun s t => (s, .ok (n, t))

/-- The value read of element `el` of an operation is written (15 R201 to R204; 19 R262). -/
def writeEl (s : State) (o : Op) (el v : Nat) : Bursting (Nat × Nat) :=
  match o.kind with
  | .xcpIn _ p off l _ =>
    if el < boxCount l then burstBind (packedPlace s o p off l el 2) fun s q => opWrite s o (esOf l) v q
    else
      let k := el - boxCount l
      opWrite s o 16 v (.vault (sliceKey p (k % nbOf l 0) (esOf l * nbOf l 1 + 16 * (k / nbOf l 0))))
  | .xcpOut g _ _ l org =>
    burstBind (opPlace s o g (g.ptr + elemOff l org el) (esOf l) 2) fun s q => opWrite s o (esOf l) v q
  | .xcpV _ dst _ => opWrite s o 4 v (.vault (dst + 4 * el))
  | .xgath _ p l _ => burstBind (opPlace s o p (p.ptr + esOf l * el) (esOf l) 2) fun s q => opWrite s o (esOf l) v q
  | .xred ty g _ _ l org =>
    burstBind (opPlace s o g (g.ptr + elemOff l org el) (esOf l) 3) fun s q =>
      burstBind (engAdd s o.core (opKey s o) o.lt q (esOf l) ty v) fun s t => (s, .ok (esOf l, t))

/-- The burst of element `el` (15 R201 to R205): its read, or, once it has been read, its write (13 R178). -/
def moveEl (s : State) (o : Op) (el : Nat) : State × Burst :=
  if noMove o.kind el then (s, .done 0 0)
  else
    match o.got.find? fun x => x.1 == el with
    | none =>
      let (s, r) := readEl s o el
      (s, match r with | .ok v => .got v | .error e => e)
    | some x =>
      let (s, r) := writeEl s o el x.2
      (s, match r with | .ok y => .done y.1 y.2 | .error e => e)

/-- Change the operation of an identifier. -/
def updOp (s : State) (id : Nat) (f : Op → Op) : State :=
  { s with ops := s.ops.map fun o => if o.id == id then f o else o }

/-- A burst of operation `o` has ended: bytes wait to be counted, or the operation parks on a page with its two report
entries, or takes a fault (15 R205; 17 R226, R227). -/
def burstEnd (s : State) (o : Op) (el : Nat) : Burst → State
  | .wait => s
  | .got v => updOp s o.id fun o => { o with got := o.got ++ [(el, v)] }
  | .done n t => updOp s o.id fun o =>
      { o with got := o.got.filter fun x => x.1 != el, moved := o.moved ++ [el], undelivered := o.undelivered + n, stamp := max o.stamp t }
  | .fault code => updOp s o.id fun o => { o with fault := some code }
  | .page f addr acc =>
    let die := dieOf o.core
    let s := if batchTakes s die then addReport s die
        { report0 3 with a := o.barA, b := BitVec.ofNat 64 addr, pasid := o.pasid, count := 1,
                         core := BitVec.ofNat 6 o.core, acc := acc } else s
    let noted := batchTakes s die
    let s := if noted then addReport s die (pageReport f acc) else s
    updOp s o.id fun o => { o with park := some { f with recorded := noted } }

/-- One burst: element `el` of an operation that is neither parked nor faulted is read, and then written, once (15 R198). -/
def engineStep (s : State) (id el : Nat) : State :=
  match s.ops.find? fun o => o.id == id with
  | none => s
  | some o =>
    if o.park.isSome || o.fault.isSome || o.moved.contains el || opCount o.kind ≤ el then s
    else
      let (s, b) := moveEl s o el
      burstEnd s o el b

/-- Every element of an operation has moved, or a fault has stopped it. -/
def opMoved (o : Op) : Bool := o.fault.isSome || o.moved.length == opCount o.kind

/-- Every element of an operation has been read, or a fault has stopped it; XRED reads its destination as it writes it (13 R178;
15 R204). -/
def opHasRead (o : Op) : Bool :=
  opMoved o || match o.kind with
    | .xred .. => false
    | k => o.got.length + o.moved.length == opCount k

/-- The fault report of an operation after issue (15 R205; 17 R226). -/
def engineReport (s : State) (core : Nat) (pasid : BitVec 20) (barA : W64) (team grp : Nat) (code : BitVec 16) : State :=
  addReport s (dieOf core) { report0 4 with a := barA, b := teamGroup team grp, pasid := pasid,
                                            code := code, count := 1, core := BitVec.ofNat 6 core }

/-- A run of causes, the first of the lowest rank (17 R209). -/
def firstCause (cs : List Cause) : Option Cause :=
  (minList (cs.map (·.rank))).bind fun r => cs.find? fun x => x.rank == r

/-- The causes of an engine address register that lacks a space the instruction admits, or E (13 R155; 15 R198); for the matrix words too,
which raise no PRIV (19 R264). -/
def engReg (ar : AReg) (spaces : List Nat) : List Cause :=
  if ar.perm.getLsbD 3 && spaces.contains ar.space.toNat then [] else [causePerm ar.ptr]

/-- Bytes [x, x + n) do not lie in the range of a register (13 R155). -/
def outOfRange (ar : AReg) (x : Int) (n : Nat) : Bool := x < ar.base.toNat || (ar.limit.toNat : Int) < x + n

/-- Bytes [x, x + n) do not meet the BOUNDS conditions of the register's space (13 R153, R154). -/
def spaceBounds (c : Ctx) (ar : AReg) (x : Int) (n : Nat) : Bool :=
  n != 0 &&
    if ar.space = 1 then
      match vaultPlace c.s c.g.team c.g.core c.g.pasid true x.toNat n 0 with
      | .error _ => true
      | .ok _ => false
    else ar.space = 0 && x.toNat < 2 ^ 63 && 2 ^ 57 < x.toNat + n

/-- The BOUNDS checks of one range [x, x + n) (13 R153 to R155; 15 R201). An empty range, as an XCP.V of length zero has two, must begin in
the register's range all the same (DESIGN CHOICE, unsafe: R155 and R202 do not say; assumption 75). -/
def engHull (c : Ctx) (ar : AReg) (x : Int) (n : Nat) : List Cause :=
  if outOfRange ar x n || spaceBounds c ar x n then [causeBounds (addr64 x)] else []

/-- A vault range [x, x + n) that the context may not reach (13 R154). -/
def notOwned (c : Ctx) (ar : AReg) (x : Int) (n : Nat) : Bool :=
  ar.space == 1 && n != 0 &&
    match vaultPlace c.s c.g.team c.g.core c.g.pasid c.g.sys x.toNat n 0 with
    | .error e => e.rank == 6
    | .ok _ => false

/-- PERM if one of the ranges an operation accesses is not the context's (13 R154). -/
def engOwn (c : Ctx) (ar : AReg) (x : Int) (ps : List (Int × Nat)) : List Cause :=
  if ps.any fun p => notOwned c ar p.1 p.2 then [causePerm (addr64 x)] else []

/-- The BOUNDS and PERM checks of an operation whose accesses are the pieces `ps` in [x, x + n): the whole lies in the register's range, and
each piece meets the conditions of the space by itself (13 R154, R155; 15 R201, R204). -/
def engPieces (c : Ctx) (ar : AReg) (x : Int) (n : Nat) (ps : List (Int × Nat)) : List Cause :=
  (if outOfRange ar x n || ps.any fun p => spaceBounds c ar p.1 p.2 then [causeBounds (addr64 x)] else []) ++ engOwn c ar x ps

/-- All checks of one range an operation accesses (13 R153 to R155). -/
def engRange (c : Ctx) (ar : AReg) (x : Int) (n : Nat) : List Cause := engHull c ar x n ++ engOwn c ar x [(x, n)]

/-- Vault key of an address of a register in vault space, 0 elsewhere. -/
def vkeyOf (c : Ctx) (ar : AReg) (x : Int) : Nat :=
  if ar.space = 1 then
    match vaultPlace c.s c.g.team c.g.core c.g.pasid true x.toNat 1 0 with
    | .ok k => k
    | .error _ => 0
  else 0

/-- A side as an operation keeps it. -/
def sideOf (c : Ctx) (ar : AReg) (x : Int) : Side := ⟨ar.space.toNat, ar.ptr.toNat, vkeyOf c ar x⟩

/-- A new operation with the lanes whose threads issue it, forked at issue: the group's lt after a release at .dev (13 R179). -/
def newOp (c : Ctx) (s : State) (bar : Nat) (barA : W64) (k : W64 × OpKind) (lt : Nat) : State :=
  let s := { s with nextId := s.nextId + 1, ops := s.ops ++
    [{ id := s.nextId, kind := k.2, gid := c.g.gid, lanes := k.1, team := c.g.team, srTeam := c.g.srTeam, srGroup := c.g.srGroup
       core := c.g.core, pasid := c.g.pasid, sys := c.g.sys, bar := bar, barA := barA, lt := lt, got := [], moved := [], undelivered := 0, stamp := 0
       fault := none, charged := false, park := none, denied := none }] }
  barOpIssue s bar

/-- An access performed to its end at once: at its L1 or home, its vault, host port or target. -/
def accNow (s : State) (a : Acc) : State × Acc :=
  if !accOpen a then (s, a)
  else
    let k := s.accs.length
    let s := { s with accs := s.accs ++ [a] }
    let s := match a.place with
      | .vault key => performVault s k a key
      | .mem _ => let s := performLoad s k a; match s.accs[k]? with | some b => performReply s k b | none => s
      | .host _ => performLoad s k a
      | .remote d w => let (s, r) := engRemote s a.core d w a.n a.lt .load; performRemote s k a r
    ({ s with accs := s.accs.take k }, (s.accs[k]?).getD a)

/-- The read of a record of `n` bytes must wait (13 R156, R175, R181; 25 R324). -/
def recordBusy (c : Ctx) (q : Req) (n : Nat) : Bool := placeBusy c.s c.g q.place n || placeHeld c.s q.place n

/-- `n` bytes of a record at offset `off` of a request, read as one relaxed load at issue, or how that fails (15 R198; 21 R276, R284). -/
def readPart (c : Ctx) (q : Req) (off n : Nat) (sys : Bool) : Ctx × Except Cause Nat :=
  let (s, b) := accNow c.s (loadAcc c { q with x := q.x + off, place := placeAdd q.place off } n 0 sys false false false)
  let c := { c with s := s, g := joinAccs c.g [b] }
  (c, match accCause b with
    | some (_, e) => .error e
    | none => .ok (accVal [{ b with part := 0 }] b.lane))

/-- The bytes of a record, read as `words` relaxed loads of eight bytes at issue; none with the first failure (15 R198). -/
def readRecord (c : Ctx) (q : Req) (sys : Bool) (words : Nat) : Ctx × Except Cause Nat :=
  (List.range words).foldl (fun (x : Ctx × Except Cause Nat) k =>
    match x.2 with
    | .error e => (x.1, .error e)
    | .ok v =>
      let (c, r) := readPart x.1 q (8 * k) 8 sys
      (c, match r with | .error e => .error e | .ok y => .ok (v + y * 2 ^ (64 * k)))) (c, .ok 0)

/-- OPS, of 16 bits, leaves room for `n` more operations (15 R198). -/
def opsRoom (s : State) (key n : Nat) : Bool := (readBar s key).ops + n ≤ 65535

/-- OPS and the copy unit's pool of outstanding requests leave room for `n` more operations (15 R198); the pool holds one request of
each operation under way in the cluster (01 R27; assumption 71). -/
def barRoom (s : State) (core key n : Nat) : Bool :=
  opsRoom s key n && (s.ops.filter fun o => dieOf o.core == dieOf core).length + n ≤ Config.copyRequests

/-- Operations are forked: a release at .dev, the new operations with the group's lt, retirement; issue waits while OPS or the pool
leaves no room (13 R173, R179; 15 R198). -/
def forkOps (c : Ctx) (key : Nat) (barA : W64) (ks : List (W64 × OpKind)) : State :=
  if !barRoom c.s c.g.core key ks.length then again c
  else withFork c fun c => retireAt c (ks.foldl (fun s k => newOp c s key barA k c.g.lt) c.s) c.g
    (levelsOf c.g.core (.vault key))

/-- One operation for each active lane. -/
def laneOps (c : Ctx) (f : Nat → OpKind) : List (W64 × OpKind) :=
  (lanesOf c.g.w c.on).map fun l => (BitVec.twoPow 64 l, f l)

/-- The first cause of each active lane. -/
def laneCauses (c : Ctx) (f : Nat → List Cause) : List (Nat × Cause) :=
  (lanesOf c.g.w c.on).filterMap fun l => (firstCause (f l)).map fun x => (l, x)

/-- The checks of a record register for its 64 bytes that need no translation (13 R152 to R155; 15 R198). -/
def recCauses (c : Ctx) (ar : AReg) : List Cause :=
  let a := ar.ptr
  sysPriv c ar ++ (if a.toNat % 64 ≠ 0 then [causeAlign a] else []) ++ engRange c ar a.toNat 64 ++ (if ar.perm.getLsbD 0 then [] else [causePerm a])

/-- An engine copy with a record: step 2 checks of each lane (`pre`), the record read, step 4 checks (`post`), and the
operations (`mk`) (15 R198). It waits for earlier accesses to the record and the barrier (13 R156, R175, R181). -/
def engineCopy (c : Ctx) (cr br : BitVec 4) (pre : Ctx → Nat → List Cause) (post : Ctx → Nat → Nat → List Cause)
    (mk : Ctx → Nat → List (W64 × OpKind)) : State :=
  if c.on = 0 then orTrap c 0 [] fun c => retire c c.g
  else if barBusy c (getA c.r br.toNat) then againAs c 1
  else
    let ar := getA c.r cr.toNat
    let cs := laneCauses c fun l => recCauses c ar ++ sysPriv c (getA c.r br.toNat) ++ opBar c (getA c.r br.toNat) ++ pre c l
    if !cs.isEmpty then orTrap c 1 cs fun c => c.s
    else
      let m := match lowestLane c.g.w c.on with | some l => BitVec.twoPow 64 l | none => 0
      let (c, cs, qs) := gather c m ar (fun _ => 0) 64 .rd
      let cs := match cs with | (_, x) :: _ => onActive c x | [] => []
      orTrap c 1 cs fun c =>
        match c.on == 0, qs, barKey c (getA c.r br.toNat) with
        | false, q :: _, some key =>
          if recordBusy c q 64 then againAt c q.place
          else
            let (c, r) := readRecord c q (isSys ar) 8
            match r with
            | .error e => orTrap { c with hint := 0 } 1 (onActive c e) fun c => c.s
            | .ok x => orTrap { c with hint := 0 } 1 (laneCauses c (post c x)) fun c => forkOps c key (getA c.r br.toNat).ptr (mk c x)
        | _, _, _ => retire c c.g

/-- Box origins and packed offset of a lane (15 R201). -/
def originOf (r : Group) (d l : Nat) : List Int := (List.range 5).map fun i => (getV r (d + i) l).toInt

/-- The packed offset of a lane (15 R201). -/
def packOff (r : Group) (d l : Nat) : Nat := (getV r (d + 5) l).toNat

/-- The ranges an operation's box accesses on the tensor side, one for each in-bounds element (13 R154; 15 R201). -/
def tensorPieces (a : AReg) (l : Layout) (org : List Int) : List (Int × Nat) :=
  ((List.range (boxCount l)).filter fun el => inBounds l org el).map fun el => ((a.ptr.toNat : Int) + elemOff l org el, esOf l)

/-- The BOUNDS and PERM checks of the tensor side (13 R154; 15 R201, R204). Whether the metadata masks of a sparse-packed copy must lie in
the range as well R201 and R262 do not say: no mask address is checked (DESIGN CHOICE, unsafe; assumption 91). -/
def tensorRange (c : Ctx) (a : AReg) (l : Layout) (org : List Int) : List Cause :=
  match elemSpan l org with
  | none => []
  | some (lo, hi) => engPieces c a (a.ptr.toNat + lo) (hi - lo + esOf l).toNat (tensorPieces a l org)

/-- Vault offset of the packed side in its core's vault (15 R201). -/
def packT (c : Ctx) (b : AReg) (p : Int) : Nat := vkeyOf c b p % Config.vaultSize

/-- The alignment checks of step 4 (15 R198, R201; 19 R262). -/
def xcpAlign (c : Ctx) (a b : AReg) (lay : Layout) (p : Int) : List Cause :=
  let es := esOf lay
  (if a.ptr.toNat % es ≠ 0 then [causeAlign a.ptr] else []) ++
    (if (if lay.playout = 0 then p else packT c b p % Config.sliceSize) % es ≠ 0 then [causeAlign (addr64 p)] else []) ++
    (if lay.playout = 2 ∧ lay.metaOff % 16 ≠ 0 then [causeAlign (addr64 p)] else [])

/-- Bytes of a slice that a sliced box fills: its values, and its masks if it has them (15 R201; 19 R262). -/
def sliceBytes (l : Layout) : Nat := esOf l * nbOf l 1 + (if l.playout = 2 then 16 * (nbOf l 1 / sparseN l) else 0)

/-- The BOUNDS and PERM checks of the packed side (15 R201; 19 R262): of a sliced copy into another space than a vault only PERM, as its
slices are a vault's. -/
def packRange (c : Ctx) (b : AReg) (lay : Layout) (org : List Int) (p : Int) : List Cause :=
  if lay.playout = 0 then engRange c b p (esOf lay * boxCount lay)
  else
    let o0 := packT c b p % Config.sliceSize
    let s0 := packT c b p / Config.sliceSize
    let n := sparseN lay
    let len := (nbOf lay 0 - 1) * Config.sliceSize + sliceBytes lay
    (if lay.playout = 2 && (nbOf lay 1 % n != 0 || org.getD 1 0 % n != 0) then [causeBounds (addr64 p)] else []) ++
      if b.space != 1 then [causePerm (addr64 p)]
      else
        (if 256 < s0 + nbOf lay 0 || Config.sliceSize < o0 + sliceBytes lay then [causeBounds (addr64 p)] else []) ++
          engPieces c b p len ((List.range (nbOf lay 0)).map fun k => (p + (k * Config.sliceSize : Nat), sliceBytes lay))

/-- Step 4 checks of XCP and XRED in one lane (15 R198, R200, R201; 19 R262); `bad` are the record's values the instruction does not admit. -/
def xcpPost (c : Ctx) (a b : AReg) (d : Nat) (cpin : Bool) (bad : Layout → Bool) (x l : Nat) : List Cause :=
  let lay := layoutOf x
  let p : Int := b.ptr.toNat + packOff c.r d l
  xcpAlign c a b lay p ++
    (if !layoutOk x cpin || bad lay then [causeBounds 0]
    else packRange c b lay (originOf c.r d l) p ++ tensorRange c a lay (originOf c.r d l))

/-- The packed side of a copy to memory must not lie in the remote form (15 R201, R203). -/
def localOnly (b : AReg) (p : Int) : List Cause := if b.space = 0 && 2 ^ 63 ≤ p then [causePerm (addr64 p)] else []

/-- The address of the packed side in a lane (15 R201). -/
def packPtr (c : Ctx) (b : AReg) (d l : Nat) : Int := b.ptr.toNat + packOff c.r d l

/-- XCP.in (15 R201). -/
def execXcpIn (_h : XHdr) (d : BitVec 6) (a b cr bar : BitVec 4) (s : State) : Res :=
  issue (.xcpIn _h d a b cr bar) s fun c =>
    let ra := getA c.r a.toNat
    let rb := getA c.r b.toNat
    engineCopy c cr bar (fun c l => sysPriv c ra ++ sysPriv c rb ++ engReg ra [0] ++ engReg rb [0, 1] ++ localOnly rb (packPtr c rb d.toNat l))
      (fun c x l => xcpPost c ra rb d.toNat true (fun _ => false) x l)
      fun c x => laneOps c fun l =>
        .xcpIn (sideOf c ra ra.ptr.toNat) (sideOf c rb (packPtr c rb d.toNat l)) (packOff c.r d.toNat l) (layoutOf x)
          (originOf c.r d.toNat l)

/-- XCP.out (15 R201). -/
def execXcpOut (_h : XHdr) (d : BitVec 6) (a b cr bar : BitVec 4) (s : State) : Res :=
  issue (.xcpOut _h d a b cr bar) s fun c =>
    let ra := getA c.r a.toNat
    let rb := getA c.r b.toNat
    engineCopy c cr bar (fun c _ => sysPriv c ra ++ sysPriv c rb ++ engReg ra [0] ++ engReg rb [1])
      (fun c x l => xcpPost c ra rb d.toNat false (fun _ => false) x l)
      fun c x => laneOps c fun l =>
        .xcpOut (sideOf c ra ra.ptr.toNat) (sideOf c rb (packPtr c rb d.toNat l)) (packOff c.r d.toNat l) (layoutOf x)
          (originOf c.r d.toNat l)

/-- Element size an XRED type requires (15 R204). -/
def xredEs : XredTy → Nat
  | .s32 => 4
  | .s64 => 8
  | .f32 => 4
  | .f16 => 2
  | .bf16 => 2

/-- XRED (15 R204). -/
def execXred (_h : XHdr) (d : BitVec 6) (a b cr bar : BitVec 4) (ty : XredTy) (s : State) : Res :=
  issue (.xred _h d a b cr bar ty) s fun c =>
    let ra := getA c.r a.toNat
    let rb := getA c.r b.toNat
    engineCopy c cr bar (fun c _ => sysPriv c ra ++ sysPriv c rb ++ engReg ra [0, 1] ++ engReg rb [1])
      (fun c x l => xcpPost c ra rb d.toNat false (fun lay => lay.playout != 0 || esOf lay != xredEs ty) x l)
      fun c x => laneOps c fun l =>
        .xred ty (sideOf c ra ra.ptr.toNat) (sideOf c rb (packPtr c rb d.toNat l)) (packOff c.r d.toNat l) (layoutOf x)
          (originOf c.r d.toNat l)

/-- Step 4 checks of XGATH in one lane, whose row is `row` (15 R198, R203). -/
def xgathPost (c : Ctx) (a b : AReg) (x : Nat) (row : Int) : List Cause :=
  let lay := layoutOf x
  xcpAlign c a b { lay with playout := 0 } b.ptr.toNat ++
    (if !layoutOk x false || lay.rank != 2 || lay.playout != 0 || lay.boxes.getD 1 0 != 0 then [causeBounds 0]
    else engRange c b b.ptr.toNat ((lanesOf c.g.w c.on).length * esOf lay * nbOf lay 0) ++ tensorRange c a lay [0, row])

/-- XGATH (15 R203): one operation for the active lanes' rows. -/
def execXgath (_h : XHdr) (d : BitVec 6) (a b cr bar : BitVec 4) (s : State) : Res :=
  issue (.xgath _h d a b cr bar) s fun c =>
    let ra := getA c.r a.toNat
    let rb := getA c.r b.toNat
    let row := fun (c : Ctx) (l : Nat) => (getV c.r d.toNat l).toInt
    engineCopy c cr bar (fun c _ => sysPriv c ra ++ sysPriv c rb ++ engReg ra [0] ++ engReg rb [0, 1] ++ localOnly rb rb.ptr.toNat)
      (fun c x l => xgathPost c ra rb x (row c l))
      fun c x => [(c.on, .xgath (sideOf c ra ra.ptr.toNat) (sideOf c rb rb.ptr.toNat) (layoutOf x)
        ((lanesOf c.g.w c.on).map (row c)))]

/-- The checks of XCP.V in a lane: source, destination and length (15 R202). -/
def xcpVCauses (c : Ctx) (ra rb : AReg) (src dst : Int) (len : Nat) : List Cause :=
  sysPriv c ra ++ sysPriv c rb ++ engReg ra [1] ++ engReg rb [1] ++ (if src % 4 ≠ 0 then [causeAlign (addr64 src)] else []) ++
    (if dst % 4 ≠ 0 || len % 4 ≠ 0 then [causeAlign (addr64 dst)] else []) ++
    (if 67108864 < len then [causeBounds (addr64 src)] else []) ++ engRange c ra src len ++ engRange c rb dst len

/-- XCP.V (15 R202). -/
def execXcpV (_h : XHdr) (d : BitVec 6) (a b bar : BitVec 4) (s : State) : Res :=
  issue (.xcpV _h d a b bar) s fun c =>
    let ra := getA c.r a.toNat
    let rb := getA c.r b.toNat
    let re := getA c.r bar.toNat
    let src := fun (l : Nat) => (ra.ptr.toNat : Int) + (getV c.r d.toNat l).toNat
    let dst := fun (l : Nat) => (rb.ptr.toNat : Int) + (getV c.r (d.toNat + 1) l).toNat
    let len := fun (l : Nat) => (getV c.r (d.toNat + 2) l).toNat
    if c.on = 0 then orTrap c 0 [] fun c => retire c c.g
    else if barBusy c re then againAs c 1
    else orTrap c 0 (laneCauses c fun l => sysPriv c re ++ opBar c re ++ xcpVCauses c ra rb (src l) (dst l) (len l)) fun c =>
      match barKey c re with
      | none => c.s
      | some key => forkOps c key re.ptr (laneOps c fun l => .xcpV (vkeyOf c ra (src l)) (vkeyOf c rb (dst l)) (len l))

end Sys2Proof.Machine
end

