-- ==== Sys2Proof/Machine/Memory.lean ====
section
/-! DEFINITION. Loads, stores, prefetches, ordered accesses and atomics (15 R187 to R192). -/

namespace Sys2Proof.Machine

/-- LD with a register offset (15 R187). -/
def execLdReg (_h : Hdr) (sz : LdSize) (d : BitVec 6) (a : BitVec 4) (b : BitVec 6) (s : State) : Res :=
  issue (.ldReg _h sz d a b) s fun c => vload c d.toNat a.toNat (offReg c.r b) sz false false false

/-- LD with an immediate offset (15 R187). -/
def execLdImm (_h : Hdr) (sz : LdSize) (d : BitVec 6) (a : BitVec 4) (imm : BitVec 6) (s : State) : Res :=
  issue (.ldImm _h sz d a imm) s fun c => vload c d.toNat a.toNat (fun _ => offImm imm (ldBytes sz)) sz false false false

/-- ST with a register offset (15 R187). -/
def execStReg (_h : Hdr) (sz : StSize) (d : BitVec 6) (a : BitVec 4) (b : BitVec 6) (s : State) : Res :=
  issue (.stReg _h sz d a b) s fun c => vstore c d.toNat a.toNat (offReg c.r b) sz false none

/-- ST with an immediate offset (15 R187). -/
def execStImm (_h : Hdr) (sz : StSize) (d : BitVec 6) (a : BitVec 4) (imm : BitVec 6) (s : State) : Res :=
  issue (.stImm _h sz d a imm) s fun c => vstore c d.toNat a.toNat (fun _ => offImm imm (stBytes sz)) sz false none

/-- The load size of a non-temporal size. -/
def ntLd : NtSize → LdSize
  | .b32 => .b32
  | .b64 => .b64
  | .b128 => .b128

/-- The store size of a non-temporal size. -/
def ntSt : NtSize → StSize
  | .b32 => .b32
  | .b64 => .b64
  | .b128 => .b128

/-- LD.nt (15 R188). -/
def execLdNt (_h : Hdr) (sz : NtSize) (d : BitVec 6) (a : BitVec 4) (b : BitVec 6) (s : State) : Res :=
  issue (.ldNt _h sz d a b) s fun c => vload c d.toNat a.toNat (offReg c.r b) (ntLd sz) false true false

/-- ST.nt (15 R188). -/
def execStNt (_h : Hdr) (sz : NtSize) (d : BitVec 6) (a : BitVec 4) (b : BitVec 6) (s : State) : Res :=
  issue (.stNt _h sz d a b) s fun c => vstore c d.toNat a.toNat (offReg c.r b) (ntSt sz) true none

/-- PRF (15 R188): register causes trap, a translation failure drops the prefetch; only local global lines are fetched. -/
def prefetch (c : Ctx) (lvl : PrfLevel) (a : Nat) (off : Nat → Int) : State :=
  let ar := getA c.r a
  let (c, cs, qs) := gather c c.on ar off 1 .prefetch
  orTrap c 1 (cs.filter fun x => x.2.rank ≤ 6) fun c =>
    let op : AccOp := match lvl with | .l1 => .pfL1 | .l2 => .pfL2
    let as := (stillOn c qs).filterMap fun q =>
      match q.place with
      | .mem pa =>
        if isSys ar then none
        else some { newAcc c q 0 1 op 0 false false false (wantsRenewal c.s c.g.core pa c.g.lt) with lt := c.g.lt }
      | _ => none
    retireMem { c with s := { c.s with accs := c.s.accs ++ as } } (reqLevels c.g.core (stillOn c qs)) c.g

/-- PRF with a register offset (15 R188). -/
def execPrfReg (_h : Hdr) (lvl : PrfLevel) (a : BitVec 4) (b : BitVec 6) (s : State) : Res :=
  issue (.prfReg _h lvl a b) s fun c => prefetch c lvl a.toNat (offReg c.r b)

/-- PRF with an immediate offset (15 R188). -/
def execPrfImm (_h : Hdr) (lvl : PrfLevel) (a : BitVec 4) (imm : BitVec 6) (s : State) : Res :=
  issue (.prfImm _h lvl a imm) s fun c => prefetch c lvl a.toNat fun _ => offImm imm 128

/-- LDS retires (15 R189). -/
def finLds (w64 : Bool) (d : Nat) (c : Ctx) (as : List Acc) : State :=
  let v := match as with | a :: _ => accVal as a.lane | [] => 0
  let g := fillPend c.g c.tok (.s d) (BitVec.ofNat 32 v)
  retireMem c (accLevels as) (if w64 then fillPend g c.tok (.s (d + 1)) (BitVec.ofNat 32 (v / 2 ^ 32)) else g)

/-- The one access of LDS and STS, made for the lowest ACT lane; its cause is raised for every ACT lane (15 R189). -/
def uniAccess (c : Ctx) (ar : AReg) (off : Int) (n : Nat) (kind : AccessKind) : Ctx × List (Nat × Cause) × List Req :=
  if c.on = 0 then (c, [], [])
  else
    let m := match lowestLane c.g.w c.act with | some l => BitVec.twoPow 64 l | none => 0
    let (c, cs, qs) := gather c m ar (fun _ => off) n kind
    match cs with
    | (_, x) :: _ => (c, onAct c x, [])
    | [] => (c, [], qs)

/-- LDS (15 R189): one relaxed access of 4 or 8 bytes. -/
def uload (c : Ctx) (w64 : Bool) (d a : Nat) (off : Int) : State :=
  let n := if w64 then 8 else 4
  withAccs c (fun c =>
    let ar := getA c.r a
    let (c, cs, qs) := uniAccess c ar off n .load
    orTrap c 1 cs fun c =>
      if c.on = 0 then retire c c.g
      else sendLoads c qs n (isSys ar) false false false (if w64 then [.s d, .s (d + 1)] else [.s d]) (settleAccs (finLds w64 d)))
    (settleAccs (finLds w64 d))

/-- STS (15 R189). -/
def ustore (c : Ctx) (w64 : Bool) (d a : Nat) (off : Int) : State :=
  let n := if w64 then 8 else 4
  let ar := getA c.r a
  let v := if w64 then (getS2 c.r d).toNat else (getS c.r d).toNat
  let (c, cs, qs) := uniAccess c ar off n .store
  orTrap c 2 cs fun c =>
    if c.on = 0 then retire c c.g
    else if storesHeld c ar qs n then againFar c
    else
      let c := storeAll c qs n (isSys ar) false fun _ => v
      retireMem c (reqLevels c.g.core qs) c.g

/-- LDS with an immediate offset (15 R189). -/
def execLdsImm (_h : Hdr) (w64 : Bool) (d : BitVec 6) (a : BitVec 4) (imm : BitVec 6) (s : State) : Res :=
  issue (.ldsImm _h w64 d a imm) s fun c => uload c w64 d.toNat a.toNat (offImm imm (if w64 then 8 else 4))

/-- LDS with a register offset (15 R189). -/
def execLdsReg (_h : Hdr) (w64 : Bool) (d : BitVec 6) (a : BitVec 4) (b : BitVec 6) (s : State) : Res :=
  issue (.ldsReg _h w64 d a b) s fun c => uload c w64 d.toNat a.toNat (offUni c.r b)

/-- STS with an immediate offset (15 R189). -/
def execStsImm (_h : Hdr) (w64 : Bool) (d : BitVec 6) (a : BitVec 4) (imm : BitVec 6) (s : State) : Res :=
  issue (.stsImm _h w64 d a imm) s fun c => ustore c w64 d.toNat a.toNat (offImm imm (if w64 then 8 else 4))

/-- STS with a register offset (15 R189). -/
def execStsReg (_h : Hdr) (w64 : Bool) (d : BitVec 6) (a : BitVec 4) (b : BitVec 6) (s : State) : Res :=
  issue (.stsReg _h w64 d a b) s fun c => ustore c w64 d.toNat a.toNat (offUni c.r b)

/-- Ordered LD (15 R190): an acquire, and a relaxed load of a wide scope, take the home branch. -/
def execLdOrdered (_h : XHdr) (d : BitVec 6) (a : BitVec 4) (b : BitVec 6) (ord : Order) (sc : Scope) (sz : LdSize)
    (s : State) : Res :=
  issue (.ldOrdered _h d a b ord sc sz) s fun c =>
    vload c d.toNat a.toNat (offReg c.r b) sz (loadHome c sc) false (isAcq ord)

/-- Ordered ST (15 R190). -/
def execStOrdered (_h : XHdr) (d : BitVec 6) (a : BitVec 4) (b : BitVec 6) (ord : Order) (sc : Scope) (sz : StSize)
    (s : State) : Res :=
  issue (.stOrdered _h d a b ord sc sz) s fun c =>
    vstore c d.toNat a.toNat (offReg c.r b) sz false (relScope ord sc)

/-- The operand and the compare value of an AMO in one lane (15 R191). -/
def amoOperand (r : Group) (op : AmoOp) (sz : AmoSize) (cr l : Nat) : AccOp × W64 :=
  match op, sz with
  | .cas, .b32 => (.amo op ((getV r (cr + 1) l).setWidth 64) ((getV r cr l).setWidth 64), 0)
  | .cas, .b64 => (.amo op (getV2 r (cr + 2) l) (getV2 r cr l), 0)
  | _, .b32 => (.amo op ((getV r cr l).setWidth 64) 0, 0)
  | _, .b64 => (.amo op (getV2 r cr l) 0, 0)

/-- AMO and LR retire: old values into D (15 R191, R192). -/
def finOld (d n : Nat) (c : Ctx) (as : List Acc) : State :=
  retireMem c (accLevels as) ((accLanes as).foldl (fun g l => fillVn g c.tok d l (n / 4) (accVal as l)) c.g)

/-- AMO (13 R167; 15 R191). -/
def execAmo (_h : XHdr) (d : BitVec 6) (a : BitVec 4) (b : BitVec 6) (cr : BitVec 6) (ord : Order) (sc : Scope)
    (sz : AmoSize) (op : AmoOp) (s : State) : Res :=
  issue (.amo _h d a b cr ord sc sz op) s fun c =>
    vrmw c a.toNat b.toNat (amoBytes sz) .amo (relScope ord sc) (fun r l => amoOperand r op sz cr.toNat l)
      (reqDests d.toNat (amoBytes sz / 4)) (finOld d.toNat (amoBytes sz))

/-- LR (13 R168; 15 R192). -/
def execLr (_h : XHdr) (d : BitVec 6) (a : BitVec 4) (b : BitVec 6) (ord : Order) (sc : Scope) (sz : AmoSize)
    (s : State) : Res :=
  issue (.lr _h d a b ord sc sz) s fun c =>
    vrmw c a.toNat b.toNat (amoBytes sz) .lr none (fun _ _ => (.lr, 0)) (reqDests d.toNat (amoBytes sz / 4))
      (finOld d.toNat (amoBytes sz))

/-- SC retires: its success in each lane (15 R192). -/
def finSc (p : Nat) (c : Ctx) (as : List Acc) : State :=
  retireMem c (accLevels as) ((accLanes as).foldl (fun g l => fillPend g c.tok (.p p l) (if accOk as l then 1 else 0)) c.g)

/-- SC (13 R168; 15 R192). -/
def execSc (_h : XHdr) (d : BitVec 6) (a : BitVec 4) (b : BitVec 6) (cr : BitVec 3) (ord : Order) (scp : Scope)
    (sz : AmoSize) (s : State) : Res :=
  issue (.sc _h d a b cr ord scp sz) s fun c =>
    vrmw c a.toNat b.toNat (amoBytes sz) .sc (relScope ord scp)
      (fun r l => (.sc, BitVec.ofNat 64 (runVal r d.toNat l (amoRegs sz)))) (fun qs => qs.map fun q => .p cr.toNat q.lane)
      (finSc cr.toNat)

end Sys2Proof.Machine
end

