-- ==== Sys2Proof/Machine/Start.lean ====
section
/-! DEFINITION. How groups come to run: launch records (21 R274, R275), kernel images (05 R59; 21 R276), the room of pairs
(21 R278), team and group start (03 R43 to R47; 21 R277, R287). -/

namespace Sys2Proof.Machine

/-- W of a WCODE (21 R274). -/
def widthOf (n : Nat) : Nat := if n = 0 then 16 else if n = 1 then 32 else 64

/-- A launch record of 128 bytes (21 R274). -/
def launchOf (x : Nat) : Launch :=
  { args := (List.range 8).map fun i => fld 32 (799 + 32 * i) (768 + 32 * i) x
    spillBase := fld 64 703 640 x, spillSz := fld 32 639 608 x, sigVal := fld 64 575 512 x, sigCh := fld 12 511 500 x
    sigSvc := bit x 499, sigEn := bit x 498, vault64 := bits x 447 427, voff64 := bits x 426 407, vfix := bit x 406
    gz := bits x 399 384, gy := bits x 383 368, gx := bits x 367 352, pasid := fld 20 351 332 x, prio := bits x 331 329
    kindL := bits x 328 327 == 1, span := bit x 326, w := widthOf (bits x 325 324), tgrp := bits x 323 320
    tiles := bits x 319 315, regsD := 8 * (bits x 314 312 + 1), regsL := 8 * (bits x 311 309 + 1), entryL := fld 64 255 192 x
    entryD := fld 64 191 128 x, tbase := fld 32 127 96 x, tagL := fld 16 95 80 x, tagD := fld 16 79 64 x, kobj := fld 64 63 0 x }

/-- Groups of a team (21 R274). -/
def teamGroups (l : Launch) : Nat := l.tgrp + 1

/-- The slots and lane registers of an empty pair whose L-core has `slotsL` slots take one team (21 R278). -/
def fitsSlots (slotsL : Nat) (l : Launch) : Bool :=
  let n := teamGroups l
  let h := min n (if l.kindL then slotsL else 48)
  let onD := if l.kindL then n - h else h
  (l.span || h == n) && onD * l.regsD * l.w ≤ 196608

/-- One team fits in an otherwise empty pair with no task system (21 R275, R278). -/
def fitsEmpty (l : Launch) : Bool := fitsSlots 8 l

/-- R275's BOUNDS cases. -/
def launchBad (x : Nat) : Bool :=
  let l := launchOf x
  bits x 767 704 != 0 || bits x 607 576 != 0 || bits x 497 448 != 0 || bits x 405 400 != 0 || bits x 308 256 != 0 ||
    1 < bits x 328 327 || bits x 325 324 == 3 || 16 < l.tiles || (if l.kindL then l.tagL else l.tagD) == 0 ||
    l.spillSz.toNat % 16 != 0 || 2 ^ 30 < gridTeams l || 1048576 < l.vault64 ||
    (l.vfix && 1048576 < l.voff64 + l.vault64) || !fitsEmpty l

/-- A context that may have new work: not the service context, V = 1 and not torn down (21 R269, R275). -/
def ctxUsable (s : State) (pasid : BitVec 20) : Bool := pasid != 0 && ctxValid s pasid && ctxState s pasid != 3

/-- Why a word of a context's memory cannot be read now: its home holds the line (25 R324), another device does not answer it, or its
translation or data fail. -/
inductive CtxErr where
  | wait
  | remote
  | bad (e : XErr)
deriving DecidableEq, Repr

/-- A group notes the stamp of what a relaxed load of it has read (13 R176; assumption 70). -/
def noteRead (s : State) (gid t : Nat) : State := updGroup s gid fun g => { g with rlt := max g.rlt t }

/-- A load of eight bytes of a context's memory that a core makes for LAUNCH, ROD.CFG, GANG.PREP or a token, performed at once: relaxed,
or an acquire at .dev (13 R162, R164; 21 R276; 27 R340). It waits for earlier accesses of the group to the bytes and for a bias command
that holds them (13 R175, R181; 25 R324). -/
def ctxLoad (s : State) (g : Group) (pasid : BitVec 20) (va : Nat) (acq : Bool) : State × Except CtxErr Nat :=
  let busy := fun (p : Place) => placeBusy s g p 8 || placeHeld s p 8
  if va % 8 ≠ 0 || 2 ^ 57 ≤ va && va < 2 ^ 63 then (s, .error (.bad (.perm 0)))
  else if 2 ^ 63 ≤ va then
    if busy (.remote (bits va 62 43) (bits va 42 0)) then (s, .error .wait)
    else
      let (s, r) := engRemote s g.core (bits va 62 43) (bits va 42 0) 8 g.lt .load
      match r with
      | .ok (v, t) => (raiseLt s g.gid t, .ok v)
      | .error .remote => (s, .error .remote)
      | .error (.ecc i) => (s, .error (.bad (.ecc i)))
  else
    let (r, s) := xlate s g.core pasid va 1
    match r with
    | .error e => (s, .error (.bad e))
    | .ok y =>
      if busy (if inHost y.pa then .host y.pa else .mem y.pa) then (s, .error .wait)
      else if inHost y.pa then
        let t := hostStamp s y.pa
        (if acq then raiseLt s g.gid t else noteRead s g.gid t, .ok (memRead s 0 y.pa 8))
      else
        let hit := if acq then none else l1Hit s g.core pasid y.pa 8 g.lt
        match hit with
        | some (v, ws, _) =>
          let t := bufferedLt s g.core (pasidKey s pasid) y.pa 8
          (noteRead (raiseLt (retag s g.core pasid y.pa va (BitVec.ofNat 4 y.perm)) g.gid ws) g.gid t, .ok v)
        | none =>
          let a := { accOf g 16 0 va (.mem y.pa) 0 8 .load 0 false acq (wantsRenewal s g.core y.pa g.lt) false with
            pasid := pasid, perm := BitVec.ofNat 4 y.perm }
          let (s, b) := accNow s a
          match b.st with
          | .done v ws _ _ => (noteRead (raiseLt s g.gid ws) g.gid b.rst, .ok v.toNat)
          | .failed _ info => (s, .error (.bad (.ecc info)))
          | _ => (s, .error .wait)

/-- `n` words from `va` as one number. -/
def ctxLoads (s : State) (g : Group) (pasid : BitVec 20) (va : Nat) (acq : Bool) : Nat → State × Except CtxErr Nat
  | 0 => (s, .ok 0)
  | n + 1 =>
    let (s, r) := ctxLoad s g pasid va acq
    match r with
    | .error e => (s, .error e)
    | .ok x =>
      let (s, r) := ctxLoads s g pasid (va + 8) acq n
      (s, match r with | .error e => .error e | .ok y => .ok (x + 2 ^ 64 * y))

/-- The offset of the image of a form and tag among `n` directory entries from `va` (27 R334). -/
def dirFind (formL : Bool) (tag : BitVec 16) (x : Nat) : Nat → Option Nat
  | 0 => none
  | n + 1 =>
    if bit x 0 == formL && bits x 31 24 == tag.toNat / 256 && bits x 23 16 == tag.toNat % 256 then some (bits x 255 192)
    else dirFind formL tag (x / 2 ^ 256) n

/-- Why a kernel object cannot be read yet: its home holds a line, or a page is missing. -/
inductive KerErr where
  | wait
  | page (page : Nat) (s2 : Bool)
deriving DecidableEq, Repr

/-- The kernel a record names: each form's image start, from the directory at KOBJ or else the entry address (05 R59;
21 R276, R284). A missing page or a held line is the answer; any other failure leaves the entry addresses. -/
def kernelRead (s : State) (g : Group) (pasid : BitVec 20) (k : Kernel) (entryD entryL : W64) :
    State × Except KerErr Kernel :=
  let base : Kernel := { k with ibD := entryD, ibL := entryL, hasD := entryD != 0, hasL := entryL != 0 }
  let fail : CtxErr → Except KerErr Kernel := fun e =>
    match e with
    | .wait => .error .wait
    | .bad (.page p s2) => .error (.page p s2)
    | _ => .ok base
  let ko := k.kobj.toNat
  let (s, h) := ctxLoads s g pasid ko false 8
  match h with
  | .error e => (s, fail e)
  | .ok h =>
    if bits h 15 0 != 0xA17D then (s, .ok base)
    else
      let n := bits h 255 252
      let (s, d) := ctxLoads s g pasid (ko + bits h 287 256) false (4 * n)
      match d with
      | .error e => (s, fail e)
      | .ok d =>
        let at_ := fun (l : Bool) (tag : BitVec 16) (e : W64) =>
          match dirFind l tag d n with | some o => BitVec.ofNat 64 (ko + o) | none => e
        let has := fun (l : Bool) (tag : BitVec 16) (e : W64) => e != 0 || (dirFind l tag d n).isSome
        (s, .ok { k with ibD := at_ false k.tagD entryD, ibL := at_ true k.tagL entryL
                         hasD := has false k.tagD entryD, hasL := has true k.tagL entryL })

/-- The kernel a launch record names, before its image starts are known. -/
def launchKernel (l : Launch) : Kernel :=
  ⟨l.kobj, 0, 0, false, false, l.tagD, l.tagL, l.regsD, l.regsL⟩

/-- The core of a pair of a kind (01 R17): the L-core has the even number. -/
def kindCore (p : Nat) (kindL : Bool) : Nat := if kindL then 2 * p else 2 * p + 1

/-- A pair's task system is enabled (21 R281). -/
def taskSystem (s : State) (p : Nat) : Bool := (List.range 64).any fun r => (getRod s p r).st != .off

/-- A pair's bead storage is kept free of teams: its task system is enabled, or a ROD.CFG waits to enable it (21 R281). -/
def beadsKept (s : State) (p : Nat) : Bool := taskSystem s p || s.resvd.any fun r => r.1 == p + 1024

/-- The lowest offset of bead storage (21 R281). -/
def beadBase : Nat := 0x03C00000

/-- A team space [o, o + n) of a core's vault is free: outside every other team's space and outside bead storage; an empty space lies
outside all of them, and all of them outside it (21 R278). -/
def vaultFree (s : State) (core o n : Nat) : Bool :=
  o + n ≤ Config.vaultSize &&
    !(s.teams.any fun t => t.home == core && t.vsize != 0 && n != 0 && o < t.vbase + t.vsize && t.vbase < o + n) &&
    !(!isLCore core && beadsKept s (pairOf core) && beadBase < o + n && n != 0)

/-- Where a team's vault space goes (21 R278): at VOFF64, or at the lowest offset where it fits. -/
def vaultPick (s : State) (core : Nat) (l : Launch) : Option Nat :=
  let n := 64 * l.vault64
  if l.vfix then (if vaultFree s core (64 * l.voff64) n then some (64 * l.voff64) else none)
  else minList ((0 :: (s.teams.filter fun t => t.home == core).map fun t => t.vbase + t.vsize).filter fun o => vaultFree s core o n)

/-- Physical tiles of a core that no team holds (19 R242; 21 R278). -/
def tilesFree (s : State) (core : Nat) : List Nat :=
  (List.range 16).filter fun t => !(s.teams.any fun x => (mapGet [] x.tiles core).contains t)

/-- The next team of a launch fits on a pair now (21 R278): its core for each group in order, and its vault offset. -/
def teamFit (s : State) (p : Nat) (l : Launch) : Option (List Nat × Nat) :=
  let n := teamGroups l
  let c := kindCore p l.kindL
  let o := kindCore p (!l.kindL)
  let h := min n (freeSlots s c).length
  if h < n && (!l.span || (freeSlots s o).length < n - h) then none
  else
    let cores := List.replicate h c ++ List.replicate (n - h) o
    let used := dedup cores
    let room := used.all fun x => regRoom s x (cores.filter (· == x)).length l.regsD l.w && l.tiles ≤ (tilesFree s x).length
    if !room then none else (vaultPick s (cores.headD c) l).map fun v => (cores, v)

/-- The next team of a launch could fit on a pair if it were empty (21 R279): the front group's slot is never free (R278), and a
fixed space must avoid bead storage. -/
def couldFit (s : State) (p : Nat) (l : Launch) : Bool :=
  fitsSlots (if p % 8 = 0 then 7 else 8) l && (l.kindL || !beadsKept s p || (64 * l.vault64 + (if l.vfix then 64 * l.voff64 else 0) ≤ beadBase))

/-- A new group (03 R33, R46; 09 R130): lanes of `mask` hold threads. -/
def newGroup (gid core slot : Nat) (pasid : BitVec 20) (team srTeam srGroup w : Nat) (ker : Kernel) (mask : W64) (pc : W64)
    (tbase : W32) (a15 : AReg) (lt : Nat) : Group :=
  { gid := gid, core := core, res := .resident slot, stopped := none, stopReq := none, stopLanes := 0, kept := [], halt := false, haltCyc := 0, pasid := pasid, sys := false, front := false
    team := team, srTeam := srTeam, srGroup := srGroup, w := w, ker := ker, v := [], p := [], s := []
    a := mapPut aregZero [] 15 a15, q := [], i := []
    lanes := (List.range w).map fun l => newLane pc (!mask.getLsbD l)
    ents := ⟨true, mask, mask, pc, Config.none64, 0, 0, .ready, 0, 0, false⟩ ::
      List.replicate 15 freeEntry
    frames := [], rmode := 0, tbase := tbase &&& tbaseMask, deadline := Config.none64, budget := 0xFFFFFFFF
    budgetPend := false, lt := lt, eqp := none, rgn := [], stalls := [], retired := 0, migReq := false, migCore := none, migTiles := false, migWord := 0, arriving := false
    released := 0, pend := [], flights := [], spark := false, rlt := 0, elt := 0, remFail := none, slice := none, last := 0, yielded := false }

/-- A spill area as a15 names it (21 R277, R287). -/
def spillReg (base : W64) (k : Nat) (sz : W32) : AReg :=
  let b := base + BitVec.ofNat 64 (k * sz.toNat)
  ⟨b, b, b + sz.setWidth 64, 0, 3⟩

/-- Trace records of a started group (29 R352). -/
def startTrace (s : State) (g : Group) : State := flow s { g with ents := [] } g none

/-- Add a started group. -/
def addGroup (s : State) (g : Group) : State := startTrace { s with groups := s.groups ++ [g] } g

/-- Words of inline arguments in s56 to s63 (21 R277). -/
def argRegs (args : List W32) : Assoc W32 :=
  (List.range 8).filterMap fun i => if args.getD i 0 = 0 then none else some (56 + i, args.getD i 0)

/-- A tile given to a team of a context holds zero unless its last holder was a team of the same context (03 R44). -/
def giveTile (s : State) (core : Nat) (pasid : BitVec 20) (t : Nat) : State :=
  let k := core * 16 + t
  if mapGet 0 s.tileCtx k = pasid then s
  else { s with tiles := s.tiles.filter fun x => x.1 / 16384 != k, tileCtx := mapPut 0 s.tileCtx k pasid }

/-- The context that last held a byte of a core's vault in a team's space, of those that hold it no longer (03 R44; 31 R362). -/
def pastHolder (s : State) (core off : Nat) : Option (BitVec 20) :=
  (s.pastSpace.find? fun p => p.core == core && p.base ≤ off && off < p.base + p.size).map (·.pasid)

/-- A team of a context takes a space of a vault. R44 leaves it the values last written there; R362 has vaults cleared when their holders
change, R44 named as the place that says so: whether the bytes that another context held last are cleared is free (assumption 92). -/
def giveSpace (s : State) (core base size : Nat) (pasid : BitVec 20) : State :=
  let old := fun (c : Host.Cell) =>
    let o := c.1 - vaultKey core base
    vaultKey core base ≤ c.1 && o < size && (pastHolder s core (base + o)).any (· != pasid)
  if s.vault.any old then
    let (b, s) := drawBit s
    if b then { s with vault := s.vault.filter fun c => !old c } else s
  else s

/-- Start the next team of a grid on a pair where it fits (03 R43 to R46; 21 R277, R278). -/
def startTeam (s : State) (gr : Grid) (cores : List Nat) (vbase : Nat) : State :=
  let l := gr.lrec
  let used := dedup cores
  let tiles : Assoc (List Nat) := used.foldl (fun m c => mapPut [] m c ((tilesFree s c).take l.tiles)) []
  let id := s.nextId
  let gids := (List.range (teamGroups l)).map fun k => id + 1 + k
  let t : Team := ⟨id, some gr.id, gr.next, l.pasid, cores.headD 0, used, vbase, 64 * l.vault64, tiles, l.tiles, gids, false, 0,
    gr.gbar, gids.length⟩
  let s := used.foldl (fun s c => (mapGet [] tiles c).foldl (fun s t => giveTile s c l.pasid t) s) s
  let s := giveSpace s (cores.headD 0) vbase (64 * l.vault64) l.pasid
  let s := { s with nextId := id + 1 + teamGroups l, teams := s.teams ++ [t]
                    resvd := s.resvd.filter fun r => r.2 != gr.id
                    grids := s.grids.map fun x =>
                      if x.id == gr.id then { x with next := x.next + 1, candAt := s.now } else x }
  (List.range (teamGroups l)).foldl (fun s k =>
    let c := cores.getD k 0
    let a15 := spillReg l.spillBase (gr.next * teamGroups l + k) l.spillSz
    let pc := if isLCore c then l.entryL else l.entryD
    let g := newGroup (id + 1 + k) c ((freeSlots s c).headD 0) l.pasid id gr.next k l.w gr.ker (fullMask l.w) pc l.tbase a15 gr.lt
    addGroup s { g with s := argRegs l.args }) s

/-- Submit a grid (21 R276 step 4); instruction caches hold no older code of its context from then on (13 R178). -/
def submitGrid (s : State) (l : Launch) (k : Kernel) (lt key : Nat) (held : Bool) (gbar : Option Nat) : State :=
  { s with nextId := s.nextId + 1, icode := s.icode.filter fun i => i.pasid != l.pasid
           grids := s.grids ++ [⟨s.nextId, l, k, lt, key, s.now, 0, 0, 0, held, gbar⟩] }

/-- The bytes of part of a record of chapter 21: those read, or, where they meet an uncorrectable error or another device does not answer,
free values, since R298 has the instructions of that chapter raise no ECC and no REMOTE (DESIGN CHOICE, safe; assumption 77). -/
def anyBytes (c : Ctx) (n : Nat) : Except Cause Nat → Ctx × Nat
  | .ok v => (c, v)
  | .error _ => let (x, s) := drawWord c.s; ({ c with s := s }, x.toNat % 2 ^ (8 * n))

/-- The words of a record of chapter 21, from word `k` on, as one number (21 R276, R284, R296, R298). -/
def readWords (c : Ctx) (q : Req) (sys : Bool) (k : Nat) : Nat → Ctx × Nat
  | 0 => (c, 0)
  | n + 1 =>
    let (c, r) := readPart c q (8 * k) 8 sys
    let (c, x) := anyBytes c 8 r
    let (c, y) := readWords c q sys (k + 1) n
    (c, x + 2 ^ 64 * y)

/-- Free words as one number: a record whose translation meets an uncorrectable error (assumption 77). -/
def freeWords (c : Ctx) : Nat → Ctx × Nat
  | 0 => (c, 0)
  | n + 1 =>
    let (x, s) := drawWord c.s
    let (c, y) := freeWords { c with s := s } n
    (c, x.toNat + 2 ^ 64 * y)

/-- The causes of a record read of chapter 21 that R298 names, and whether an uncorrectable error in the tables that translate it is left
(17 R209; 21 R298; assumption 77). -/
def recordTraps (cs : List (Nat × Cause)) : List (Nat × Cause) × Bool :=
  (cs.filter fun x => x.2.rank != 12, cs.any fun x => x.2.rank == 12)

/-- A record read through an address register under R155 as one relaxed load of all its bytes, for every ACT lane; `k` goes on
with its value (21 R276, R284, R296). It waits for earlier accesses to the record (13 R156, R175, R181). -/
def recordAt (c : Ctx) (ar : AReg) (bytes : Nat) (k : Ctx → Nat → State) : State :=
  let (c, cs, qs) := uniAccess c ar 0 bytes .rd
  let (cs, lost) := recordTraps cs
  orTrap c 1 cs fun c =>
    match qs with
    | [] =>
      if lost then
        let (c, x) := freeWords c (bytes / 8)
        k { c with hint := 0 } x
      else retire c c.g
    | q :: _ =>
      if recordBusy c q bytes then againAt c q.place
      else
        let (c, x) := readWords c q (isSys ar) 0 (bytes / 8)
        k { c with hint := 0 } x

/-- A record that an address register of the instruction names. -/
def withRecord (c : Ctx) (a : BitVec 4) (bytes : Nat) (k : Ctx → Nat → State) : State := recordAt c (getA c.r a.toNat) bytes k

/-- A cause in every ACT lane. -/
def trapAct (c : Ctx) (x : Cause) : State := orTrap { c with hint := 0 } 0 (onAct c x) fun c => c.s

/-- The kernel of a record is read, or the ACT lanes park on the missing page (21 R276 step 2). -/
def withKernel (c : Ctx) (pasid : BitVec 20) (k : Kernel) (entryD entryL : W64) (f : Ctx → Kernel → State) : State :=
  let (s, r) := kernelRead (setGroup c.s c.g) c.g pasid k entryD entryL
  match getGroup s c.g.gid with
  | none => s
  | some g =>
    let c := { c with s := s, g := g }
    match r with
    | .error (.page p s2) => orTrap { c with hint := 0 } 1 (onAct c (causePage ⟨pasid, p, s2, false, false⟩ k.kobj)) fun c => c.s
    | .error .wait => againFar c
    | .ok ker => f c ker

/-- The checks of R275 on a launch record: its cause, if there is one. -/
def launchCause (s : State) (x : Nat) : Option Cause :=
  if launchBad x then some (causeBounds 0)
  else if !ctxUsable s (launchOf x).pasid then some (causePerm 0)
  else none

/-- LAUNCH (21 R276). -/
def execLaunch (_h : Hdr) (a : BitVec 4) (s : State) : Res :=
  issue (.launch _h a) s fun c =>
    if c.on = 0 then orTrap c 0 [] fun c => retire c c.g
    else withRecord c a 128 fun c x =>
      let l := launchOf x
      match launchCause c.s x with
      | some e => trapAct c e
      | none =>
        withKernel c l.pasid (launchKernel l) l.entryD l.entryL fun c ker =>
          withRelease c .dev fun c =>
            retireAt c (submitGrid c.s l ker c.g.lt (dtime c.s (dieOf c.g.core)).toNat false none) c.g recordLevels

end Sys2Proof.Machine
end

