-- ==== Sys2Proof/Machine/Rods.lean ====
section
/-! DEFINITION. Rods and beads (21 R281 to R291): SPAWN, ROD.CFG, ROD.STRIKE, strikes and steals. -/

namespace Sys2Proof.Machine

/-- A rod configuration record of 64 bytes (21 R282). -/
def rodCfgOf (x : Nat) : RodCfg :=
  { key := fld 64 511 448 x, spillBase := fld 64 447 384 x, spillSz := fld 32 383 352 x, budget := fld 32 351 320 x
    rel := fld 32 319 288 x, timer := bits x 287 272, pasid := fld 20 271 252 x, prio := bits x 251 249, kindL := bit x 248
    w := widthOf (bits x 247 246), regs := 8 * (bits x 245 243 + 1), maxres := bits x 242 237, tbase := fld 32 236 205 x
    kobj := fld 64 191 128 x, tagL := fld 16 127 112 x, tagD := fld 16 111 96 x }

/-- The kernel of a rod before its image starts are known; `.regs` serves the rod's kind (21 R287). -/
def rodKernel (r : RodCfg) : Kernel := ⟨r.kobj, 0, 0, false, false, r.tagD, r.tagL, r.regs, r.regs⟩

/-- A bead's bytes lie in bead storage of the pair's D-core vault (21 R281, R283). -/
def beadKey (p r k : Nat) : Nat := vaultKey (kindCore p false) (beadBase + 65536 * r + 64 * k)

/-- The 64 bytes of a bead (21 R283). -/
def beadVal (b : Bead) : Nat :=
  ((List.range 8).map fun i => (b.args.getD i 0).toNat * 2 ^ (256 + 32 * i)).sum + b.entry.toNat * 2 ^ 192 +
    b.deadline.toNat * 2 ^ 128 + b.stamp % 2 ^ 48 * 2 ^ 80 + b.pasid.toNat * 2 ^ 44 + b.core % 64 * 2 ^ 38

/-- Set a rod, its beads in storage in their order (21 R281, R283). -/
def putRod (s : State) (p r : Nat) (x : Rod) : State :=
  let old := getRod s p r
  let s := if x.beads == old.beads then s
    else x.beads.zipIdx.foldl (fun s (b, k) =>
      if old.beads[k]? == some b then s else { s with vault := writeN s.vault (beadKey p r k) 64 (beadVal b) }) s
  setRod s p r x

/-- Insert a bead by DEADLINE, after its equals (21 R283). -/
def insBead (b : Bead) : List Bead → List Bead
  | [] => [b]
  | x :: xs => if b.deadline.toNat < x.deadline.toNat then b :: x :: xs else x :: insBead b xs

/-- A rod that strikes: READY or DRAINING, with a bead (21 R279, R285). -/
def rodStrikes (x : Rod) : Bool := (x.st == .ready || x.st == .draining) && !x.beads.isEmpty

/-- The live slices of a rod, resident or saved (21 R287). -/
def liveSlices (s : State) (p r : Nat) : List Group :=
  s.groups.filter fun g => match g.slice with | some sl => sl.pair == p && sl.rod == r | none => false

/-- A rod of a pair is able to strike (21 R287, R289, R294). -/
def canStrike (s : State) (p r : Nat) : Bool :=
  let x := getRod s p r
  let c := kindCore p x.cfg.kindL
  rodStrikes x && !(freeSlots s c).isEmpty && regRoom s c 1 x.cfg.regs x.cfg.w && (liveSlices s p r).length < x.cfg.maxres &&
    ctxState s x.cfg.pasid == 0

/-- The rod enters READY now (21 R279, R285); it is a candidate once it is able to strike. -/
def ready (s : State) (p : Nat) (x : Rod) : Rod :=
  { x with st := .ready, readyAt := (dtime s (dieOf (2 * p))).toNat, candAt := none }

/-- The rod enters FILLING with its timer at 0 (21 R285). -/
def filling (x : Rod) : Rod := { x with st := .filling, cycles := 0 }

/-- A rod's strike timer has run (21 R282, R285). -/
def timerDone (x : Rod) : Bool := (if x.cfg.timer = 0 then 2048 else x.cfg.timer) ≤ x.cycles

/-- `n` cycles of a pair's D-clock pass: the timers of its FILLING rods run (21 R285). The clock of a gated core stands still
(31 R369). -/
def dclockGo (s : State) (p n : Nat) : State :=
  if gated s (kindCore p false) then s
  else { s with rods := s.rods.map fun x =>
    if x.1 / 64 == p && x.2.st == .filling then (x.1, { x.2 with cycles := x.2.cycles + n }) else x }

/-- Rods that are able to strike now and are not yet candidates become candidates (21 R279). -/
def noteCands (s : State) : State :=
  { s with rods := s.rods.map fun x =>
      if x.2.candAt.isNone && canStrike s (x.1 / 64) (x.1 % 64) then (x.1, { x.2 with candAt := some s.now }) else x }

/-- Beads have been appended (21 R285). -/
def appended (s : State) (p : Nat) (x : Rod) : Rod :=
  if x.st = .empty ∨ x.st = .filling then
    if x.cfg.w ≤ x.beads.length then ready s p x
    else if x.st = .empty then filling x else x
  else x

/-- The state of a rod after a strike (21 R285). -/
def afterStrike (s : State) (p : Nat) (x : Rod) : Rod :=
  if x.st = .draining then (if x.beads.isEmpty then { x with st := .off } else { x with candAt := none })
  else if x.beads.isEmpty then { x with st := .empty }
  else if x.beads.length < x.cfg.w then filling x
  else ready s p x

/-- The state of a rod after a steal took beads from it (21 R285). -/
def afterSteal (x : Rod) : Rod :=
  if x.beads.isEmpty then { x with st := if x.st = .draining then .off else .empty } else x

/-- The lowest spill area of a rod that no live slice of it holds (21 R287). -/
def freeArea (s : State) (p r maxres : Nat) : Nat :=
  ((List.range maxres).find? fun k => !((liveSlices s p r).any fun g => g.slice.any fun sl => sl.area == k)).getD 0

/-- A strike (03 R47; 21 R287): the first beads become a slice, a team of one without tiles or vault space. -/
def strike (s : State) (p r : Nat) : State :=
  let x := getRod s p r
  let cfg := x.cfg
  let c := kindCore p cfg.kindL
  let n := min cfg.w x.beads.length
  let taken := x.beads.take n
  let area := freeArea s p r cfg.maxres
  let s := putRod s p r (afterStrike s p { x with beads := x.beads.drop n })
  let tid := s.nextId
  let t : Team := ⟨tid, none, r, cfg.pasid, c, [c], 0, 0, [], 0, [tid + 1], false, 0, none, 1⟩
  let g := newGroup (tid + 1) c ((freeSlots s c).headD 0) cfg.pasid tid r 0 cfg.w x.ker (BitVec.ofNat 64 (2 ^ n - 1)) cfg.key
    cfg.tbase (spillReg cfg.spillBase area cfg.spillSz) (maxList 0 (taken.map (·.stamp)))
  let v := taken.zipIdx.foldl (fun (m : Assoc W32) (b, l) =>
    (List.range 8).foldl (fun m i => mapPut 0 m (64 * i + l) (b.args.getD i 0)) m) []
  let g := { g with v := v, deadline := (taken.head?.map (·.deadline)).getD 0
                    budget := if cfg.budget = 0 then 0xFFFFFFFF else cfg.budget
                    slice := some ⟨p, r, area, cfg.budget != 0⟩ }
  addGroup { s with nextId := tid + 2, teams := s.teams ++ [t] } g

/-- An enabled rod of a pair, not DRAINING if `fresh`, with a key and a context; the lowest such (21 R284, R286). -/
def rodFind (s : State) (p : Nat) (key : W64) (pasid : BitVec 20) : Option Nat :=
  (List.range 64).find? fun r => let x := getRod s p r; x.st != .off && x.cfg.key == key && x.cfg.pasid == pasid

/-- DEADLINE of a bead (21 R286). -/
def beadDeadline (now sr : W64) (rel : W32) : W64 :=
  let d := if rel = 0 then sr.toNat else min sr.toNat (now.toNat + rel.toNat)
  BitVec.ofNat 64 (max now.toNat d)

/-- One lane of SPAWN (21 R286): a release at .dev, the bead, and true; or false. -/
def spawnLane (c : Ctx) (key : W64) (b l : Nat) : Ctx × Bool :=
  let pr := pairOf c.g.core
  match rodFind c.s pr key c.g.pasid with
  | none => (c, false)
  | some r =>
    let x := getRod c.s pr r
    if x.st = .draining || 1024 ≤ x.beads.length then (c, false)
    else
      let s := releaseWide (setGroup c.s c.g) c.g.gid c.g.core false
      match getGroup s c.g.gid with
      | none => ({ c with s := s }, false)
      | some g =>
        let bead : Bead := ⟨(List.range 8).map fun i => getV c.r (b + i) l, key,
          beadDeadline (dtime s (dieOf g.core)) g.deadline x.cfg.rel, g.lt, g.pasid, g.core⟩
        ({ c with s := putRod s pr r (appended s pr { x with beads := insBead bead x.beads }), g := g }, true)

/-- SPAWN (21 R286). -/
def execSpawn (_h : Hdr) (d : BitVec 3) (a b : BitVec 6) (s : State) : Res :=
  issue (.spawn _h d a b) s fun c =>
    if c.on != 0 && relHeld c.s c.g.core then againFar c
    else orTrap c 0 [] fun c =>
      let key := getS2 c.r a.toNat
      let (c, res) := (lanesOf c.g.w c.on).foldl (fun (x : Ctx × List (Nat × Bool)) l =>
        let (c, ok) := spawnLane x.1 key b.toNat l
        (c, x.2 ++ [(l, ok)])) (c, [])
      retireAt c c.s (res.foldl (fun g (l, ok) => putP g d.toNat l ok) c.g) []

/-- R284's BOUNDS cases, but for a first rod's wait. -/
def rodCfgBad (s : State) (core : Nat) (sel x : Nat) : Bool :=
  let cfg := rodCfgOf x
  let p := bits sel 10 6
  let r := bits sel 5 0
  let rod := getRod s p r
  let same := fun (y : Rod) => y.cfg.key == cfg.key && y.cfg.pasid == cfg.pasid
  bits sel 31 11 != 0 || dieOf (2 * p) != dieOf core || bits x 204 192 != 0 || bits x 95 1 != 0 || bits x 247 246 == 3 ||
    cfg.maxres == 0 || cfg.pasid == 0 || cfg.spillSz.toNat % 16 != 0 ||
    (bit x 0 && (cfg.key.toNat % 4 != 0 || cfg.kobj == 0 || cfg.kobj.toNat % 128 != 0 ||
      (if cfg.kindL then cfg.tagL else cfg.tagD) == 0 ||
      ((List.range 64).any fun q => q != r && (getRod s p q).st != .off && same (getRod s p q)) ||
      (rod.st != .off && !same rod)))

/-- A team holds bytes of a pair's bead storage (21 R281). -/
def beadsHeld (s : State) (p : Nat) : Bool :=
  s.teams.any fun t => t.home == kindCore p false && 0 < t.vsize && beadBase < t.vbase + t.vsize

/-- EN = 1 of ROD.CFG (21 R284, R285). -/
def rodEnable (s : State) (p : Nat) (cfg : RodCfg) (k : Kernel) (x : Rod) : Rod :=
  let y := { x with cfg := cfg, ker := k }
  if x.st = .off then { y with st := .empty, beads := [] }
  else if x.st = .draining then (if cfg.w ≤ y.beads.length then ready s p y else filling y)
  else y

/-- EN = 0 of ROD.CFG (21 R285). -/
def rodDisable (x : Rod) : Rod :=
  if x.st = .off ∨ x.st = .draining then x
  else if x.beads.isEmpty then { x with st := .off } else { x with st := .draining, candAt := none }

/-- ROD.CFG (21 R281, R284). A first rod waits until no team holds bytes of bead storage; `resvd` notes the pair, so that
placement avoids the range meanwhile. -/
def execRodCfg (_h : Hdr) (a : BitVec 6) (b : BitVec 4) (s : State) : Res :=
  issue (.rodCfg _h a b) s fun c =>
    if c.on = 0 then orTrap c 0 [] fun c => retire c c.g
    else withRecord c b 64 fun c x =>
      let sel := (getS c.r a.toNat).toNat
      let p := bits sel 10 6
      let r := bits sel 5 0
      if rodCfgBad c.s c.g.core sel x then trapAct c (causeBounds 0)
      else if !bit x 0 then
        retireAt c (putRod c.s p r (rodDisable (getRod c.s p r))) c.g recordLevels
      else
        let cfg := rodCfgOf x
        withKernel c cfg.pasid (rodKernel cfg) (if cfg.kindL then 0 else cfg.key) (if cfg.kindL then cfg.key else 0) fun c ker =>
          if !taskSystem c.s p && beadsHeld c.s p then
            again { c with s := setGroup { c.s with resvd := c.s.resvd.filter (· != (p + 1024, c.g.gid)) ++ [(p + 1024, c.g.gid)] } c.g }
          else
            let s := { c.s with resvd := c.s.resvd.filter (· != (p + 1024, c.g.gid)) }
            retireAt c (putRod s p r (rodEnable s p cfg ker (getRod s p r))) c.g recordLevels

/-- ROD.STRIKE (21 R291). -/
def execRodStrike (_h : Hdr) (a : BitVec 6) (s : State) : Res :=
  issue (.rodStrike _h a) s fun c =>
    if c.on = 0 then orTrap c 0 [] fun c => retire c c.g
    else
      let r := (getS c.r a.toNat).toNat
      let p := pairOf c.g.core
      let x := getRod c.s p r
      if 63 < r then trapAct c (causeBounds 0)
      else if x.st != .off && x.cfg.pasid != c.g.pasid then trapAct c (causePerm 0)
      else if (x.st = .empty ∨ x.st = .filling) && !x.beads.isEmpty then
        retireAt c (putRod c.s p r (ready c.s p x)) c.g []
      else retire c c.g

/-- The rod of another pair of a C-die that a steal takes from: the most beads, at least 2, among those the thief has an enabled
rod for that is not DRAINING (21 R288). Pairs and rods ascend, so the first of the fullest wins. -/
def stealVictim (s : State) (p : Nat) : Option (Nat × Nat × Nat) :=
  ((List.range 8).flatMap fun i => (List.range 64).filterMap fun r =>
    let q := p / 8 * 8 + i
    let x := getRod s q r
    if q = p || x.beads.length < 2 || x.st == .off then none
    else
      match rodFind s p x.cfg.key x.cfg.pasid with
      | some t => if (getRod s p t).st = .draining then none else some (q, r, t)
      | none => none).foldl (fun (best : Option (Nat × Nat × Nat)) y =>
        match best with
        | none => some y
        | some z => if (getRod s z.1 z.2.1).beads.length < (getRod s y.1 y.2.1).beads.length then some y else best) none

/-- One steal (21 R288): the last half of the victim's beads move, limited by the thief rod's room. -/
def steal (s : State) (p : Nat) : State :=
  match stealVictim s p with
  | none => s
  | some (q, r, t) =>
    let x := getRod s q r
    let y := getRod s p t
    let n := min (x.beads.length / 2) (1024 - y.beads.length)
    if n = 0 then s
    else
      let k := x.beads.length - n
      let moved := x.beads.drop k
      let s := putRod s q r (afterSteal { x with beads := x.beads.take k })
      putRod s p t (appended s p { y with beads := moved.foldl (fun l b => insBead b l) y.beads })

end Sys2Proof.Machine
end

