-- ==== Sys2Proof/Machine/Coherence.lean ====
section
/-! DEFINITION. Device steps of the memory system: stores leaving a core, accesses performed at homes, vaults, ports and other
devices, replies, reservations and stamps (13 R156 to R170), host accesses (13 R183; 25 R322, R323), requests and answers over
links (25 R326 to R330). -/

namespace Sys2Proof.Machine

/-- Access `k` if it has been sent, is not yet performed, no earlier access keeps its place, and no bias command holds it (13 R156, R175,
R181; 25 R324). -/
def openAcc (s : State) (k : Nat) : Option Acc :=
  match s.accs[k]? with
  | some a => if a.st == .sent && !accBlocked s k && !accHeld s a then some a else none
  | none => none

/-- The access is a load or a prefetch. -/
def isLoadOp : AccOp → Bool
  | .load => true
  | .pfL1 => true
  | .pfL2 => true
  | _ => false

/-- HOME_READ (13 R162, R164, R188). -/
def execHomeRead (k : Nat) (s : State) : Res :=
  .next (match openAcc s k with
    | some a => if isLoadOp a.op then performLoad s k a else s
    | none => s)

/-- LINE_REPLY (13 R162). -/
def execLineReply (k : Nat) (s : State) : Res :=
  .next (match s.accs[k]? with
    | some a => performReply s k a
    | none => s)

/-- AMO_AT_HOME (13 R167). -/
def execAmoAtHome (k : Nat) (s : State) : Res :=
  .next (match openAcc s k with
    | some a => performAmo s k a
    | none => s)

/-- LR_AT_HOME (13 R168). -/
def execLrAtHome (k : Nat) (s : State) : Res :=
  .next (match openAcc s k with
    | some a => if a.op = .lr then performLr s k a else s
    | none => s)

/-- SC_AT_HOME (13 R168). -/
def execScAtHome (k : Nat) (s : State) : Res :=
  .next (match openAcc s k with
    | some a => if a.op = .sc then performSc s k a else s
    | none => s)

/-- VAULT_ACCESS (13 R156, R157). -/
def execVaultAccess (k : Nat) (s : State) : Res :=
  .next (match openAcc s k with
    | some a => match a.place with | .vault key => performVault s k a key | _ => s
    | none => s)

/-- The buffered lines of a core, with whether they have left it, in order. -/
def coreBufs (s : State) (core : Nat) (left : Bool) : List BufLine := s.cbuf.filter fun y => y.core == core && y.left == left

/-- COALESCING_BUFFER_TIMEOUT (13 R158): the `k`-th line still in a core's buffer leaves for its home, after the earlier entries of its
physical line (13 R175). -/
def execCoalescingBufferTimeout (core k : Nat) (s : State) : Res :=
  let bufs := coreBufs s core false
  .next (match bufs[k]? with
    | some y =>
      if (bufs.take k).any fun z => z.line == y.line then s
      else { s with cbuf := updFirst (· == y) (fun z => { z with left := true }) s.cbuf }
    | none => s)

/-- The host stores a core has posted, by index in the list of accesses. -/
def hostStores (s : State) (core : Nat) : List Nat :=
  (List.range s.accs.length).filter fun k =>
    match s.accs[k]? with
    | some a => a.core == core && a.op == .store && (match a.place with | .host _ => true | _ => false) && !accBlocked s k
    | none => false

/-- STORE_AT_HOME (13 R163): the `k`-th line that has left a core's buffer, or past those the core's posted stores to host memory
(25 R321), is performed. Lines of one physical line keep their order. -/
def execStoreAtHome (core k : Nat) (s : State) : Res :=
  let bufs := coreBufs s core true
  .next (match bufs[k]? with
    | some y =>
      if ((bufs.take k).any fun z => z.line == y.line) || biasHeld s y.line then s else (performBuf { s with cbuf := s.cbuf.erase y } y).1
    | none =>
      match (hostStores s core)[k - bufs.length]? with
      | some j =>
        match s.accs[j]? with
        | some a => match a.place with | .host pa => performHostStore s j a pa | _ => s
        | none => s
      | none => s)

/-- RESERVATION_TIMEOUT (13 R169). -/
def execReservationTimeout (k : Nat) (s : State) : Res := .next { s with resv := dropAt s.resv k }

/-- SC_PRECEDENCE_EXPIRY (13 R170). -/
def execScPrecedenceExpiry (k : Nat) (s : State) : Res :=
  .next { s with scf := updAt (fun r => { r with window := false, fails := 0 }) s.scf k }

/-- LT_ADVANCE (13 R161): a resident group's lt gains one. -/
def execLtAdvance (gid : Nat) (s : State) : Res :=
  .next (updGroup s gid fun g => if isResident g && g.lt + 1 < 2 ^ 48 then { g with lt := g.lt + 1 } else g)

/-- A stamp after a rebase (13 R166). -/
def lowerStamp (t : Nat) : Nat := t - 2 ^ 46

/-- The park mark of a lane after a rebase. -/
def lowerPark : Park → Park
  | .satisfied w st t => .satisfied w st (lowerStamp t)
  | p => p

/-- An access after a rebase. -/
def lowerAcc (a : Acc) : Acc :=
  { a with lt := lowerStamp a.lt, rst := lowerStamp a.rst, st := match a.st with
      | .done v t le ok => .done v (lowerStamp t) (lowerStamp le) ok
      | st => st }

/-- A stamp map after a rebase. -/
def lowerMap (m : Assoc Nat) : Assoc Nat := (m.map fun x => (x.1, lowerStamp x.2)).filter fun x => x.2 != 0

/-- The contexts whose descriptor is valid, found by the listed bytes of the context table (21 R265). -/
def validCtxs (s : State) : List (BitVec 20) :=
  let b := (regGet s offCtxtab).toNat
  (s.mem.filter fun c => b ≤ c.1 && c.1 < b + 2 ^ 26 && (c.1 - b) % 64 == 0).filterMap fun c =>
    let x := BitVec.ofNat 20 ((c.1 - b) / 64)
    if ctxValid s x then some x else none

/-- The CS of a context's chimes after a rebase (13 R166; 21 R292): no access performs this, and the lines keep their stamps. -/
def lowerChimes (s : State) (c : BitVec 20) : State :=
  (List.range 4096).foldl (fun s n =>
    let s := recallHost s (chimeAddr s c n) .i
    let t := chimeCs s c n
    if t = 0 then s else memWrite s 0 (chimeAddr s c n + 8) 6 (lowerStamp t)) s

/-- The CS of a barrier after a rebase. -/
def lowerBar (s : State) (key : Nat) : State :=
  let b := readBar s key
  if b.valid then writeBar s key { b with cs := lowerStamp b.cs } else s

/-- The beads of every rod after a rebase, in their storage too (21 R283). -/
def lowerBeads (s : State) : State :=
  s.rods.foldl (fun s x => putRod s (x.1 / 64) (x.1 % 64)
    { x.2 with beads := x.2.beads.map fun b => { b with stamp := lowerStamp b.stamp } }) s

/-- A rebase is due: some lt or mt has reached 2^47 (13 R166). -/
def rebaseDue (s : State) : Bool :=
  (s.groups.any fun g => isResident g && 2 ^ 47 ≤ g.lt) || s.mt.any fun m => 2 ^ 47 ≤ m.2

/-- Accesses in flight that a rebase lets complete: all but register stores that wait for a command. -/
def inFlight (s : State) : Bool :=
  s.accs.any fun a => (a.st == .sent || match a.st with | .replied .. => true | _ => false) && !(a.ent == 16 && a.sys)

/-- Every core's buffered stores are performed. -/
def drainAll (s : State) : State := (List.range 64).foldl (fun s c => (drainCore s c).1) s

/-- Every stamp of the device is lowered (13 R166). -/
def lowerAll (s : State) : State :=
  let s := (validCtxs s).foldl lowerChimes s
  let s := s.bars.foldl lowerBar (lowerBeads s)
  { s with
    groups := s.groups.map fun g =>
      { g with lt := if isResident g then lowerStamp g.lt else g.lt, rlt := lowerStamp g.rlt, elt := lowerStamp g.elt
               lanes := g.lanes.map fun x => { x with park := lowerPark x.park } }
    home := s.home.map fun h => (h.1, { h.2 with wts := lowerStamp h.2.wts, rts := lowerStamp h.2.rts })
    mt := lowerMap s.mt, vs := lowerMap s.vs, hs := lowerMap s.hs, portLt := lowerMap s.portLt, announced := lowerMap s.announced
    accs := s.accs.map lowerAcc
    ops := s.ops.map fun o => { o with lt := lowerStamp o.lt, stamp := lowerStamp o.stamp }
    mq := s.mq.map fun q => (q.1, q.2.map fun o => { o with lt := lowerStamp o.lt, stamp := lowerStamp o.stamp })
    grids := s.grids.map fun (x : Grid) => { x with lt := lowerStamp x.lt, stamp := lowerStamp x.stamp }
    teams := s.teams.map fun t => { t with stamp := lowerStamp t.stamp } }

/-- REBASE (13 R166): due, with every access in flight complete, the buffers empty and no bias command running (25 R324), the stamps are lowered, the L1s drop their
lines, every reservation is lost and the epoch count advances. A saved group keeps the lt of its frame. -/
def execRebase (s : State) : Res :=
  .next (if !rebaseDue s || inFlight s || s.biasRun.isSome then s
    else
      let s := lowerAll (drainAll s)
      settleFilters { s with l1 := [], resv := [], epoch := s.epoch + 1 })

/-- The lt of a host port (13 R183). -/
def portStamp (s : State) (port : Bool) : Nat := mapGet 0 s.portLt (bitNat port)

/-- Raise the lt of a host port (13 R183). -/
def raisePort (s : State) (port : Bool) (t : Nat) : State :=
  { s with portLt := mapPut 0 s.portLt (bitNat port) (max (portStamp s port) t) }

/-- A host port reaches the line: the port has trained, and the line is device memory outside the root region (31 R359, R371). -/
def hostReach (s : State) (port : Bool) (pa : Nat) : Bool := s.cxl.getLsbD (bitNat port) && pa < Config.rootBase

/-- Set the host state of a line of a host-bias page (25 R323). -/
def hostState (s : State) (l : Nat) (m : Mesi) (port : Bool) : State :=
  setHome s l { homeAt s l with mesi := m, port := port }

/-- Data of a host read leave through the port. -/
def hostData (s : State) (port : Bool) (l : Nat) (d : Line) : State :=
  { s with outbox := s.outbox ++ [.line (bitNat port) (128 * l) d] }

/-- HOST_CXL_READ (13 R183; 25 R322 to R324; 31 R359): a load under the port's lt; a line of a host-bias page becomes S, or E if no
host copy exists. Poison answers free data. -/
def execHostCxlRead (port : Bool) (pa : BitVec 64) (s : State) : Res :=
  let l := pa.toNat / 128
  .next (if !s.cxl.getLsbD (bitNat port) || Config.memSize ≤ pa.toNat || biasHeld s l then s
    else if inRoot pa.toNat then hostData s port l (BitVec.allOnes 1024)
    else
      let s := backInval s l .s
      let h := homeAt s l
      let rts := max h.rts (max (portStamp s port) h.wts + h.pred)
      let s := raisePort (setHome s l { h with rts := rts, written := false }) port h.wts
      let s := if hostBias s l then hostState s l (if h.mesi = .i then .e else .s) port else s
      if s.poison.contains l then let (d, s) := drawLine s; hostData s port l d
      else hostData s port l (clearLine s (hostKey s port) l))

/-- HOST_CXL_WRITE (13 R183; 25 R321): bytes of one line stored under the port's lt. -/
def execHostCxlWrite (port : Bool) (pa : BitVec 64) (msk : BitVec 128) (data : BitVec 1024) (s : State) : Res :=
  .next (if !hostReach s port pa.toNat || biasHeld s (lineOf pa.toNat) then s
    else
      let (s, ws) := homeStore s (hostKey s port) (pa.toNat / 128) msk data (portStamp s port) false
      raisePort s port ws)

/-- HOST_READ_FOR_OWNERSHIP (25 R323): a line of a host-bias page. -/
def execHostReadForOwnership (port : Bool) (pa : BitVec 64) (s : State) : Res :=
  let l := pa.toNat / 128
  .next (if !hostReach s port pa.toNat || !hostBias s l || biasHeld s l then s
    else
      let s := if (homeAt s l).port != port then backInval s l .i else s
      let h := homeAt s l
      let ws := max (portStamp s port) (h.rts + 1)
      let s := dropResv (raisePort (setHome s l { h with wts := ws, rts := ws, written := true, mesi := .e, port := port }) port ws) l
      if s.poison.contains l then let (d, s) := drawLine s; hostData s port l d
      else hostData s port l (clearLine s (hostKey s port) l))

/-- HOST_WRITE_BACK (25 R323): modified data of a line the host holds in E replace the line's bytes under its wts. -/
def execHostWriteBack (port : Bool) (pa : BitVec 64) (data : BitVec 1024) (s : State) : Res :=
  let l := pa.toNat / 128
  .next (if !hostReach s port pa.toNat || (homeAt s l).mesi != .e || (homeAt s l).port != port || biasHeld s l then s
    else
      let s := hostWrites s l port data.toNat
      setHome s l { homeAt s l with mesi := .i })

/-- A request asks for one access as instructions make them: of 4 or 8 bytes if it reads and writes, else of up to 16, at a multiple of its
size (13 R155; 15 R185; 25 R328). -/
def requestOk (q : RemoteReq) : Bool :=
  (match q.op with
    | .load => [1, 2, 4, 8, 16].contains q.bytes
    | .store _ => [1, 2, 4, 8, 16].contains q.bytes
    | .amo .. => [4, 8].contains q.bytes
    | .red .. => [2, 4, 8].contains q.bytes) && q.win.toNat % q.bytes == 0

/-- A running bias command holds a request at its target (25 R324). -/
def requestHeld (s : State) (q : RemoteReq) : Bool :=
  q.incn.toNat == incn s && targetHeld s q.win.toNat q.bytes q.win.toNat q.bytes q.op

/-- REMOTE_REQUEST_AT_TARGET (25 R324, R328, R329): performed if its INCN is this device's, and answered. -/
def execRemoteRequestAtTarget (q : RemoteReq) (s : State) : Res :=
  .next (if !requestOk q || requestHeld s q then s
    else
      let (s, r) : State × Remote :=
        if q.incn.toNat = incn s then atTarget s q.win.toNat q.bytes q.win.toNat q.bytes q.lt.toNat q.op else (s, .error .remote)
      let ans : RemoteReply := match r with
        | .ok (v, t) => .ok (BitVec.ofNat 128 v) (BitVec.ofNat 48 t)
        | .error .remote => .failed
        | .error (.ecc i) => .ecc (Fin.ofNat 3 i.toNat)
      { s with outbox := s.outbox ++ [.reply q.src ans] })

/-- The answer to access `a`: this device's own for its own identifier, else what arrives (25 R327, R330). Half of an access of 16 bytes
is looked up with the other (25 R328). -/
def answerOf (s : State) (a : Acc) (dev win : Nat) (r : RemoteReply) : State × Remote :=
  if dev = devid s then
    (if a.wide then atTarget s win a.n (win - 8 * a.part) 16 (accLt s a) (remoteOpOf a)
      else atTarget s win a.n win a.n (accLt s a) (remoteOpOf a))
  else
    match r with
    | .ok v t => (s, .ok (v.toNat % 2 ^ (8 * a.n), t.toNat))
    | .failed => (s, .error .remote)
    | .ecc i => (s, .error (.ecc (BitVec.ofNat 16 i.val)))

/-- The access reads, modifies and writes. -/
def isAmo : AccOp → Bool
  | .amo .. => true
  | _ => false

/-- Remote access `b`, the `k`-th, is answered. -/
def remoteGo (s : State) (k : Nat) (r : RemoteReply) : State :=
  match s.accs[k]? with
  | some a =>
    match a.place with
    | .remote dev win =>
      let (s, ans) := answerOf s a dev win r
      performRemote s k a ans
    | _ => s
  | none => s

/-- The accesses of the instruction of `a` that it makes at this device as their target and that have not been performed (25 R327). -/
def ownSent (s : State) (a : Acc) : List Nat :=
  (List.range s.accs.length).filter fun k =>
    match s.accs[k]? with
    | some b => b.gid == a.gid && b.ent == a.ent && b.st == .sent && match b.place with | .remote d _ => d == devid s | _ => false
    | none => false

/-- The lanes of an atomic at this device as its target are performed together, in ascending order, so that none of them has an effect
beside one that fails; an earlier access of another instruction, or a bias command, that keeps one of them back keeps all back
(03 R52; 13 R181; 17 R220; 25 R324, R327). -/
def ownRmw (s : State) (a : Acc) : State :=
  let ks := ownSent s a
  if ks.any fun k => (blockedBy s k fun b => !(b.gid == a.gid && b.ent == a.ent)) || (s.accs[k]?).any (accHeld s) then s
  else ks.foldl (fun s k => remoteGo s k .failed) s

/-- REMOTE_COMPLETION (25 R330); an atomic at this device as its target has no effect beside an access of its instruction that fails
(17 R220). -/
def execRemoteCompletion (k : Nat) (r : RemoteReply) (s : State) : Res :=
  .next (match openAcc s k with
    | some a =>
      match a.place with
      | .remote dev _ =>
        if dev = devid s && isAmo a.op then rmwStep s k a (· != devid s) fun s => ownRmw s a
        else remoteGo s k r
      | _ => s
    | none => s)

/-- The remote accesses that have left by a port complete with REMOTE; `k` counts the accesses still to look at, from the last
(25 R330). -/
def failRouted (s : State) (port : Nat) : Nat → State
  | 0 => s
  | k + 1 =>
    let s := match s.accs[k]? with
      | some a =>
        match a.place with
        | .remote dev _ => if a.st == .sent && dev != devid s && a.port == port then performRemote s k a (.error .remote) else s
        | _ => s
      | none => s
    failRouted s port k

/-- A Carillon port goes down (25 R330): the accesses that have left by it fail, and the routing entries that name it now read as
unreachable until software rewrites them. -/
def portGone (s : State) (port : Nat) : State :=
  if 17 < port then s
  else
    let s := { s with portDown := if s.portDown.contains port then s.portDown else s.portDown ++ [port]
                      rerouted := s.rerouted.filter fun d => entryPort s d != port }
    failRouted s port s.accs.length

/-- LINK_PORT_DOWN (25 R326, R330). -/
def execLinkPortDown (port : BitVec 5) (s : State) : Res := .next (portGone s port.toNat)

/-- FLIT_REPLAY (25 R326): the sixteenth failed replay in a row takes the port down. -/
def execFlitReplay (port : BitVec 5) (ok : Bool) (s : State) : Res :=
  let p := port.toNat
  .next (if 17 < p then s
    else if ok then { s with replays := mapPut 0 s.replays p 0 }
    else
      let n := mapGet 0 s.replays p + 1
      let s := { s with replays := mapPut 0 s.replays p (if 16 ≤ n then 0 else n) }
      if 16 ≤ n then portGone s p else s)

end Sys2Proof.Machine
end

