-- ==== Sys2Proof/Machine/Control.lean ====
section
/-! DEFINITION. Branches, calls, returns, meeting addresses, EXIT, YIELD and NOP (03 R30; 09 R101 to R109; 21 R290). -/

namespace Sys2Proof.Machine

/-- The O18 target of a branch (09 R101). -/
def branchTarget (c : Ctx) (o : BitVec 18) : W64 :=
  if formL c.g then c.pc + BitVec.ofInt 64 (4 * o.toInt) else packetOf c.g c.pc + BitVec.ofInt 64 (12 * o.toInt)

/-- ALIGN in the active lanes whose target may not be branched to (09 R105). -/
def misaligned (c : Ctx) (t : Nat → W64) : List (Nat × Cause) :=
  ((lanesOf c.g.w c.on).filter fun l => !targetAligned c.g (t l)).map fun l => (l, causeAlign 0)

/-- BRA (09 R104). -/
def execBra (_h : Hdr) (o : BitVec 18) (s : State) : Res :=
  issue (.bra _h o) s fun c => orTrap c 0 [] fun c => retireTo c c.g false fun _ => branchTarget c o

/-- BRU (09 R104). -/
def execBru (_h : Hdr) (o : BitVec 18) (s : State) : Res :=
  issue (.bru _h o) s fun c => orTrap c 0 [] fun c => retireTo c c.g false fun _ => branchTarget c o

/-- BRX (09 R105). -/
def execBrx (_h : Hdr) (a : BitVec 6) (s : State) : Res :=
  issue (.brx _h a) s fun c =>
    let t := getV2 c.r a.toNat
    orTrap c 0 (misaligned c t) fun c => retireTo c c.g false t

/-- The table entries of JTB in the lanes of a mask (09 R105). -/
def jtbReqs (c : Ctx) (a : BitVec 6) (b : BitVec 4) (m : W64) : Ctx × List (Nat × Cause) × List Req :=
  gather c m (getA c.r b.toNat) (fun l => 4 * ((getV c.r a.toNat l).toNat : Int)) 4 .rd

/-- The lanes of accesses that have not failed. -/
def readLanes (as : List Acc) : W64 := maskOf (accLanes as) &&& ~~~ maskOf ((as.filterMap accCause).map (·.1))

/-- JTB's targets have been read: image start plus table entry (09 R105). The causes that the other lanes met when the instruction read its
operands (09 R103) rank with the targets of those that could read (17 R209). -/
def settleJtb (c : Ctx) (as : List Acc) : State :=
  if staleLoad c as then replayLoad c
  else
    let t := fun l => imageStart c.g + BitVec.ofNat 64 (accVal as l)
    orTrap c 1 (c.cs ++ as.filterMap accCause ++ misaligned { c with on := c.on &&& readLanes as } t) fun c =>
      retireTo c (joinAccs c.g as) false t

/-- JTB (09 R105): the table entry is read as a relaxed LD.b32. -/
def execJtb (_h : Hdr) (a : BitVec 6) (b : BitVec 4) (s : State) : Res :=
  issue (.jtb _h a b) s fun c =>
    withAccs c (fun c =>
      let (c, cs, qs) := jtbReqs c a b c.on
      if qs.isEmpty then orTrap c 1 cs fun c => retireTo c c.g false fun _ => c.nxt
      else sendLoads { c with cs := cs } qs 4 (isSys (getA c.r b.toNat)) false false false [] settleJtb) settleJtb

/-- The pieces of the 16 bytes of a spill slot: two of eight bytes, or single bytes where it is not aligned. -/
def spillPieces (x : Nat) : List (Nat × Nat) :=
  if x % 16 = 0 then [(x, 8), (x + 8, 8)] else (List.range 16).map fun k => (x + k, 1)

/-- The cause that is reported first, the earlier of two with one rank (17 R209). -/
def earlierCause (x y : Cause) : Cause := if y.rank < x.rank then y else x

/-- The spill slot of lane l at a depth: its checks and the places of its pieces, or the first cause among them (03 R30). -/
def spillSlot (s : State) (g : Group) (r : Group) (l depth : Nat) (kind : AccessKind) :
    Except Cause (List (Nat × Nat × Place)) × State :=
  let ar := getA r 15
  let x := ar.ptr.toNat + (depth * g.w + l) * 16
  if ar.space != 0 || !ar.perm.getLsbD (permBit kind) || x < ar.base.toNat || ar.limit.toNat < x + 16 || 2 ^ 57 ≤ x then
    (.error causeStack, s)
  else
    (spillPieces x).foldl (fun (y : Except Cause (List (Nat × Nat × Place)) × State) (p : Nat × Nat) =>
      let (q, s) := globalPlace y.2 g l p.1 (needBits kind) kind (addr64 x)
      match y.1, q with
      | .error e, .error e' => (.error (earlierCause e e'), s)
      | .error e, .ok _ => (.error e, s)
      | .ok _, .error e => (.error e, s)
      | .ok ps, .ok pl => (.ok (ps ++ [(p.1, p.2, pl)]), s)) (.ok [], s)

/-- Spill slots of the lanes that need one: causes found, and the pieces of each other lane (03 R30). -/
def spillSlots (c : Ctx) (ls : List Nat) (depth : Nat → Nat) (kind : AccessKind) :
    Ctx × List (Nat × Cause) × List (Nat × Nat × Nat × Place) :=
  ls.foldl (fun (x : Ctx × List (Nat × Cause) × List (Nat × Nat × Nat × Place)) l =>
    let (c, cs, ps) := x
    let (r, s) := spillSlot c.s c.g c.r l (depth l) kind
    match r with
    | .error e => ({ c with s := s }, cs ++ [(l, e)], ps)
    | .ok q => ({ c with s := s }, cs, ps ++ q.map fun y => (l, y))) (c, [], [])

/-- Store a stack entry of each lane into its spill slot. -/
def spillStore (c : Ctx) (ps : List (Nat × Nat × Nat × Place)) (val : Nat → StackEnt) (base : Nat → Nat) : Ctx :=
  ps.foldl (fun c (l, va, n, pl) =>
    let x := (val l).ra.toNat + (val l).meet.toNat * 2 ^ 64
    storePart c ⟨l, va, pl⟩ n 0 (x / 2 ^ (8 * (va - base l))) false false) c

/-- CALL and CALLX (03 R30; 09 R106): push, with a spill of the oldest entry of a full stack. They set MEET and the next PC, and the entry
divides by the pair, as a CALL to its own fall-through shows beside lanes whose guard is false: R108 names MEET instructions and RET only
(DESIGN CHOICE, unsafe; assumption 90). -/
def doCall (c : Ctx) (t : Nat → W64) : State :=
  let bad := misaligned c t
  let ls := (lanesOf c.g.w c.on).filter fun l => (laneAt c.g l).stack.length = 4 && !(bad.any fun x => x.1 == l)
  let (c, cs, ps) := spillSlots c ls (fun l => (laneAt c.g l).sd.toNat) .wr
  orTrap c 2 (bad ++ cs) fun c =>
    let old := fun l => (laneAt c.g l).stack.headD ⟨0, 0⟩
    let base := fun l => (getA c.r 15).ptr.toNat + ((laneAt c.g l).sd.toNat * c.g.w + l) * 16
    let c := spillStore c (ps.filter fun x => c.on.getLsbD x.1) old base
    let g := updLanes c.g c.on fun _ x =>
      let full := x.stack.length == 4
      { x with stack := (if full then x.stack.drop 1 else x.stack) ++ [⟨c.nxt, x.meet⟩]
               sd := if full then x.sd + 1 else x.sd, meet := Config.none64 }
    retireTo c g true t

/-- CALL (09 R106). -/
def execCall (_h : Hdr) (o : BitVec 18) (s : State) : Res :=
  issue (.call _h o) s fun c => doCall c fun _ => branchTarget c o

/-- CALLX (09 R106). -/
def execCallx (_h : Hdr) (a : BitVec 6) (s : State) : Res :=
  issue (.callx _h a) s fun c => doCall c (getV2 c.r a.toNat)

/-- The entry a lane pops: the youngest on the chip, or the refilled one, as its accesses read it (03 R30). -/
def popped (g : Group) (as : List Acc) (l : Nat) : StackEnt :=
  match (laneAt g l).stack.getLast? with
  | some x => x
  | none =>
    let mine := as.filter fun a => a.lane == l
    let b := ((minList (mine.map (·.va))).getD 0)
    let v := mine.foldl (fun v a => match a.st with | .done x _ _ _ => v + x.toNat * 2 ^ (8 * (a.va - b)) | _ => v) 0
    ⟨BitVec.ofNat 64 v, BitVec.ofNat 64 (v / 2 ^ 64)⟩

/-- The refills of RET in the lanes `ls` (03 R30). -/
def refills (c : Ctx) (ls : List Nat) : Ctx × List (Nat × Cause) × List (Nat × Nat × Nat × Place) :=
  spillSlots c (ls.filter fun l => (laneAt c.g l).stack.isEmpty && (laneAt c.g l).sd != 0) (fun l => (laneAt c.g l).sd.toNat - 1) .rd

/-- The active lanes of RET with nothing to pop (03 R30). -/
def underflow (c : Ctx) : List (Nat × Cause) :=
  ((lanesOf c.g.w c.on).filter fun l => (laneAt c.g l).stack.isEmpty && (laneAt c.g l).sd = 0).map fun l => (l, causeStack)

/-- The lanes of a mask whose stack holds an entry on the chip. -/
def chipLanes (g : Group) (m : W64) : W64 := m &&& laneWhere g fun x => !x.stack.isEmpty

/-- RET with every refill read (09 R106). The causes of all lanes rank together (17 R209), those met when it read its operands among them
(09 R103). -/
def settleRet (c : Ctx) (as : List Acc) : State :=
  if staleLoad c as then replayLoad c
  else
    let t := fun l => (popped c.g as l).ra
    let known := chipLanes c.g c.on ||| (c.on &&& readLanes as)
    orTrap c 1 (c.cs ++ as.filterMap accCause ++ underflow c ++ misaligned { c with on := known } t) fun c =>
      let g := updLanes (joinAccs c.g as) c.on fun l x =>
        { x with stack := x.stack.dropLast, sd := if x.stack.isEmpty then x.sd - 1 else x.sd, meet := (popped c.g as l).meet }
      retireTo c g true t

/-- RET (03 R30; 09 R106). -/
def execRet (_h : Hdr) (s : State) : Res :=
  issue (.ret _h) s fun c =>
    withAccs c (fun c =>
      let (c, cs, ps) := refills c (lanesOf c.g.w c.on)
      let c := { c with cs := cs }
      if ps.isEmpty then settleRet c []
      else
        let as := ps.map fun (l, va, n, pl) => loadAcc c ⟨l, va, pl⟩ n 0 false false false false
        sendAccs (retagAll c as) as [] settleRet) settleRet

/-- EXIT (03 R32; 09 R109): the active lanes end, their stacks and reservations with them. -/
def execExit (_h : Hdr) (s : State) : Res :=
  issue (.exit _h) s fun c => orTrap c 0 [] fun c =>
    let g := updLanes c.g c.on fun _ x => { x with exited := true, stack := [] }
    let c := { c with s := loseResv c.s c.g.gid c.on }
    let s := retireTo c g false fun _ => c.nxt
    (List.range 16).foldl (fun s n => tbarCheck s c.g.team n) s

/-- The top frame's code is BUDGET, in a slice (21 R290). -/
def budgetHandler (g : Group) : Option SliceInfo :=
  match g.frames.getLast? with
  | some f => if f.fr.code = 0x0501 then g.slice else none
  | none => none

/-- YIELD (09 R109): the core's selector takes the group last at its next selection; in a slice's BUDGET handler it refills the budget and saves the slice (21 R290). -/
def execYield (_h : Hdr) (s : State) : Res :=
  issue (.yield _h) s fun c => orTrap c 0 [] fun c =>
    match (if c.on = 0 then none else budgetHandler c.g) with
    | none => retire c { c.g with yielded := c.g.yielded || c.on != 0 }
    | some sl =>
      let b := (getRod c.s sl.pair sl.rod).cfg.budget
      let g := { c.g with budget := if b = 0 then 0xFFFFFFFF else b, slice := some { sl with limited := b != 0 } }
      let s := retire c g
      match getGroup s g.gid with
      | none => s
      | some g' =>
        let g' := landAll g'
        if savable s g' && !saveHeld s g' then (saveGroup s g' fun k => .savedYield k s.now).getD s
        else if (spFree s g'.pasid).isNone then s else again c

/-- NOP (09 R109). -/
def execNop (_h : Hdr) (s : State) : Res :=
  issue (.nop _h) s fun c => simple c fun c => c.g

/-- MEET sets the active lanes' meeting address; every lane goes on at the fall-through (09 R107, R108). -/
def setMeet (c : Ctx) (m : Nat → W64) : State :=
  retireTo c (updLanes c.g c.on fun l x => { x with meet := m l }) true fun _ => c.nxt

/-- MEET (09 R107). -/
def execMeet (_h : Hdr) (o : BitVec 18) (s : State) : Res :=
  issue (.meet _h o) s fun c => orTrap c 0 [] fun c => setMeet c fun _ => branchTarget c o

/-- MEET.X (09 R107). -/
def execMeetX (_h : Hdr) (a : BitVec 6) (s : State) : Res :=
  issue (.meetX _h a) s fun c =>
    let t := getV2 c.r a.toNat
    orTrap c 0 (misaligned c t) fun c => setMeet c t

/-- MEET.R (09 R107). -/
def execMeetR (_h : Hdr) (s : State) : Res :=
  issue (.meetR _h) s fun c => orTrap c 0 [] fun c => setMeet c fun _ => Config.none64

end Sys2Proof.Machine
end

