-- ==== Sys2Proof/Machine/Flags.lean ====
section
/-! DEFINITION. Integer results and conditions (05 R66; 07 R83; 09 R110, R113 to R118). -/

namespace Sys2Proof.Machine

/-- A signed n-bit result: narrowed, or saturated to the signed range (07 R83). -/
def intResult (n : Nat) (sat_ : Bool) (x : Int) : BitVec n :=
  BitVec.ofInt n (if sat_ then sat x (-(2 ^ (n - 1))) (2 ^ (n - 1) - 1) else x)

/-- An operand read unsigned or signed. -/
def readInt {n : Nat} (uns : Bool) (x : BitVec n) : Int := if uns then x.toNat else x.toInt

/-- An integer condition (05 R66). -/
def intCond {n : Nat} (cc : IntCond) (a b : BitVec n) : Bool :=
  match cc with
  | .eq => a == b
  | .ne => a != b
  | .lt => decide (a.toInt < b.toInt)
  | .le => decide (a.toInt ≤ b.toInt)
  | .ltu => decide (a.toNat < b.toNat)
  | .leu => decide (a.toNat ≤ b.toNat)

/-- Bits [2n−1:n] of the exact product (09 R114). -/
def mulHigh {n : Nat} (uns : Bool) (a b : BitVec n) : BitVec n := BitVec.ofInt n (readInt uns a * readInt uns b / 2 ^ n)

/-- The quotient, truncated toward zero; all ones for a zero divisor (09 R114). -/
def quot {n : Nat} (uns : Bool) (a b : BitVec n) : BitVec n :=
  if b = 0 then BitVec.allOnes n else BitVec.ofInt n ((readInt uns a).tdiv (readInt uns b))

/-- The remainder; the dividend for a zero divisor (09 R114). -/
def rema {n : Nat} (uns : Bool) (a b : BitVec n) : BitVec n :=
  if b = 0 then a else BitVec.ofInt n ((readInt uns a).tmod (readInt uns b))

/-- The smaller operand (09 R114). -/
def minInt {n : Nat} (uns : Bool) (a b : BitVec n) : BitVec n := if readInt uns b < readInt uns a then b else a

/-- The larger operand (09 R114). -/
def maxInt {n : Nat} (uns : Bool) (a b : BitVec n) : BitVec n := if readInt uns a < readInt uns b then b else a

/-- SHL by s (09 R116). -/
def shiftL {n : Nat} (a : BitVec n) (s : Nat) : BitVec n := if s < n then a <<< s else 0

/-- SHR by s (09 R116). -/
def shiftR {n : Nat} (a : BitVec n) (s : Nat) : BitVec n := if s < n then a >>> s else 0

/-- SAR by s (09 R116). -/
def shiftA {n : Nat} (a : BitVec n) (s : Nat) : BitVec n :=
  if s < n then a.sshiftRight s else if 0 ≤ a.toInt then 0 else BitVec.allOnes n

/-- ROL by s (09 R116). -/
def rotL {n : Nat} (a : BitVec n) (s : Nat) : BitVec n := a.rotateLeft (s % n)

/-- Position and effective length of a bit field (09 R117). -/
def fieldOf (b : W32) : Nat × Nat :=
  let pos := b.toNat % 256
  (pos, if 32 ≤ pos then 0 else min (b.toNat / 256 % 256) (32 - pos))

/-- BFX (09 R117). -/
def bfExtract (uns : Bool) (a b : W32) : W32 :=
  let (pos, k) := fieldOf b
  let x := a.toNat / 2 ^ pos % 2 ^ k
  if k = 0 then 0 else BitVec.ofInt 32 (if uns || !x.testBit (k - 1) then (x : Int) else (x : Int) - 2 ^ k)

/-- BFI into d (09 R117). -/
def bfInsert (d a b : W32) : W32 :=
  let (pos, k) := fieldOf b
  let m : W32 := BitVec.ofNat 32 ((2 ^ k - 1) * 2 ^ pos)
  (d &&& ~~~m) ||| ((a <<< pos) &&& m)

/-- The number of 1 bits (09 R118). -/
def popCount {n : Nat} (a : BitVec n) : Nat := ((List.range n).filter fun i => a.getLsbD i).length

/-- Leading zero bits, n for zero (09 R118). -/
def leadZeros {n : Nat} (a : BitVec n) : Nat :=
  ((List.range n).find? fun i => a.getLsbD (n - 1 - i)).getD n

/-- Trailing zero bits, n for zero (09 R118). -/
def trailZeros {n : Nat} (a : BitVec n) : Nat := ((List.range n).find? fun i => a.getLsbD i).getD n

/-- Bits in reverse order (09 R118). -/
def revBits {n : Nat} (a : BitVec n) : BitVec n :=
  BitVec.ofNat n ((List.range n).foldl (fun x i => if a.getLsbD (n - 1 - i) then x + 2 ^ i else x) 0)

/-- The absolute value, narrowed or saturated (09 R118). -/
def absInt {n : Nat} (sat_ : Bool) (a : BitVec n) : BitVec n := intResult n sat_ a.toInt.natAbs

end Sys2Proof.Machine
end

