-- ==== Sys2Proof/Machine/FloatOps.lean ====
section
/-! DEFINITION. Floating point, conversions and block scales (07 R88 to R95, R98, R100; 11 R133 to R145). -/

namespace Sys2Proof.Machine

/-- The scalar format of a float type (11 R133). -/
def ftyFmt : FTy → Fmt
  | .f32 => fp32
  | .f64 => fp64
  | .f16x2 => fp16
  | .bf16x2 => bfp16

/-- The flush bit that governs a float type (07 R92). -/
def ftyFlush (r : Group) : FTy → Bool
  | .f32 => r.rmode.getLsbD 3
  | .f64 => false
  | _ => r.rmode.getLsbD 4

/-- The dynamic rounding mode (07 R90). -/
def dynMode (r : Group) : RMode := rmodeOf (r.rmode.extractLsb' 0 2)

/-- Apply an element function to every element of operands of a float type (11 R133). -/
def perElem (ty : FTy) (f : Nat → Nat → Nat → Nat) (a b d : Nat) : Nat :=
  match ty with
  | .f32 => f a b d
  | .f64 => f a b d
  | _ => f (a % 65536) (b % 65536) (d % 65536) + 65536 * f (a / 65536) (b / 65536) (d / 65536)

/-- The pattern of an operand of a float type in one lane. -/
def fltOpnd (r : Group) (ty : FTy) (n l : Nat) : Nat :=
  match ty with
  | .f64 => (getV2 r n l).toNat
  | _ => (getV r n l).toNat

/-- Write a pattern of a float type to D: fixed latency, or variable (23 R300). -/
def fltPut (late : Bool) (ty : FTy) (g : Group) (d l x : Nat) : Group :=
  match ty, late with
  | .f64, false => putV2 g d l (BitVec.ofNat 64 x)
  | .f64, true => lateVn g d l 2 x
  | _, false => putV g d l (BitVec.ofNat 32 x)
  | _, true => lateV g d l (BitVec.ofNat 32 x)

/-- An instruction on one, two or three float operands: `f` works on element patterns. -/
def fltOp (c : Ctx) (late : Bool) (ty : FTy) (d a b e : BitVec 6) (f : Nat → Nat → Nat → Nat) : Group :=
  forLanes c.g c.on fun g l =>
    fltPut late ty g d.toNat l
      (perElem ty f (fltOpnd c.r ty a.toNat l) (fltOpnd c.r ty b.toNat l) (fltOpnd c.r ty e.toNat l))

/-- Arithmetic on read values, rounded and flushed (11 R135). -/
def arith (r : Group) (ty : FTy) (mode : RMode) (f : FVal → FVal → FVal → FVal) (a b d : Nat) : Nat :=
  let fz := ftyFlush r ty
  let rd := readF (ftyFmt ty) fz
  roundF (ftyFmt ty) mode fz (f (rd a) (rd b) (rd d))

/-- FADD (11 R135). -/
def execFadd (_h : Hdr) (ty : FTy) (d a b : BitVec 6) (s : State) : Res :=
  issue (.fadd _h ty d a b) s fun c => simple c fun c =>
    fltOp c false ty d a b b (arith c.r ty (dynMode c.r) fun x y _ => addF (dynMode c.r) x y)

/-- FSUB (11 R135). -/
def execFsub (_h : Hdr) (ty : FTy) (d a b : BitVec 6) (s : State) : Res :=
  issue (.fsub _h ty d a b) s fun c => simple c fun c =>
    fltOp c false ty d a b b (arith c.r ty (dynMode c.r) fun x y _ => addF (dynMode c.r) x (negF y))

/-- FMUL (11 R135). -/
def execFmul (_h : Hdr) (ty : FTy) (d a b : BitVec 6) (s : State) : Res :=
  issue (.fmul _h ty d a b) s fun c => simple c fun c =>
    fltOp c false ty d a b b (arith c.r ty (dynMode c.r) fun x y _ => mulF x y)

/-- FMAC (11 R135). -/
def execFmac (_h : Hdr) (ty : FTy) (d a b : BitVec 6) (s : State) : Res :=
  issue (.fmac _h ty d a b) s fun c => simple c fun c =>
    fltOp c false ty d a b d (arith c.r ty (dynMode c.r) fun x y z => addF (dynMode c.r) (mulF x y) z)

/-- FFMA (11 R136). -/
def execFfma (_h : XHdr) (ty : FTy) (d a b e : BitVec 6) (rnd : Rnd) (s : State) : Res :=
  issue (.ffma _h ty d a b e rnd) s fun c => simple c fun c =>
    let m := codeMode (dynMode c.r) rnd
    fltOp c false ty d a b e (arith c.r ty m fun x y z => addF m (mulF x y) z)

/-- FMIN (11 R135; 07 R94). -/
def execFmin (_h : Hdr) (ty : FTy) (d a b : BitVec 6) (s : State) : Res :=
  issue (.fmin _h ty d a b) s fun c => simple c fun c =>
    fltOp c false ty d a b b (arith c.r ty .rn fun x y _ => minmaxF false x y)

/-- FMAX (11 R135; 07 R94). -/
def execFmax (_h : Hdr) (ty : FTy) (d a b : BitVec 6) (s : State) : Res :=
  issue (.fmax _h ty d a b) s fun c => simple c fun c =>
    fltOp c false ty d a b b (arith c.r ty .rn fun x y _ => minmaxF true x y)

/-- FSETP (11 R139). -/
def execFsetp (_h : Hdr) (cc : FltCond) (d : BitVec 3) (a b : BitVec 6) (s : State) : Res :=
  issue (.fsetp _h cc d a b) s fun c => simple c fun c =>
    let rd := readF fp32 (ftyFlush c.r .f32)
    forLanes c.g c.on fun g l =>
      putP g d.toNat l (fltCond cc (rd (getV c.r a.toNat l).toNat) (rd (getV c.r b.toNat l).toNat))

/-- FSETP.f64 (11 R139). -/
def execFsetpF64 (_h : Hdr) (cc : FltCond) (d : BitVec 3) (a b : BitVec 6) (s : State) : Res :=
  issue (.fsetpF64 _h cc d a b) s fun c => simple c fun c =>
    forLanes c.g c.on fun g l =>
      putP g d.toNat l (fltCond cc (decodeF fp64 (getV2 c.r a.toNat l).toNat) (decodeF fp64 (getV2 c.r b.toNat l).toNat))

/-- FCLASS (11 R140). -/
def execFclass (_h : Hdr) (w64 : Bool) (d a : BitVec 6) (s : State) : Res :=
  issue (.fclass _h w64 d a) s fun c => simple c fun c =>
    forLanes c.g c.on fun g l =>
      putV g d.toNat l (BitVec.ofNat 32
        (if w64 then classF fp64 (getV2 c.r a.toNat l).toNat else classF fp32 (getV c.r a.toNat l).toNat))

/-- FDIV (11 R137). -/
def execFdiv (_h : Hdr) (w64 : Bool) (d a b : BitVec 6) (s : State) : Res :=
  issue (.fdiv _h w64 d a b) s fun c => simple c fun c =>
    let ty := if w64 then FTy.f64 else FTy.f32
    fltOp c true ty d a b b (arith c.r ty (dynMode c.r) fun x y _ => divF x y)

/-- A float function (11 R137): `f` has the read operand and its pattern as the key of its choice. -/
def fltFun (c : Ctx) (ty : FTy) (mode : RMode) (d a : BitVec 6) (f : Nat → FVal → FVal) : Group :=
  fltOp c true ty d a a a fun x _ _ =>
    let fz := ftyFlush c.r ty
    roundF (ftyFmt ty) mode fz (f (2 * x + bitNat fz) (readF (ftyFmt ty) fz x))

/-- The bound of R98 for a function whose f32 bound is 2: 1 for the narrow types. -/
def bound2 : FTy → Nat
  | .f32 => 2
  | _ => 1

/-- FSQRT (11 R137). -/
def execFsqrt (_h : Hdr) (ty : FTy) (d a : BitVec 6) (s : State) : Res :=
  issue (.fsqrt _h ty d a) s fun c => simple c fun c => fltFun c ty (dynMode c.r) d a fun _ x => sqrtF x

/-- FRCP (11 R137): correctly rounded for the narrow types (07 R98). For f32 the value chosen within the bound is rounded to
nearest, so an exact result past the format gives infinity (DESIGN CHOICE, unsafe; assumption 68). -/
def execFrcp (_h : Hdr) (ty : FTy) (d a : BitVec 6) (s : State) : Res :=
  issue (.frcp _h ty d a) s fun c => simple c fun c =>
    if ty = .f32 then fltFun c ty .rn d a fun k x => rcpF (ftyFmt ty) k x
    else fltFun c ty (dynMode c.r) d a fun _ x => divF (.fin false 1 0) x

/-- FRSQ (11 R137; 07 R98). -/
def execFrsq (_h : Hdr) (ty : FTy) (d a : BitVec 6) (s : State) : Res :=
  issue (.frsq _h ty d a) s fun c => simple c fun c => fltFun c ty .rn d a fun k x => rsqF (ftyFmt ty) (bound2 ty) k x

/-- FEXP2 (11 R137; 07 R98). The value chosen within the bound is rounded to nearest, so an exact result past the format
gives infinity (DESIGN CHOICE, unsafe; assumption 68). -/
def execFexp2 (_h : Hdr) (ty : FTy) (d a : BitVec 6) (s : State) : Res :=
  issue (.fexp2 _h ty d a) s fun c => simple c fun c => fltFun c ty .rn d a fun k x => exp2F (ftyFmt ty) (bound2 ty) k x

/-- FLOG2 (11 R137; 07 R98). -/
def execFlog2 (_h : Hdr) (ty : FTy) (d a : BitVec 6) (s : State) : Res :=
  issue (.flog2 _h ty d a) s fun c => simple c fun c => fltFun c ty .rn d a fun k x => log2F (ftyFmt ty) (bound2 ty) k x

/-- FTANH (11 R137; 07 R98). -/
def execFtanh (_h : Hdr) (ty : FTy) (d a : BitVec 6) (s : State) : Res :=
  issue (.ftanh _h ty d a) s fun c => simple c fun c => fltFun c ty .rn d a fun k x => tanhF (ftyFmt ty) (bound2 ty) k x

/-- FSIN (11 R137; 07 R98). -/
def execFsin (_h : Hdr) (ty : FTy) (d a : BitVec 6) (s : State) : Res :=
  issue (.fsin _h ty d a) s fun c => simple c fun c => fltFun c ty .rn d a fun k x => sinF (ftyFmt ty) (bound2 ty) k x

/-- FCOS (11 R137; 07 R98). -/
def execFcos (_h : Hdr) (ty : FTy) (d a : BitVec 6) (s : State) : Res :=
  issue (.fcos _h ty d a) s fun c => simple c fun c => fltFun c ty .rn d a fun k x => cosF (ftyFmt ty) (bound2 ty) k x

/-- FSIGM (11 R137; 07 R98). -/
def execFsigm (_h : Hdr) (ty : FTy) (d a : BitVec 6) (s : State) : Res :=
  issue (.fsigm _h ty d a) s fun c => simple c fun c => fltFun c ty .rn d a fun k x => sigmF (ftyFmt ty) (bound2 ty) k x

/-- FRND.rn (11 R137). -/
def execFrndRn (_h : Hdr) (ty : FTy) (d a : BitVec 6) (s : State) : Res :=
  issue (.frndRn _h ty d a) s fun c => simple c fun c => fltFun c ty .rn d a fun _ x => rndIntF .rn x

/-- FRND.rz (11 R137). -/
def execFrndRz (_h : Hdr) (ty : FTy) (d a : BitVec 6) (s : State) : Res :=
  issue (.frndRz _h ty d a) s fun c => simple c fun c => fltFun c ty .rn d a fun _ x => rndIntF .rz x

/-- FRND.ru (11 R137). -/
def execFrndRu (_h : Hdr) (ty : FTy) (d a : BitVec 6) (s : State) : Res :=
  issue (.frndRu _h ty d a) s fun c => simple c fun c => fltFun c ty .rn d a fun _ x => rndIntF .ru x

/-- FRND.rd (11 R137). -/
def execFrndRd (_h : Hdr) (ty : FTy) (d a : BitVec 6) (s : State) : Res :=
  issue (.frndRd _h ty d a) s fun c => simple c fun c => fltFun c ty .rn d a fun _ x => rndIntF .rd x

/-- FSCALE (11 R138): both halves of a narrow type take the same power. -/
def execFscale (_h : Hdr) (ty : FTy) (d a b : BitVec 6) (s : State) : Res :=
  issue (.fscale _h ty d a b) s fun c => simple c fun c =>
    forLanes c.g c.on fun g l =>
      let x := fltOpnd c.r ty a.toNat l
      let n := (getV c.r b.toNat l).toInt
      fltPut false ty g d.toNat l (perElem ty (arith c.r ty (dynMode c.r) fun v _ _ => scaleF n v) x x x)

/-- Integer read as its type (11 R141). -/
def ityRead (r : Group) (t : ITy) (n l : Nat) : Int :=
  match t with
  | .s32 => (getV r n l).toInt
  | .u32 => (getV r n l).toNat
  | .s64 => (getV2 r n l).toInt
  | .u64 => (getV2 r n l).toNat

/-- The range of an integer type. -/
def ityRange : ITy → Int × Int
  | .s32 => (-(2 ^ 31), 2 ^ 31 - 1)
  | .u32 => (0, 2 ^ 32 - 1)
  | .s64 => (-(2 ^ 63), 2 ^ 63 - 1)
  | .u64 => (0, 2 ^ 64 - 1)

/-- The format of a CVT float type (11 R141). -/
def fkindFmt : FKind → Fmt
  | .f32 => fp32
  | .f64 => fp64
  | .f16 => fp16
  | .bf16 => bfp16

/-- The pattern of a CVT float source: a 16-bit source lies in bits [15:0] (11 R141). -/
def fkindRead (r : Group) (t : FKind) (n l : Nat) : Nat :=
  match t with
  | .f64 => (getV2 r n l).toNat
  | .f32 => (getV r n l).toNat
  | _ => (getV r n l).toNat % 65536

/-- Write a CVT float result, zero above it. -/
def fkindPut (t : FKind) (g : Group) (d l x : Nat) : Group :=
  match t with
  | .f64 => putV2 g d l (BitVec.ofNat 64 x)
  | _ => putV g d l (BitVec.ofNat 32 x)

/-- CVT.I2F (11 R142). -/
def execCvtI2F (_h : Hdr) (rnd : Rnd) (d a : BitVec 6) (t : CvtIF) (s : State) : Res :=
  issue (.cvtI2F _h rnd d a t) s fun c => simple c fun c =>
    forLanes c.g c.on fun g l =>
      fkindPut t.dst g d.toNat l (roundF (fkindFmt t.dst) (codeMode .rn rnd) false (ofIntF (ityRead c.r t.src a.toNat l)))

/-- CVT.F2I (11 R142). -/
def execCvtF2I (_h : Hdr) (rnd : Rnd) (d a : BitVec 6) (t : CvtFI) (s : State) : Res :=
  issue (.cvtF2I _h rnd d a t) s fun c => simple c fun c =>
    forLanes c.g c.on fun g l =>
      let (lo, hi) := ityRange t.dst
      let x := toIntF (codeMode .rn rnd) lo hi (decodeF (fkindFmt t.src) (fkindRead c.r t.src a.toNat l))
      match t.dst with
      | .s64 => putV2 g d.toNat l (BitVec.ofInt 64 x)
      | .u64 => putV2 g d.toNat l (BitVec.ofInt 64 x)
      | _ => putV g d.toNat l (BitVec.ofInt 32 x)

/-- The flush of a CVT.F2F result (07 R92). -/
def fkindFlush (r : Group) : FKind → Bool
  | .f32 => r.rmode.getLsbD 3
  | .f64 => false
  | _ => r.rmode.getLsbD 4

/-- CVT.F2F (11 R142; 07 R92). -/
def execCvtF2F (_h : Hdr) (rnd : Rnd) (d a : BitVec 6) (t : CvtFF) (s : State) : Res :=
  issue (.cvtF2F _h rnd d a t) s fun c => simple c fun c =>
    forLanes c.g c.on fun g l =>
      fkindPut t.dst g d.toNat l (roundF (fkindFmt t.dst) (codeMode (dynMode c.r) rnd) (fkindFlush c.r t.dst)
        (decodeF (fkindFmt t.src) (fkindRead c.r t.src a.toNat l)))

/-- The format of an FP8 code (11 R143). -/
def fp8Fmt : Fp8 → Fmt
  | .e4m3 => fpE4m3
  | .e5m2 => fpE5m2

/-- A value into a narrow format: stochastic with q for .rs, else rounded (07 R88, R89, R93). -/
def narrowF (f : Fmt) (rnd : Rnd) (q : Nat) (x : FVal) : Nat :=
  if rnd = .rs then stochF f q x else roundF f (codeMode .rn rnd) false x

/-- PACK8 (11 R143). -/
def execPack8 (_h : Hdr) (d a : BitVec 6) (k : PackCode) (s : State) : Res :=
  issue (.pack8 _h d a k) s fun c => simple c fun c =>
    forLanes c.g c.on fun g l =>
      putV g d.toNat l (BitVec.ofNat 32 (((List.range 4).map fun i =>
        narrowF (fp8Fmt k.fmt) k.rnd (getV c.r (a.toNat + 4 + i) l).toNat (decodeF fp32 (getV c.r (a.toNat + i) l).toNat) *
          2 ^ (8 * i)).sum))

/-- UNPK8 (11 R143). -/
def execUnpk8 (_h : Hdr) (d a : BitVec 6) (fmt : Fp8) (s : State) : Res :=
  issue (.unpk8 _h d a fmt) s fun c => simple c fun c =>
    forLanes c.g c.on fun g l =>
      let x := (getV c.r a.toNat l).toNat
      (List.range 4).foldl (fun g i =>
        putV g (d.toNat + i) l (BitVec.ofNat 32 (roundF fp32 .rn false (decodeF (fp8Fmt fmt) (x / 2 ^ (8 * i) % 256))))) g

/-- PACK4 (11 R143). -/
def execPack4 (_h : Hdr) (d a : BitVec 6) (k : Pack4Code) (s : State) : Res :=
  issue (.pack4 _h d a k) s fun c => simple c fun c =>
    forLanes c.g c.on fun g l =>
      putV g d.toNat l (BitVec.ofNat 32 (((List.range 8).map fun i =>
        narrowF fpE2m1 k.rnd 0 (decodeF fp32 (getV c.r (a.toNat + i) l).toNat) * 2 ^ (4 * i)).sum))

/-- UNPK4 (11 R143). -/
def execUnpk4 (_h : Hdr) (d a : BitVec 6) (s : State) : Res :=
  issue (.unpk4 _h d a) s fun c => simple c fun c =>
    forLanes c.g c.on fun g l =>
      let x := (getV c.r a.toNat l).toNat
      (List.range 8).foldl (fun g i =>
        putV g (d.toNat + i) l (BitVec.ofNat 32 (roundF fp32 .rn false (decodeF fpE2m1 (x / 2 ^ (4 * i) % 16))))) g

/-- The format and largest exponent of a block format (07 R95; 11 R144). -/
def blkFmt : BlkFmt → Fmt × Int
  | .fp4 => (fpE2m1, 2)
  | .e4m3 => (fpE4m3, 8)
  | .e5m2 => (fpE5m2, 15)

/-- The E8M0 scale of a block of f32 patterns (07 R95). -/
def blockScale (emax : Int) (xs : List Nat) : Nat :=
  let vs := xs.map (decodeF fp32)
  if vs.any fun v => match v with | .fin .. => false | _ => true then 255
  else
    let lg := vs.filterMap fun v => match v with | .fin _ m e => if m = 0 then none else some ((Nat.log2 m : Int) + e) | _ => none
    match lg with
    | [] => 127
    | y :: ys => (sat (ys.foldl max y - emax + 127) 0 254).toNat

/-- SCALE.BLK (11 R144). -/
def execScaleBlk (_h : Hdr) (d a : BitVec 6) (k : BlkCode) (s : State) : Res :=
  issue (.scaleBlk _h d a k) s fun c => simple c fun c =>
    let (f, emax) := blkFmt k.fmt
    forLanes c.g c.on fun g l =>
      let x := (getV c.r a.toNat l).toNat
      let q := (getV c.r (a.toNat + 1) l).toNat
      let blk := ((lanesOf c.g.w c.on).filter fun m => m / 32 == l / 32).map fun m => (getV c.r a.toNat m).toNat
      let e := if k.sc then (getV c.r (d.toNat + 1) l).toNat % 256 else blockScale emax blk
      let code := if e = 255 then 0 else narrowF f k.rnd q (scaleF (127 - e) (decodeF fp32 x))
      putV (putV g d.toNat l (BitVec.ofNat 32 code)) (d.toNat + 1) l (BitVec.ofNat 32 e)

/-- The RMIX function (07 R100). -/
def rmixOf (key ctr : W64) : W64 :=
  let z := key + ctr * 0x9E3779B97F4A7C15#64
  let z := (z ^^^ (z >>> 30)) * 0xBF58476D1CE4E5B9#64
  let z := (z ^^^ (z >>> 27)) * 0x94D049BB133111EB#64
  z ^^^ (z >>> 31)

/-- RMIX (11 R145). -/
def execRmix (_h : Hdr) (d a b : BitVec 6) (s : State) : Res :=
  issue (.rmix _h d a b) s fun c => simple c fun c =>
    forLanes c.g c.on fun g l => putV2 g d.toNat l (rmixOf (getS2 c.r b.toNat) (getV2 c.r a.toNat l))

end Sys2Proof.Machine
end

