-- ==== Sys2Proof/Machine/Matrix.lean ====
section
/-! DEFINITION. The matrix queue and its instructions (19 R241 to R263; 07 R96). -/

namespace Sys2Proof.Machine

/-- Key of a tile element: core, physical tile, row, column (01 R23). -/
def tileKey (core tile row col : Nat) : Nat := ((core * 16 + tile) * 64 + row) * 256 + col

/-- A tile element. -/
def tileGet (s : State) (core tile row col : Nat) : W32 := mapGet 0 s.tiles (tileKey core tile row col)

/-- Write a tile element. -/
def tileSet (s : State) (core tile row col : Nat) (x : W32) : State :=
  { s with tiles := mapPut 0 s.tiles (tileKey core tile row col) x }

/-- The physical tile of a team's tile number on the running core (19 R242). -/
def physTile (s : State) (g : Group) (n : Nat) : Option Nat :=
  (getTeam s g.team).bind fun t => (mapGet [] t.tiles g.core)[n]?

/-- The row or column index sR + k, exact (19 R243). -/
def tileIndex (r : Group) (reg : BitVec 6) (k : Nat) : Nat := (getS r reg.toNat).toNat + k

/-- BOUNDS for a tile or a run of rows outside R242 and R243. -/
def tileBad (c : Ctx) (n row rows : Nat) : List Cause :=
  if (physTile c.s c.g n).isNone || 64 < row + rows then [causeBounds 0] else []

/-- The active lanes are exactly lanes 0 to W − 1 (19 R252). -/
def collective (c : Ctx) : Bool := c.on == fullMask c.g.w

/-- Set the queue of a core. -/
def setQueue (s : State) (core : Nat) (q : List MatOp) : State := { s with mq := mapPut [] s.mq core q }

/-- A new queue entry. -/
def newMat (c : Ctx) (id : Nat) (k : MatKind) (bar : Option (Nat × W64)) (lt : Nat) : MatOp :=
  { id := id, kind := k, gid := c.g.gid, ent := c.e, team := c.g.team, srTeam := c.g.srTeam, srGroup := c.g.srGroup
    pasid := c.g.pasid, sys := c.g.sys, w := c.g.w, bar := bar.map (·.1), barA := (bar.map (·.2)).getD 0, lt := lt, started := false, rows := [], part := [], stamp := 0, fault := none
    park := none, denied := none }

/-- An operation enters the queue of its core; issue waits while it is full, or while OPS leaves no room (19 R248;
15 R198). An engine operation is forked with a release at .dev (19 R250; 13 R179). -/
def enqueue (c : Ctx) (k : MatKind) (bar : Option (Nat × W64)) (fin : Ctx → State) : State :=
  let put := fun (c : Ctx) =>
    setQueue { c.s with nextId := c.s.nextId + 1 } c.g.core (queueOf c.s c.g.core ++ [newMat c c.s.nextId k bar c.g.lt])
  if 32 ≤ (queueOf c.s c.g.core).length then againAs c 5
  else
    match bar with
    | none => fin { c with s := put c }
    | some (key, _) =>
      if !opsRoom c.s key 1 then again c
      else withFork c fun c => fin { c with s := barOpIssue (put c) key }

/-- A collective instruction without a fault at issue: CONV, the causes, those of the barrier it names among them, the queue
(19 R252, R254). It waits for earlier accesses to the barrier (13 R156). -/
def collectiveOp (c : Ctx) (cs : List Cause) (bar : Option AReg) (k : Unit → MatKind) : State :=
  if !collective c then orTrap c 0 (onAct c (causeConv 1)) fun c => c.s
  else if bar.any (barBusy c) then againAs c 1
  else
    match firstCause (cs ++ bar.elim [] (opBar c)) with
    | some x => orTrap c 0 (onAct c x) fun c => c.s
    | none =>
      let b := bar.bind fun ar => (barKey c ar).map fun key => (key, ar.ptr)
      orTrap c 0 [] fun c => enqueue c (k ()) b fun c => retireAt c c.s c.g (b.elim [] fun x => levelsOf c.g.core (.vault x.1))

/-- Bits per element of a matrix type (19 R241). -/
def mtyBits : MTy → Nat
  | .fp4 => 4
  | .bf16 => 16
  | .f16 => 16
  | _ => 8

/-- The format of a matrix type; i8 has none. -/
def mtyFmt : MTy → Fmt
  | .e4m3 => fpE4m3
  | .e5m2 => fpE5m2
  | .fp4 => fpE2m1
  | .bf16 => bfp16
  | .f16 => fp16
  | .i8 => fpE4m3

/-- How much a sparsity stretches K. -/
def spFactor : Option Sparsity → Nat
  | none => 1
  | some .x2 => 2
  | some .x4 => 4

/-- K of an operation (19 R241). -/
def kOf (ty : MTy) (sp : Option Sparsity) : Nat := 4096 / mtyBits ty * spFactor sp

/-- Bytes of an A row (19 R241). -/
def rowBytes (sp : Option Sparsity) : Nat := 512 * spFactor sp

/-- MMA and MMAS at issue (19 R253, R254). -/
def doMma (c : Ctx) (ty : MTy) (d a : BitVec 4) (b cr : BitVec 6) (bar : BitVec 4) (mM1 row : BitVec 6) (z : Bool)
    (sp : Option Sparsity) : State :=
  let ar := getA c.r a.toNat
  let x := ar.ptr.toNat
  let m := mM1.toNat + 1
  let r0 := tileIndex c.r cr row.toNat
  let b0 := (getS c.r b.toNat).toNat
  let b1 := (getS c.r (b.toNat + 1)).toNat
  let b2 := (getS c.r (b.toNat + 2)).toNat
  let b3 := (getS c.r (b.toNat + 3)).toNat
  let k := kOf ty sp
  let fp4 := ty == .fp4
  let ra := m * rowBytes sp
  let sa := m * (k / 32)
  let own := fun (y n : Nat) => n = 0 || vkeyOf c ar y / Config.vaultSize == c.g.core
  let held := fun (off n : Nat) => c.g.sys || vaultOwned c.s c.g.pasid c.g.core off n
  let slices := fun (off n : Nat) => (List.range 256).all fun j => held (j * Config.sliceSize + off) n
  let cs : List Cause :=
    (if x % 64 ≠ 0 then [causeAlign ar.ptr] else []) ++ (if b0 % 64 ≠ 0 then [causeAlign 0] else []) ++
    (if sp.isSome && b1 % 16 ≠ 0 then [causeAlign 0] else []) ++ tileBad c d.toNat r0 m ++
    engHull c ar x ra ++ (if fp4 then engHull c ar (x + b3 : Nat) sa else []) ++
    (if Config.sliceSize < b0 + 512 || (sp.isSome && Config.sliceSize < b1 + k / 8) || (fp4 && Config.sliceSize < b2 + k / 32) then
      [causeBounds 0] else []) ++
    engReg ar [1] ++
    engOwn c ar x [(x, ra), ((x + b3 : Nat), if fp4 then sa else 0)] ++
    (if ar.space = 1 && !(own x ra && own (x + b3) (if fp4 then sa else 0)) then [causePerm ar.ptr] else []) ++
    (if slices b0 512 && (sp.isNone || slices b1 (k / 8)) && (!fp4 || slices b2 (k / 32)) then [] else [causePerm 0])
  collectiveOp c cs (some (getA c.r bar.toNat)) fun _ =>
    .mma ty ((physTile c.s c.g d.toNat).getD 0) r0 m z (vkeyOf c ar x) b0 b1 b2 (if fp4 then vkeyOf c ar (x + b3 : Nat) else 0) sp

/-- MMA (19 R253). -/
def execMma (_h : XHdr) (ty : MTy) (d a : BitVec 4) (b cr : BitVec 6) (bar : BitVec 4) (mM1 row : BitVec 6) (z : Bool)
    (s : State) : Res :=
  issue (.mma _h ty d a b cr bar mM1 row z) s fun c => doMma c ty d a b cr bar mM1 row z none

/-- MMAS (19 R253). -/
def execMmas (_h : XHdr) (ty : MTy) (d a : BitVec 4) (b cr : BitVec 6) (bar : BitVec 4) (mM1 row : BitVec 6) (z : Bool)
    (sp : Sparsity) (s : State) : Res :=
  issue (.mmas _h ty d a b cr bar mM1 row z sp) s fun c => doMma c ty d a b cr bar mM1 row z (some sp)

/-- Element size of a TLD format (19 R257). -/
def tldEs : TldFmt → Nat
  | .f32 => 4
  | _ => 2

/-- Element size of a TST format (19 R257). -/
def tstEs : TstFmt → Nat
  | .f32 => 4
  | .f16 => 2
  | .bf16 => 2
  | _ => 1

/-- Checks shared by TLD and TST, but for the barrier (19 R259). -/
def tileMem (c : Ctx) (ar : AReg) (o : Nat) (stride : Int) (es rows : Nat) (tile row : Nat) : List Cause :=
  let x : Int := ar.ptr.toNat + o
  let last := (rows - 1 : Nat) * stride
  let lo := x + min 0 last
  let hi := x + max 0 last + 256 * es
  (if x % es ≠ 0 || stride % es ≠ 0 then [causeAlign (addr64 x)] else []) ++ tileBad c tile row rows ++
    engPieces c ar lo (hi - lo).toNat ((List.range rows).map fun (r : Nat) => (x + (r : Int) * stride, 256 * es)) ++
    engReg ar [0, 1] ++ localOnly ar lo

/-- TLD (19 R257). -/
def execTld (_h : XHdr) (d a : BitVec 4) (b cr : BitVec 6) (bar : BitVec 4) (rowsM1 row : BitVec 6) (fmt : TldFmt)
    (s : State) : Res :=
  issue (.tld _h d a b cr bar rowsM1 row fmt) s fun c =>
    let ar := getA c.r a.toNat
    let rows := rowsM1.toNat + 1
    let r0 := tileIndex c.r b row.toNat
    let o := (getS c.r cr.toNat).toNat
    let st := (getS c.r (cr.toNat + 1)).toInt
    collectiveOp c (tileMem c ar o st (tldEs fmt) rows d.toNat r0) (some (getA c.r bar.toNat)) fun _ =>
        .tld fmt ((physTile c.s c.g d.toNat).getD 0) r0 rows (sideOf c ar (ar.ptr.toNat + o)) o st

/-- TST (19 R257). -/
def execTst (_h : XHdr) (d a : BitVec 4) (b cr : BitVec 6) (bar : BitVec 4) (rowsM1 row : BitVec 6) (fmt : TstFmt) (rnd : Rnd)
    (scl : TstScale) (s : State) : Res :=
  issue (.tst _h d a b cr bar rowsM1 row fmt rnd scl) s fun c =>
    let ar := getA c.r a.toNat
    let rows := rowsM1.toNat + 1
    let r0 := tileIndex c.r b row.toNat
    let o := (getS c.r cr.toNat).toNat
    let st := (getS c.r (cr.toNat + 1)).toInt
    let src := (getS c.r (cr.toNat + 2)).toNat
    collectiveOp c (tileMem c ar o st (tstEs fmt) rows d.toNat r0 ++
        (if scl = .none then [] else tileBad c (src % 16) (bits src 13 8) 1)) (some (getA c.r bar.toNat)) fun _ =>
        .tst fmt ((physTile c.s c.g d.toNat).getD 0) r0 rows (sideOf c ar (ar.ptr.toNat + o)) o st rnd scl
          ((physTile c.s c.g (src % 16)).getD 0) (bits src 13 8)

/-- Elements of a slice (19 R260). -/
def sliceLen (col : Bool) : Nat := if col then 64 else 256

/-- TRD and TWR's tile and index check (19 R260). -/
def sliceBad (c : Ctx) (tile idx : Nat) (col : Bool) : List Cause :=
  if (physTile c.s c.g tile).isNone || (if col then 256 else 64) ≤ idx then [causeBounds 0] else []

/-- TRD retires: each active lane takes its elements of the slice (19 R260). -/
def finTrd (d : Nat) (c : Ctx) (as : List Acc) : State :=
  retireAt c c.s (as.foldl (fun g a => match a.st with
    | .done v _ _ _ => fillPend g c.tok (.v (d + a.part) a.lane) (v.setWidth 32)
    | _ => g) c.g) []

/-- The registers TRD writes: for each active lane the run that a slice fills (19 R260). -/
def trdDests (c : Ctx) (d : Nat) (col : Bool) : List Dest :=
  (lanesOf c.g.w c.on).flatMap fun l => runDests d l (sliceLen col / c.g.w)

/-- TRD (19 R260): a variable-latency result (03 R48); without such results its entry waits until the slice has been read. -/
def execTrd (_h : XHdr) (d : BitVec 6) (a : BitVec 4) (b : BitVec 6) (col : Bool) (idx : BitVec 8) (s : State) : Res :=
  issue (.trd _h d a b col idx) s fun c =>
    if (entAt c.g c.e).busy then
      if (queueOf c.s c.g.core).any fun o => o.gid == c.g.gid && o.ent == c.e &&
          match o.kind with | .trd .. => true | _ => false then c.s
      else takeAccs c (finTrd d.toNat)
    else if c.on = 0 then orTrap c 0 [] fun c => retire c c.g
    else
      let i := tileIndex c.r b idx.toNat
      orTrap c 0 ((sliceBad c a.toNat i col).flatMap (onActive c)) fun c =>
        enqueue c (.trd ((physTile c.s c.g a.toNat).getD 0) col i d.toNat c.on c.tok) none fun c =>
          if latent c.g then retire c (openPend c.g c.tok (trdDests c d.toNat col)) else setGroup c.s (busyGroup c)

/-- TWR (19 R260): the values are read when it enters the queue. -/
def execTwr (_h : XHdr) (d : BitVec 4) (a b : BitVec 6) (col : Bool) (idx : BitVec 8) (s : State) : Res :=
  issue (.twr _h d a b col idx) s fun c =>
    if c.on = 0 then orTrap c 0 [] fun c => retire c c.g
    else
      let i := tileIndex c.r b idx.toNat
      orTrap c 0 ((sliceBad c d.toNat i col).flatMap (onActive c)) fun c =>
        let vals : Assoc W32 := (List.range (sliceLen col)).filterMap fun e =>
          if c.on.getLsbD (e % c.g.w) then some (e, getV c.r (a.toNat + e / c.g.w) (e % c.g.w)) else none
        enqueue c (.twr ((physTile c.s c.g d.toNat).getD 0) col i vals) none fun c => retire c c.g

/-- TSCALE (19 R261). -/
def execTscale (_h : XHdr) (d : BitVec 4) (a : BitVec 6) (b : BitVec 4) (rowsM1 row srow : BitVec 6) (mode : TScaleMode)
    (rnd : Rnd) (s : State) : Res :=
  issue (.tscale _h d a b rowsM1 row srow mode rnd) s fun c =>
    let r0 := tileIndex c.r a row.toNat
    let rows := rowsM1.toNat + 1
    collectiveOp c (tileBad c d.toNat r0 rows ++ tileBad c b.toNat srow.toNat 1) none fun _ =>
      .tscale ((physTile c.s c.g d.toNat).getD 0) r0 rows ((physTile c.s c.g b.toNat).getD 0) srow.toNat mode rnd

/-- TZERO (19 R261). -/
def execTzero (_h : XHdr) (d : BitVec 4) (a : BitVec 6) (rowsM1 row : BitVec 6) (s : State) : Res :=
  issue (.tzero _h d a rowsM1 row) s fun c =>
    let r0 := tileIndex c.r a row.toNat
    let rows := rowsM1.toNat + 1
    collectiveOp c (tileBad c d.toNat r0 rows) none fun _ => .tzero ((physTile c.s c.g d.toNat).getD 0) r0 rows

/-- Tiles an operation names (19 R249). -/
def tilesOf : MatKind → List Nat
  | .mma _ t _ _ _ _ _ _ _ _ _ => [t]
  | .tld _ t _ _ _ _ _ => [t]
  | .tst _ t _ _ _ _ _ _ scl st _ => if scl = .none then [t] else [t, st]
  | .trd t _ _ _ _ _ => [t]
  | .twr t _ _ _ => [t]
  | .tscale t _ _ st _ _ _ => [t, st]
  | .tzero t _ _ => [t]

/-- The operation runs in the array; the others use the tile port (19 R251). -/
def inArray : MatKind → Bool
  | .mma .. => true
  | _ => false

/-- Rows an operation works through, one at a time; a slice, and a whole TSCALE, is one. -/
def rowsOf : MatKind → Nat
  | .mma _ _ _ m _ _ _ _ _ _ _ => m
  | .tld _ _ _ n _ _ _ => n
  | .tst _ _ _ n _ _ _ _ _ _ _ => n
  | .tzero _ _ n => n
  | _ => 1

/-- The operation makes no further access: all its rows are done, or a fault has stopped it (15 R205; 19 R256). -/
def matMoved (o : MatOp) : Bool := o.rows.length == rowsOf o.kind || (o.fault.isSome && !inArray o.kind)

/-- An operation may start: every earlier one of its queue that shares its unit or a tile with it has made its last access
(19 R249, R251). -/
def matReady (q : List MatOp) (k : Nat) : Bool :=
  match q[k]? with
  | none => false
  | some o => !o.started && (q.take k).all fun p =>
      matMoved p || (inArray p.kind != inArray o.kind && !(tilesOf p.kind).any fun t => (tilesOf o.kind).contains t)

/-- Start the `k`-th operation of a core's queue (19 R251). -/
def matStart (s : State) (core k : Nat) : State :=
  if matReady (queueOf s core) k && !gated s core then setQueue s core (updAt (fun o => { o with started := true }) (queueOf s core) k) else s

/-- Element `k` of a packed run of `w`-bit elements. -/
def packedAt (x w k : Nat) : Nat := x / 2 ^ (w * k) % 2 ^ w

/-- The stored index of position p of a column, if it is kept (19 R246). -/
def keptIndex (s : State) (sp : Sparsity) (base p : Nat) : Option Nat :=
  let n := match sp with | .x2 => 64 | .x4 => 32
  let msk := vaultRead s (base + 16 * (p / 128)) 16
  let t := p % 128
  let rank := ((List.range t).filter fun i => msk.testBit i).length
  if msk.testBit t && rank < n then some (n * (p / 128) + rank) else none

/-- The exact sum of a K-block, none when no position is kept (07 R96; 19 R255). -/
def blockSum (f : Fmt) (a b : Nat → Nat) (kept : Nat → Option Nat) (blk : Nat) : Option FVal :=
  (List.range 32).foldl (fun (acc : Option FVal) i =>
    let k := 32 * blk + i
    match kept k with
    | none => acc
    | some j =>
      let p := mulF (decodeF f (a k)) (decodeF f (b j))
      some (match acc with | none => p | some x => addF .rn x p)) none

/-- The same sum of signed bytes. -/
def blockSumI (a b : Nat → Nat) (kept : Nat → Option Nat) (blk : Nat) : Int :=
  (List.range 32).foldl (fun (acc : Int) i =>
    let k := 32 * blk + i
    match kept k with
    | none => acc
    | some j => acc + (BitVec.ofNat 8 (a k)).toInt * (BitVec.ofNat 8 (b j)).toInt) 0

/-- The result of one element of an MMA row from its accumulator (19 R255; 07 R96). -/
def mmaElem (s : State) (core : Nat) (ty : MTy) (sp : Option Sparsity) (arow ascale : Nat) (b0 b1 b2 j : Nat) (acc : W32) : W32 :=
  let base := vaultKey core (j * Config.sliceSize)
  let bcol := vaultRead s (base + b0) 512
  let w := mtyBits ty
  let a := packedAt arow w
  let b := packedAt bcol w
  let kept := fun (k : Nat) => match sp with | none => some k | some x => keptIndex s x (base + b1) k
  (List.range (kOf ty sp / 32)).foldl (fun (acc : W32) blk =>
    if ty = .i8 then acc + BitVec.ofInt 32 (blockSumI a b kept blk)
    else
      match blockSum (mtyFmt ty) a b kept blk with
      | none => acc
      | some x =>
        let x := if ty = .fp4 then
            let ea := ascale / 2 ^ (8 * blk) % 256
            let eb := vaultRead s (base + b2 + blk) 1
            if ea = 255 ∨ eb = 255 then FVal.nan else scaleF ((ea : Int) + eb - 254) x
          else x
        BitVec.ofNat 32 (roundF fp32 .rn false (addF .rn (decodeF fp32 acc.toNat) x))) acc

/-- Reading vault bytes for the array: none, or ECC or BOUNDS (19 R256). -/
def vaultFault (s : State) (pasid : BitVec 20) (sys : Bool) (key n : Nat) : Option (BitVec 16) :=
  if s.vpoison.any fun l => key / 128 ≤ l && l ≤ (key + n - 1) / 128 then some 0x0601
  else if !sys && !vaultOwned s pasid (key / Config.vaultSize) (key % Config.vaultSize) n then some 0x0302
  else none

/-- Row `i` of an MMA (19 R255, R256): the elements whose operands were read without fault, and the first fault. `a` and `b3` are the keys
of the places of aA.PTR and of aA.PTR + s[B + 3] (19 R246, R247). -/
def mmaRow (s : State) (core : Nat) (o : MatOp) (ty : MTy) (tile row i : Nat) (z : Bool) (a b0 b1 b2 b3 : Nat)
    (sp : Option Sparsity) : State × Option (BitVec 16) :=
  let k := kOf ty sp
  let ra := rowBytes sp
  let fp4 := ty == .fp4
  let fa := (vaultFault s o.pasid o.sys (a + i * ra) ra).or
    (if fp4 then vaultFault s o.pasid o.sys (b3 + i * (k / 32)) (k / 32) else none)
  let arow := vaultRead s (a + i * ra) ra
  let asc := if fp4 then vaultRead s (b3 + i * (k / 32)) (k / 32) else 0
  (List.range 256).foldl (fun (x : State × Option (BitVec 16)) j =>
    let base := vaultKey core (j * Config.sliceSize)
    let fb := ((vaultFault s o.pasid o.sys (base + b0) 512).or
      (if sp.isSome then vaultFault s o.pasid o.sys (base + b1) (k / 8) else none)).or
      (if fp4 then vaultFault s o.pasid o.sys (base + b2) (k / 32) else none)
    match fa.or fb with
    | some e => (x.1, x.2.or (some e))
    | none =>
      let acc := if z then 0 else tileGet s core tile (row + i) j
      (tileSet x.1 core tile (row + i) j (mmaElem s core ty sp arow asc b0 b1 b2 j acc), x.2)) (s, none)

/-- The elements of a row of a memory operation from the `i`-th on: those moved, their largest stamp, and how the row ends before its end
if it does. -/
def rowElems (s : State) (f : State → Nat → Bursting Nat) (i : Nat) : Nat → State × Nat × Nat × Option Burst
  | 0 => (s, 0, 0, none)
  | n + 1 =>
    let (s, r) := f s i
    match r with
    | .error b => (s, 0, 0, some b)
    | .ok t =>
      let (s, k, t', b) := rowElems s f (i + 1) n
      (s, k + 1, max t t', b)

/-- The place of element `j` of row `r` of a memory operation (19 R258). -/
def matPlace (s : State) (core : Nat) (o : MatOp) (side : Side) (off : Nat) (stride : Int) (es r j need : Nat) : Bursting Place :=
  engPlace s o.team core o.pasid o.denied side.space (side.ptr + off + r * stride + es * j) es need

/-- Element `j` of row `r` of a TLD (19 R258). It carries the operation's lt, as no write of it has a stamp (13 R179). -/
def tldElem (core : Nat) (o : MatOp) (fmt : TldFmt) (tile row r : Nat) (side : Side) (off : Nat) (stride : Int) (s : State) (j : Nat) :
    Bursting Nat :=
  let es := tldEs fmt
  burstBind (matPlace s core o side off stride es r j 1) fun s q =>
    burstBind (engRead s core (pasidKey s o.pasid) o.lt q es) fun s v =>
      let x := match fmt with
        | .f32 => v
        | .f16 => roundF fp32 .rn false (decodeF fp16 v)
        | .bf16 => roundF fp32 .rn false (decodeF bfp16 v)
      (tileSet s core tile (row + r) j (BitVec.ofNat 32 x), .ok o.lt)

/-- The element TST stores (19 R258). -/
def tstElem (fmt : TstFmt) (rnd : Rnd) (scale : Option FVal) (x : W32) : Nat :=
  let m := codeMode .rn rnd
  let sc := fun (v : FVal) => match scale with | none => v | some y => mulF v y
  match fmt with
  | .s8 => (BitVec.ofInt 8 (toIntF m (-128) 127 (sc (ofIntF x.toInt)))).toNat
  | .f32 => if scale.isNone then x.toNat else roundF fp32 m false (sc (decodeF fp32 x.toNat))
  | .f16 => roundF fp16 m false (sc (decodeF fp32 x.toNat))
  | .bf16 => roundF bfp16 m false (sc (decodeF fp32 x.toNat))
  | .e4m3 => roundF fpE4m3 m false (sc (decodeF fp32 x.toNat))
  | .e5m2 => roundF fpE5m2 m false (sc (decodeF fp32 x.toNat))

/-- Element `j` of row `r` of a TST (19 R258). -/
def tstMove (core : Nat) (o : MatOp) (fmt : TstFmt) (tile row r : Nat) (side : Side) (off : Nat) (stride : Int)
    (rnd : Rnd) (scl : TstScale) (stile srow : Nat) (s : State) (j : Nat) : Bursting Nat :=
  let es := tstEs fmt
  let sv := fun (m : Nat) => decodeF fp32 (tileGet s core stile srow m).toNat
  let scale := match scl with | .none => none | .srow => some (sv (row + r)) | .scol => some (sv j)
  let v := tstElem fmt rnd scale (tileGet s core tile (row + r) j)
  burstBind (matPlace s core o side off stride es r j 2) fun s q => engWrite s core (pasidKey s o.pasid) o.lt q es v

/-- TSCALE on its rows: every scale is read before any write (19 R261). -/
def tscaleAll (s : State) (core tile row rows stile srow : Nat) (mode : TScaleMode) (rnd : Rnd) : State :=
  (List.range rows).foldl (fun (t : State) r =>
    (List.range 256).foldl (fun (t : State) j =>
      let sc := tileGet s core stile srow (match mode with | .row => row + r | .col => j)
      tileSet t core tile (row + r) j (BitVec.ofNat 32 (roundF fp32 (codeMode .rn rnd) false
        (mulF (decodeF fp32 (tileGet s core tile (row + r) j).toNat) (decodeF fp32 sc.toNat))))) t) s

/-- Row and column of element `e` of a slice (19 R243). -/
def sliceAt (col : Bool) (idx e : Nat) : Nat × Nat := if col then (e, idx) else (idx, e)

/-- What a turn at a row has come to: bytes delivered and their stamp, elements moved of a row that is not done, the fault that the row
has met, and how a memory operation's row ends before its end. -/
structure RowEnd where
  bytes : Nat
  stamp : Nat
  part : Nat
  fault : Option (BitVec 16)
  stop : Option Burst
deriving DecidableEq, Repr

/-- A row without accesses to memory is done. -/
def RowEnd.plain : RowEnd := ⟨0, 0, 0, none, none⟩

/-- A turn at a row of a memory operation whose elements deliver `n` bytes each; it goes on past the elements already moved. -/
def memRow (s : State) (o : MatOp) (r n : Nat) (f : State → Nat → Bursting Nat) : State × RowEnd :=
  let k := mapGet 0 o.part r
  let (s, m, t, b) := rowElems s f k (256 - k)
  (s, ⟨n * m, t, k + m, none, b⟩)

/-- The slice TRD has read goes to its lanes: as results of the group, or to the entry that waits (19 R260; 03 R48). -/
def trdReturn (s : State) (core : Nat) (o : MatOp) (tile : Nat) (col : Bool) (idx d : Nat) (lanes : W64) (tok : Nat) : State :=
  let es := (List.range (sliceLen col)).filter fun e => lanes.getLsbD (e % o.w)
  let val := fun (e : Nat) => let (i, j) := sliceAt col idx e; tileGet s core tile i j
  match getGroup s o.gid with
  | none => s
  | some g =>
    if latent g then
      setGroup s (es.foldl (fun g e => fillPend g tok (.v (d + e / o.w) (e % o.w)) (val e)) g)
    else
      { s with accs := s.accs ++ es.map fun e =>
          { accOf g o.ent (e % o.w) 0 (.vault 0) 0 4 .load 0 false false false true with
            part := e / o.w, tg := 0, st := .done ((val e).setWidth 64) 0 (2 ^ 64) true } }

/-- One row of a started operation is performed (19 R255 to R261). -/
def matRow (s : State) (core : Nat) (o : MatOp) (r : Nat) : State × RowEnd :=
  match o.kind with
  | .mma ty tile row _ z a b0 b1 b2 b3 sp =>
    let (s, e) := mmaRow s core o ty tile row r z a b0 b1 b2 b3 sp
    (s, ⟨1024, o.lt, 0, e, none⟩)
  | .tld fmt tile row _ side off st => memRow s o r 4 (tldElem core o fmt tile row r side off st)
  | .tst fmt tile row _ side off st rnd scl stile srow =>
    memRow s o r (tstEs fmt) (tstMove core o fmt tile row r side off st rnd scl stile srow)
  | .trd tile col idx d lanes tok => (trdReturn s core o tile col idx d lanes tok, .plain)
  | .twr tile col idx vals =>
    (vals.foldl (fun s (e, v) => let (i, j) := sliceAt col idx e; tileSet s core tile i j v) s, .plain)
  | .tscale tile row rows stile srow mode rnd => (tscaleAll s core tile row rows stile srow mode rnd, .plain)
  | .tzero tile row _ => ((List.range 256).foldl (fun s j => tileSet s core tile (row + r) j 0) s, .plain)

/-- Change the operation of an identifier in a core's queue. -/
def updMat (s : State) (core id : Nat) (f : MatOp → MatOp) : State :=
  setQueue s core ((queueOf s core).map fun o => if o.id == id then f o else o)

/-- A fault of a matrix operation after issue: the barrier takes its code, and it is reported once (15 R205; 19 R256). -/
def matFault (s : State) (core : Nat) (o : MatOp) (code : BitVec 16) : State :=
  let s := updMat s core o.id fun o => { o with fault := if o.fault.isSome then o.fault else some code }
  match o.bar with
  | none => s
  | some key =>
    let s := barFault s key code.toNat
    if o.fault.isSome then s else engineReport s core o.pasid o.barA o.srTeam o.srGroup code

/-- A memory operation parks on a page with its two report entries (17 R226, R227). -/
def matPark (s : State) (core : Nat) (o : MatOp) (f : PageFault) (addr : Nat) (acc : BitVec 4) : State :=
  let die := dieOf core
  let s := if batchTakes s die then addReport s die
      { report0 3 with a := o.barA, b := BitVec.ofNat 64 addr, pasid := o.pasid, count := 1,
                       core := BitVec.ofNat 6 core, acc := acc } else s
  let noted := batchTakes s die
  let s := if noted then addReport s die (pageReport f acc) else s
  updMat s core o.id fun o => { o with park := some { f with recorded := noted } }

/-- A row may be performed: the operation has started, is not parked, and the array takes its rows in ascending order (19 R251). -/
def rowReady (o : MatOp) (r : Nat) : Bool :=
  o.started && o.park.isNone && !matMoved o && !o.rows.contains r && r < rowsOf o.kind && (!inArray o.kind || r == o.rows.length)

/-- What a turn at row `r` leaves: its delivery, its fault, the elements to go on from, or the row done (15 R205; 19 R256, R259). -/
def rowStop (s : State) (core : Nat) (o : MatOp) (r : Nat) (x : RowEnd) : State :=
  let s := updMat s core o.id fun o =>
    { o with rows := if x.stop.isNone then o.rows ++ [r] else o.rows
             part := if x.stop.isNone then mapDel o.part r else mapPut 0 o.part r x.part, stamp := max o.stamp x.stamp }
  let s := match x.fault with | some code => matFault s core o code | none => s
  let s := match o.bar with
    | some key => if x.bytes = 0 then s else barDeliver s key core x.bytes x.stamp
    | none => s
  match x.stop with
  | some (.fault code) => matFault s core o code
  | some (.page f addr acc) => matPark s core o f addr acc
  | _ => s

/-- Row `r` of the `k`-th operation of a core's queue, once: its elements, its delivery, its fault (19 R256, R259). A gated core's
array stands still (31 R369; 01 R26). -/
def matRowStep (s : State) (core k r : Nat) : State :=
  match (queueOf s core)[k]? with
  | none => s
  | some o =>
    if gated s core || !rowReady o r then s
    else
      let (s, x) := matRow s core o r
      rowStop s core o r x

/-- The stamps of an operation's writes count for the completion of its grid (21 R277), and for a later FENCE of its group with cw or mw
(13 R178). -/
def opStamp (s : State) (team gid stamp : Nat) : State :=
  updGroup (updTeam s team fun t => { t with stamp := max t.stamp stamp }) gid fun g => { g with elt := max g.elt stamp }

/-- An operation of a core's queue whose accesses are all made completes and frees its entry (19 R248, R256). -/
def matComplete (s : State) (core k : Nat) : State :=
  match (queueOf s core)[k]? with
  | none => s
  | some o =>
    if o.started && matMoved o && !gated s core then
      let s := opStamp (setQueue s core (dropAt (queueOf s core) k)) o.team o.gid o.stamp
      match o.bar with
      | some key => barOpDone s key
      | none => s
    else s

end Sys2Proof.Machine
end

