-- ==== Sys2Proof/Machine/Tasks.lean ====
section
/-! DEFINITION. Chimes (21 R292, R293), queue instructions (21 R271 to R273), pre-emption (21 R294, R295). -/

namespace Sys2Proof.Machine

/-- The chime an operand names: its context and number, or the cause (21 R292). -/
def chimeOf (c : Ctx) (x : W32) : Except Cause (BitVec 20 × Nat) :=
  let ctx : BitVec 20 := fld 20 31 12 x.toNat
  let n := x.toNat % 4096
  if c.g.sys then (if ctxValid c.s ctx then .ok (ctx, n) else .error (causePerm 0))
  else if ctx = 0 then .ok (c.g.pasid, n) else .error (causeBounds 0)

/-- A chime instruction: its operand's cause, or `k` once when the guard is true and no bias command holds the chime (25 R324). -/
def withChime (c : Ctx) (a : BitVec 6) (k : Ctx → BitVec 20 → Nat → State) : State :=
  if c.on = 0 then orTrap c 0 [] fun c => retire c c.g
  else
    match chimeOf c (getS c.r a.toNat) with
    | .error x => trapAct c x
    | .ok (ctx, n) => orTrap c 0 [] fun c => if chimeHeld c.s ctx n then againFar c else k c ctx n

/-- A release at .dev, then a chime update with the group's lt, and retirement (21 R293). -/
def chimeWrite (c : Ctx) (f : State → Nat → State) : State :=
  withRelease c .dev fun c =>
    let s := f c.s c.g.lt
    match getGroup s c.g.gid with
    | none => s
    | some g => retireAt c s g unitLevels

/-- CHIME.ADD (21 R293). -/
def execChimeAdd (_h : Hdr) (d a : BitVec 6) (s : State) : Res :=
  issue (.chimeAdd _h d a) s fun c => withChime c a fun c ctx n =>
    chimeWrite c fun s lt => chimeAddBy s ctx n (getS2 c.r d.toNat).toNat lt

/-- CHIME.SET (21 R293). -/
def execChimeSet (_h : Hdr) (d a : BitVec 6) (s : State) : Res :=
  issue (.chimeSet _h d a) s fun c => withChime c a fun c ctx n =>
    chimeWrite c fun s lt => chimeUpdate s ctx n (getS2 c.r d.toNat).toNat lt

/-- CHIME.WAIT (21 R293). -/
def execChimeWait (_h : Hdr) (d a : BitVec 6) (s : State) : Res :=
  issue (.chimeWait _h d a) s fun c => withChime c a fun c ctx n =>
    let x := getS2 c.r d.toNat
    if chimeValue c.s ctx n < x.toNat then park c c.s c.g c.act (.chime ctx.toNat n x)
    else retireAt c c.s { c.g with lt := max c.g.lt (chimeCs c.s ctx n) } unitLevels

/-- CHIME.RD (21 R293). -/
def execChimeRd (_h : Hdr) (d a : BitVec 6) (s : State) : Res :=
  issue (.chimeRd _h d a) s fun c => withChime c a fun c ctx n =>
    let v := chimeValue c.s ctx n
    let g := { c.g with lt := max c.g.lt (chimeCs c.s ctx n) }
    let g := later (later g (.s d.toNat) (BitVec.ofNat 32 v)) (.s (d.toNat + 1)) (BitVec.ofNat 32 (v / 2 ^ 32))
    retireAt c c.s g unitLevels

/-- QPOP (21 R271): one issue takes a packet, answers 0, or parks. -/
def execQpop (_h : Hdr) (d : BitVec 6) (a : BitVec 4) (wait : Bool) (s : State) : Res :=
  issue (.qpop _h d a wait) s fun c =>
    if c.on = 0 then orTrap c 0 [] fun c => retire c c.g
    else
      let ar := getA c.r a.toNat
      let (c, cs, qs) := uniAccess c ar 0 64 .wr
      orTrap c 2 cs fun c =>
        match qs with
        | [] => retire c c.g
        | q :: _ =>
          if packetHeld c.s q.place (isSys ar) then againFar c else
          let die := dieOf c.g.core
          let (s, r) := popLoop c.s die (popFuel c.s die)
          let s := qdoneGo s
          match getGroup s c.g.gid with
          | none => s
          | some g =>
            let c := { c with s := s, g := g }
            match r with
            | .packet i ws lt =>
              let (s, g) := storeWords c.s c.g q.lane q.x q.place (isSys ar) ws
              retireAt c s (later { g with lt := max g.lt lt } (.s d.toNat) (popStatus i)) (levelsOf c.g.core q.place)
            | _ =>
              if wait then park c c.s c.g c.act (.qpop q.lane q.x q.place (isSys ar) d c.tok)
              else retireAt c c.s (later c.g (.s d.toNat) 0) []

/-- QDONE (21 R272): its bounds, a release at .sys, and the record, or the wait for room. -/
def execQdone (_h : Hdr) (d a : BitVec 6) (s : State) : Res :=
  issue (.qdone _h d a) s fun c =>
    if c.on = 0 then orTrap c 0 [] fun c => retire c c.g
    else
      let i := (getS c.r a.toNat).toNat
      let x := (getS c.r (d.toNat + 1)).toNat
      if 255 < i || bits x 31 18 != 0 || bits x 17 16 == 3 then trapAct c (causeBounds 0)
      else orTrap c 0 [] fun c => withFork c fun c =>
        if !qifLive c.s i then retireAt c c.s c.g []
        else
          let s := complFlush (setGroup c.s c.g) i c.s.compl.length
          match getGroup s c.g.gid with
          | none => s
          | some g =>
            let c := { c with s := s, g := g }
            let tag := getS c.r d.toNat
            if complNow s i then
              let s := qdoneGo (writeCompl s ⟨i, tag, fld 16 15 0 x, fld 2 17 16 x⟩ (dieOf g.core))
              match getGroup s g.gid with
              | none => s
              | some g => retireAt c s g unitLevels
            else if !qifLive s i then retireAt c c.s c.g []
            else park c c.s c.g c.act (.qdone i tag (fld 16 15 0 x) (fld 2 17 16 x))

/-- IRQ (21 R273). -/
def execIrq (_h : Hdr) (a : BitVec 6) (s : State) : Res :=
  issue (.irq _h a) s fun c =>
    if c.on = 0 then orTrap c 0 [] fun c => retire c c.g
    else
      let x := (getS c.r a.toNat).toNat
      if bits x 31 13 != 0 then trapAct c (causeBounds 0)
      else orTrap c 0 [] fun c => withFork c fun c =>
        retireAt c (irtTake c.s (bits x 7 0) (bits x 12 8) true) c.g unitLevels

/-- A pre-emption request starts (21 R294): STATE 1, its deadline and its signal; with a deadline of 0 the context ends at
once. -/
def preemptStart (s : State) (pasid : BitVec 20) (drain : Bool) (ns : Nat) (sig : Option (BitVec 12)) : State :=
  let s := setCtxState s pasid 1
  if ns = 0 then
    let s := teardown s pasid 0x0605 0
    match sig with
    | some ch => chimeSignal s 0 ch.toNat 1 0 false
    | none => s
  else preemptCheck { s with preempts := s.preempts ++ [⟨pasid, drain, s.now + ns, sig⟩] }

/-- PREEMPT (21 R294). -/
def execPreempt (_h : Hdr) (d a b : BitVec 6) (s : State) : Res :=
  issue (.preempt _h d a b) s fun c =>
    if c.on = 0 then orTrap c 0 [] fun c => retire c c.g
    else
      let x := (getS c.r a.toNat).toNat
      let y := (getS c.r b.toNat).toNat
      let pasid : BitVec 20 := fld 20 19 0 x
      if bits x 31 20 != 0 || bits y 31 14 != 0 || pasid == 0 then trapAct c (causeBounds 0)
      else orTrap c 0 [] fun c =>
        let sig : Option (BitVec 12) := if bit y 1 then some (fld 12 13 2 y) else none
        let s := if ctxState c.s pasid != 0 then
            (match sig with | some ch => chimeSignal c.s 0 ch.toNat 1 0 false | none => c.s)
          else preemptStart c.s pasid (bit y 0) (getS2 c.r d.toNat).toNat sig
        match getGroup s c.g.gid with
        | none => s
        | some g => retireAt c s g unitLevels

/-- The cores a saved group may be restored on: its own, and for a team of one without tiles every core of its kind and cluster
(17 R224). -/
def restoreCores (s : State) (g : Group) : List Nat :=
  match getTeam s g.team with
  | some t =>
    if t.size ≤ 1 && t.ntiles == 0 then
      g.core :: (List.range 16).filterMap fun k =>
        let c := dieOf g.core * 16 + k
        if isLCore c == isLCore g.core && c != g.core then some c else none
    else [g.core]
  | none => [g.core]

/-- A core has a slot and the register room for a saved group (17 R222; 21 R278). -/
def restoreRoom (s : State) (g : Group) (core : Nat) : Bool :=
  !(freeSlots s core).isEmpty && regRoom s core 1 g.ker.regsD g.w

/-- The save-pool slot a group waits in. -/
def savedSlot (g : Group) : Option Nat :=
  match g.res with
  | .resident _ => none
  | .savedFault k => some k
  | .savedPreempt k => some k
  | .savedYield k _ => some k

/-- Restore a saved group on a core that has room for it (17 R222, R224); its resolved pages replay (17 R228), and a
group that is to halt stops here (29 R347). -/
def restoreOn (s : State) (g : Group) (core : Nat) : State :=
  match savedSlot g with
  | none => s
  | some k =>
    if (restoreCores s g).contains core && restoreRoom s g core && !poolHeld s g.pasid k then
      let s := restoreGroup s g k core ((freeSlots s core).headD 0)
      match getGroup s g.gid with
      | some g =>
        let s := putGroup s (replayGroup g)
        let g := replayGroup g
        if g.halt && g.stopped.isNone then stopAt s g 0 3 else s
      | none => s
    else s

/-- The group was saved by pre-emption. -/
def preempted (g : Group) : Bool := match g.res with | .savedPreempt _ => true | _ => false

/-- RESUME (21 R295): every group saved by pre-emption is restored, as its core has room. -/
def execResume (_h : Hdr) (d : BitVec 3) (a : BitVec 6) (s : State) : Res :=
  issue (.resume _h d a) s fun c =>
    if c.on = 0 then orTrap c 0 [] fun c => retire c c.g
    else
      let pasid : BitVec 20 := fld 20 19 0 (getS c.r a.toNat).toNat
      orTrap c 0 [] fun c =>
        if ctxState c.s pasid != 2 then retire c (putQ c.g d.toNat false)
        else
          let s := setCtxState c.s pasid 0
          let s := (s.groups.filter fun g => g.pasid == pasid && preempted g).foldl (fun s g => restoreOn s g g.core) s
          match getGroup s c.g.gid with
          | none => s
          | some g => retireAt c s (putQ g d.toNat true) unitLevels

end Sys2Proof.Machine
end

