-- ==== Sys2Proof/Machine/Gang.lean ====
section
/-! DEFINITION. Gang launch: GANG.PREP and GANG.COMMIT (21 R296, R297) and the member side (25 R331, R332). -/

namespace Sys2Proof.Machine

/-- Send a gang message to a device: 0 PREPARE, 1 COMMIT, 2 CLOSE, 3 BREAK, 4 ACK, 5 NAK (25 R332). -/
def gangSend (s : State) (kind : Nat) (gid timeout : W32) (dev : BitVec 20) : State :=
  { s with outbox := s.outbox ++ [.gang kind dev gid timeout] }

/-- Send a message to every member of a gang. -/
def gangAll (s : State) (kind : Nat) (x : Gang) : State := x.members.foldl (fun s m => gangSend s kind x.gid x.timeout m) s

/-- The gang barriers of a grid's started teams complete in the error phase with GANG_BROKEN (25 R332). -/
def gangBreak (s : State) (grid : Nat) : State :=
  (s.teams.filter fun t => t.grid == some grid).foldl (fun s t =>
    match t.gbar with
    | some o => if o + 64 ≤ t.vsize then barBreak s (vaultKey t.home (t.vbase + o)) 0x0604 id else s
    | none => s) s

/-- The pairs a held grid's placement takes (21 R297): a pair for each team as far as there are pairs, those where a team fits now
first, then those where it could fit if they were empty (assumption 72). -/
def gangPairs (s : State) (l : Launch) : List Nat :=
  let ps := (List.range 32).filter fun p => couldFit s p l
  let now := ps.filter fun p => (teamFit s p l).isSome
  (now ++ ps.filter fun p => !now.contains p).take (gridTeams l)

/-- Reserve the placement of a held grid (21 R297). -/
def gangReserve (s : State) (grid : Nat) (l : Launch) : State :=
  { s with resvd := s.resvd ++ (gangPairs s l).map fun p => (p, grid) }

/-- Give up a held grid and its reservation. -/
def gangDrop (s : State) (grid : Nat) : State :=
  { s with grids := s.grids.filter fun (x : Grid) => !(x.id == grid && x.held), resvd := s.resvd.filter fun r => r.2 != grid }

/-- A held grid is released as LAUNCH submits one (21 R276, R297). -/
def gangRelease (s : State) (grid lt key : Nat) : State :=
  { s with grids := s.grids.map fun x =>
      if x.id == grid then { x with held := false, lt := lt, key := key, candAt := s.now } else x }

/-- The gangs a C-die's front group has open. -/
def gangsOf (s : State) (die : Nat) : List Gang := s.gangs.filter fun x => x.die == die

/-- GBAR of the leader's own grid (25 R331): its entry with this GID and LEADER = DEVID. -/
def leaderGbar (s : State) (gid : W32) : Option Nat :=
  ((List.range 16).find? fun k => bit (memberWord s k 0) 0 && bits (memberWord s k 2) 63 32 == gid.toNat &&
    bits (memberWord s k 2) 31 12 == devid s).map fun k => 64 * memberGbar s k

/-- Record `k` on with the address register that reads addresses of a gang record in the space of the record (21 R296). -/
def gangReg (c : Ctx) (a : BitVec 4) (p : W64) : AReg :=
  { getA c.r a.toNat with ptr := p, base := 0, limit := Config.none64 }

/-- Read the member list, one relaxed load of four bytes an entry (21 R296); none when a load must wait (13 R156, R175). An entry that
cannot be read for an uncorrectable error or another device is a free value (21 R298; assumption 77). -/
def readMembers (c : Ctx) (ar : AReg) : Nat → Nat → Ctx × Except (Option (List (Nat × Cause))) (List (BitVec 20))
  | _, 0 => (c, .ok [])
  | k, n + 1 =>
    let (c, cs, qs) := uniAccess c ar (4 * k) 4 .rd
    let (cs, lost) := recordTraps cs
    if !cs.isEmpty || qs.isEmpty && !lost then (c, .error (some cs))
    else if qs.any fun q => recordBusy c q 4 then (c, .error none)
    else
      let (c, r) : Ctx × Except Cause Nat := match qs with | q :: _ => readPart c q 0 4 (isSys ar) | [] => (c, .error (causeEcc 0 0))
      let (c, x) := anyBytes c 4 r
      let (c, r) := readMembers c ar (k + 1) n
      (c, match r with | .error e => .error e | .ok ms => .ok (BitVec.ofNat 20 x :: ms))

/-- The handle a new gang takes: the lowest that is free (21 R297). -/
def freeHandle (s : State) (die : Nat) : Nat :=
  ((List.range 16).find? fun h => !((gangsOf s die).any fun x => x.handle == h)).getD 0

/-- GANG.PREP (21 R297); a local grid that no pair could take makes it fail at once (assumption 72). -/
def execGangPrep (_h : Hdr) (d : BitVec 6) (a : BitVec 4) (s : State) : Res :=
  issue (.gangPrep _h d a) s fun c =>
    if c.on = 0 then orTrap c 0 [] fun c => retire c c.g
    else withRecord c a 64 fun c x =>
      let nmem := bits x 319 300
      let gid : W32 := fld 32 383 352 x
      let timeout : W32 := fld 32 351 320 x
      let die := dieOf c.g.core
      if bits x 299 0 != 0 || timeout == 0 || nmem == 0 || 16 ≤ (gangsOf c.s die).length then trapAct c (causeBounds 0)
      else
        recordAt c (gangReg c a (fld 64 511 448 x)) 128 fun c y =>
              match launchCause c.s y with
              | some e => trapAct c e
              | none =>
                let (c, ms) := readMembers c (gangReg c a (fld 64 447 384 x)) 0 nmem
                match ms with
                | .error none => againFar c
                | .error (some cs) => orTrap { c with hint := 0 } 1 cs fun c => c.s
                | .ok ms =>
                  let l := launchOf y
                  withKernel c l.pasid (launchKernel l) l.entryD l.entryL fun c ker =>
                    if (gangPairs c.s l).isEmpty then retireAt c c.s (later c.g (.s d.toNat) 0x0604) recordLevels else
                    let grid := c.s.nextId
                    let h := freeHandle c.s die
                    let s := submitGrid (setGroup c.s c.g) l ker c.g.lt 0 true (leaderGbar c.s gid)
                    let g : Gang := ⟨h, die, gid, timeout, grid, ms, [], false, false, s.now, false⟩
                    let s := gangAll (gangReserve { s with gangs := s.gangs ++ [g] } grid l) 0 g
                    park c s c.g c.act (.gangPrep h d c.tok)

/-- Replace an open gang. -/
def setGang (s : State) (x : Gang) : State :=
  { s with gangs := s.gangs.map fun y => if y.die == x.die && y.handle == x.handle then x else y }

/-- Close a gang. -/
def closeGang (s : State) (x : Gang) : State :=
  { s with gangs := s.gangs.filter fun y => !(y.die == x.die && y.handle == x.handle) }

/-- GANG.COMMIT (21 R297); the commit of a gang whose TIMEOUT has passed fails. -/
def execGangCommit (_h : Hdr) (d a : BitVec 6) (s : State) : Res :=
  issue (.gangCommit _h d a) s fun c =>
    if c.on = 0 then orTrap c 0 [] fun c => retire c c.g
    else
      let h := (getS c.r a.toNat).toNat
      let die := dieOf c.g.core
      match (gangsOf c.s die).find? fun x => x.handle == h && x.prepared && !x.committing with
      | none => trapAct c (causeBounds 0)
      | some x => orTrap c 0 [] fun c =>
        if x.broken then retireAt c (closeGang c.s x) (later c.g (.s d.toNat) 0x0604) []
        else withRelease c .dev fun c =>
          let s := gangRelease c.s x.grid c.g.lt (dtime c.s die).toNat
          park c (gangAll (setGang s { x with committing := true, acks := [], since := s.now }) 1 x) c.g c.act (.gangCommit h d c.tok)

/-- The front group's wait for a gang ends with a status (21 R297). -/
def gangWake (s : State) (x : Gang) (commit : Bool) (status : W32) : State :=
  wakeAll s (fun g w => g.front && dieOf g.core == x.die &&
    match w with
    | .gangPrep h _ _ => !commit && h == x.handle
    | .gangCommit h _ _ => commit && h == x.handle
    | _ => false) status 0

/-- A gang fails at the leader (21 R297; 25 R332): BREAK to every member, its own grid's gang barrier broken, GANG_BROKEN. -/
def gangFail (s : State) (x : Gang) : State :=
  let s := gangAll (closeGang s x) 3 x
  let s := if x.committing then gangBreak s x.grid else gangDrop s x.grid
  gangWake s x x.committing 0x0604

/-- A member's answer reaches the leader (21 R297; 25 R332). -/
def gangAnswer (s : State) (gid : W32) (dev : BitVec 20) (ack : Bool) : State :=
  match s.gangs.find? fun x => x.gid == gid && !x.broken && x.members.contains dev && (!x.prepared || x.committing) && !x.acks.contains dev with
  | none => s
  | some x =>
    if !ack then gangFail s x
    else
      let x := { x with acks := x.acks ++ [dev] }
      if !(x.members.all fun m => x.acks.contains m) then setGang s x
      else if x.committing then gangWake (gangAll (closeGang s x) 2 x) x true 0
      else gangWake (setGang s { x with prepared := true }) x false 0

/-- TIMEOUT of the `k`-th open gang passes (21 R297; 25 R332): BREAK goes to every member; a phase that still waits fails, and a prepared
gang without a COMMIT gives up its grid, its handle staying open. -/
def gangExpire (s : State) (k : Nat) : State :=
  match s.gangs[k]? with
  | none => s
  | some x =>
    if x.broken || s.now ≤ x.since + x.timeout.toNat then s
    else if x.prepared && !x.committing then gangDrop (gangAll (setGang s { x with broken := true }) 3 x) x.grid
    else gangFail s x

/-- STATE of a member entry: 0 idle, 1 prepared, 2 running, 3 broken (25 R331). -/
def memberState (s : State) (k : Nat) : Nat := bits (memberWord s k 1) 55 52

/-- Set STATE of a member entry. -/
def setMember (s : State) (k st : Nat) : State := regSetField s (offMember k 1) 55 52 st

/-- The valid member entry of a gang and leader (25 R331). -/
def memberFind (s : State) (gid : W32) (leader : BitVec 20) : Option Nat :=
  (List.range 16).find? fun k => bit (memberWord s k 0) 0 && bits (memberWord s k 2) 63 32 == gid.toNat &&
    bits (memberWord s k 2) 31 12 == leader.toNat

/-- A launch record at a physical address (25 R331). -/
def physRecord (s : State) (pa : Nat) : Nat := wordsVal (memReadWords s 0 pa 16)

/-- The group that stands for a member's launch, which no group issues: it belongs to no core's program and raises no lt. -/
def memberGroup (s : State) : Group :=
  newGroup s.nextId 0 0 0 s.nextId 0 0 16 ⟨0, 0, 0, false, false, 0, 0, 0, 0⟩ 0 0 0 aregZero 0

/-- PREPARE at a member (25 R332). It waits while a bias command holds its launch record or kernel object (25 R324). -/
def memberPrepare (s : State) (gid : W32) (leader : BitVec 20) (timeout : W32) : State :=
  let nak := gangSend s 5 gid timeout leader
  match memberFind s gid leader with
  | none => nak
  | some k =>
    if memberState s k != 0 && memberState s k != 3 then nak
    else
      let lrec := memberWord s k 3
      if wordsHeld s lrec 16 then holdWrite s (.prepare gid leader timeout) else
      let s := recallHost s lrec .s
      let x := physRecord s lrec
      let l := launchOf x
      if lrec % 128 != 0 || !targetOk lrec || (launchCause s x).isSome || 64 * l.vault64 < 64 * memberGbar s k + 64 ||
          (gangPairs s l).isEmpty then nak
      else
        let (s, r) := kernelRead s (memberGroup s) l.pasid (launchKernel l) l.entryD l.entryL
        let go (ker : Kernel) :=
          let grid := s.nextId
          let s := submitGrid s l ker 0 0 true (some (64 * memberGbar s k))
          let s := gangReserve s grid l
          let s := { s with members := (s.members.filter fun m => m.slot != k) ++ [⟨k, grid, s.now + timeout.toNat⟩] }
          gangSend (setMember s k 1) 4 gid timeout leader
        match r with
        | .error .wait => holdWrite s (.prepare gid leader timeout)
        | .error (.page _ _) =>
          go { launchKernel l with ibD := l.entryD, ibL := l.entryL, hasD := l.entryD != 0, hasL := l.entryL != 0 }
        | .ok k => go k

/-- PREPARE messages that have waited for a bias command are taken up (25 R324, R332). -/
def preparesGo (s : State) (q : List HeldWrite) : State :=
  q.foldl (fun s x => match x with | .prepare gid leader timeout => memberPrepare s gid leader timeout | _ => s) s

/-- COMMIT at a member (25 R332). -/
def memberCommit (s : State) (gid : W32) (leader : BitVec 20) : State :=
  match (memberFind s gid leader).filter fun k => memberState s k == 1 with
  | none => gangSend s 5 gid 0 leader
  | some k =>
    let s := (s.members.filter fun m => m.slot == k).foldl (fun s m => gangRelease s m.grid 0 (dtime s 0).toNat) s
    gangSend (setMember s k 2) 4 gid 0 leader

/-- CLOSE at a member (25 R332). -/
def memberClose (s : State) (gid : W32) (leader : BitVec 20) : State :=
  match memberFind s gid leader with
  | none => s
  | some k => if 2 ≤ memberState s k then setMember s k 0 else s

/-- The end of a member's gang (25 R332): a prepared one gives up its reservation, a running one's gang barriers break. -/
def memberBreak (s : State) (k : Nat) : State :=
  let mine := s.members.filter fun m => m.slot == k
  if memberState s k = 1 then
    { setMember (mine.foldl (fun s m => gangDrop s m.grid) s) k 0 with members := s.members.filter fun m => m.slot != k }
  else if memberState s k = 2 then setMember (mine.foldl (fun s m => gangBreak s m.grid) s) k 3
  else s

/-- TIMEOUT of the `k`-th member's PREPARE passes without a COMMIT (25 R332). -/
def memberExpire (s : State) (k : Nat) : State :=
  match s.members[k]? with
  | none => s
  | some m => if m.deadline < s.now && memberState s m.slot == 1 then memberBreak s m.slot else s

/-- The route to a device fails: every gang it leads ends here (25 R332). -/
def memberRouteFail (s : State) (dev : BitVec 20) : State :=
  (List.range 16).foldl (fun s k =>
    if bit (memberWord s k 0) 0 && bits (memberWord s k 2) 31 12 == dev.toNat then memberBreak s k else s) s

end Sys2Proof.Machine
end

