-- ==== Sys2Proof/Machine/Migrate.lean ====
section
/-! DEFINITION. Equivalence points and migration (23 R304 to R314). -/

namespace Sys2Proof.Machine

/-- An entry of a mapping list (23 R305). -/
structure MapEnt where
  tag : Nat
  kind : Nat
  num : Nat
deriving DecidableEq, Repr

/-- `n` entries of a mapping list from `va`. A non-zero reserved field [15:12] is ignored: R307's list of malformed cases does not name it, and
chapter 23 names no other fault for it (DESIGN CHOICE, unsafe; assumption 93). -/
def mapList (s : State) (pasid : BitVec 20) (va : Nat) : Nat → Option (List MapEnt)
  | 0 => some []
  | n + 1 => do
    let x ← peek s pasid va 4
    let r ← mapList s pasid (va + 4) n
    some (⟨bits x 31 20, bits x 19 16, bits x 11 0⟩ :: r)

/-- The largest number a kind may name in a form with `regs` vector registers, if the kind exists (05 R64; 23 R305, R307). -/
def mapLimit (regs kind : Nat) : Option Nat :=
  if kind = 0 then some (regs - 1) else if kind = 1 then some 63 else if kind = 2 then some 14 else if kind = 3 then some 6
  else if kind = 4 ∨ kind = 5 then some 3 else if kind = 6 then some 4095 else none

/-- A list is well formed for its form: tags strictly ascend, no location twice, every entry in range (23 R307). -/
def mapOk (regs : Nat) (l : List MapEnt) : Bool :=
  ((l.zip (l.drop 1)).all fun (x, y) => x.tag < y.tag) &&
    (dedup (l.map fun x => (x.kind, x.num))).length == l.length &&
    l.all fun x => match mapLimit regs x.kind with | some m => x.num ≤ m | none => false

/-- Two entries of one tag are of the same class (23 R307). -/
def sameClass (x y : MapEnt) : Bool :=
  let lane := fun (k : Nat) => k == 0 || k == 6
  x.tag == y.tag && (x.kind == y.kind || (lane x.kind && lane y.kind))

/-- The records of a table have ascending indexes (23 R304). -/
def eqpSorted (s : State) (pasid : BitVec 20) : Option Nat → Nat → Nat → Bool
  | _, _, 0 => true
  | last, va, n + 1 =>
    match peek s pasid va 8 with
    | none => false
    | some x =>
      let i := bits x 63 52
      (match last with | none => true | some j => decide (j < i)) && eqpSorted s pasid (some i) (va + 32) n

/-- Bytes of one slot of a migration frame (23 R312). -/
def slotSize (w : Nat) (x : MapEnt) : Nat :=
  if x.kind = 0 ∨ x.kind = 6 then 4 * w else if x.kind = 3 then 8 else if x.kind = 2 then 32 else 4

/-- Size of a migration frame for a list (23 R312). -/
def frameSize (w : Nat) (l : List MapEnt) : Nat := (192 + (l.map (slotSize w)).sum + 63) / 64 * 64

/-- What a migration needs of the kernel object: MFSZ, the record, and the source's and the target's list. -/
structure MigPlan where
  mfsz : Nat
  point : EqpRec
  src : List MapEnt
  dst : List MapEnt
deriving DecidableEq, Repr

/-- The plan of a migration at point `idx`, none when the kernel object gives none or it is malformed (23 R307, R311). -/
def migPlan (s : State) (g : Group) (idx : Nat) : Option MigPlan := do
  let toL := !formL g
  let ko := g.ker.kobj.toNat
  let (t, h) ← eqpTable s g.pasid ko
  let n := bits h 63 0
  let mfsz := bits h 95 64
  if 4096 < n || bits h 255 96 != 0 || mfsz % 64 != 0 || !eqpSorted s g.pasid none (t + 32) n then none
  else
    let r ← eqpSearch s g.pasid idx n (t + 32)
    if !r.valid || r.rsv != 0 || r.lmap % 4 != 0 || r.dmap % 4 != 0 || 1024 < r.nmap then none
    else
      let l ← mapList s g.pasid (ko + r.lmap) r.nmap
      let d ← mapList s g.pasid (ko + r.dmap) r.nmap
      if !(if toL then g.ker.hasL else g.ker.hasD) || !mapOk g.ker.regsL l || !mapOk g.ker.regsD d ||
          !((l.zip d).all fun (x, y) => sameClass x y) || mfsz < frameSize g.w l then none
      else some ⟨mfsz, r, if toL then d else l, if toL then l else d⟩

/-- The core a migration goes to: the other one of the pair (23 R310). -/
def migTarget (g : Group) : Nat := kindCore (pairOf g.core) (!formL g)

/-- Tiles of the group's team on a core. -/
def teamTiles (s : State) (g : Group) (core : Nat) : List Nat := ((getTeam s g.team).map fun t => mapGet [] t.tiles core).getD []

/-- The team needs tiles on the target core that it does not hold yet (23 R311). -/
def migNeedsTiles (s : State) (g : Group) : Nat :=
  match getTeam s g.team with
  | some t => if (mapGet [] t.tiles (migTarget g)).isEmpty then t.ntiles else 0
  | none => 0

/-- Bytes of the group's team space. -/
def teamSpace (s : State) (g : Group) : Nat := ((getTeam s g.team).map (·.vsize)).getD 0

/-- The migration at point `idx` is refused (23 R311 items 1 to 6). -/
def migRefused (s : State) (g : Group) (idx : Nat) : Bool :=
  g.front ||
    ((lanesOf g.w (liveMask g)).any fun l => let x := laneAt g l; !x.stack.isEmpty || x.sd != 0 || x.meet != Config.none64) ||
    (match migPlan s g idx with
      | none => true
      | some p => teamSpace s g < p.mfsz * (g.srGroup + 1)) ||
    (freeSlots s (migTarget g)).isEmpty || !regRoom s (migTarget g) 1 g.ker.regsD g.w ||
    (tilesFree s (migTarget g)).length < migNeedsTiles s g

/-- Reserve the target core's slot and tiles (23 R310). -/
def migReserve (s : State) (g : Group) (w : W32) : State × Group :=
  let c := migTarget g
  let n := migNeedsTiles s g
  let tiles := (tilesFree s c).take n
  let s := tiles.foldl (fun s t => giveTile s c g.pasid t) s
  let s := if n = 0 then s else updTeam s g.team fun t => { t with tiles := mapPut [] t.tiles c tiles }
  (s, { g with migCore := some c, migTiles := n != 0, migWord := w })

/-- Another group of the team runs on the target core, or is on its way there: the tiles there are its too. -/
def tilesShared (s : State) (g : Group) : Bool :=
  s.groups.any fun x => x.team == g.team && x.gid != g.gid && (x.core == migTarget g || x.migCore == some (migTarget g))

/-- The reservation of a migration is released (23 R313). -/
def migRelease (s : State) (g : Group) : State × Group :=
  let s := if g.migTiles && !tilesShared s g then updTeam s g.team fun t => { t with tiles := mapPut [] t.tiles (migTarget g) [] } else s
  (s, { g with migCore := none, migTiles := false, migWord := 0 })

/-- EQP (23 R308, R310, R311): it sets the last equivalence point and retires; or, with the request armed at depth 0 in a
converged group, it is refused with MIGR_FAIL or its entry waits in MIGRATING for the migration. -/
def execEqp (_h : Hdr) (idx : BitVec 12) (s : State) : Res :=
  issue (.eqp _h idx) s fun c => orTrap c 0 [] fun c =>
    if c.g.migReq && c.g.frames.isEmpty && c.act == liveMask c.g then
      if migRefused c.s c.g idx.toNat then
        let g := { c.g with migReq := false }
        orTrap { c with g := g, s := setGroup c.s g } 0 (onAct c causeMigr) fun c => c.s
      else
        let (s, g) := migReserve c.s c.g c.w0
        setGroup s (setEnt g c.e { entAt g c.e with st := .migrating })
    else retire c { c.g with eqp := some idx }

/-- MIGR (23 R309). -/
def execMigr (_h : Hdr) (s : State) : Res :=
  issue (.migr _h) s fun c => simple c fun c => if c.on = 0 then c.g else { c.g with migReq := true }

/-- The address of a spill word of a lane (23 R306). -/
def spillAddr (g : Group) (k l : Nat) : Int := ((getA g 15).ptr.toNat : Int) - 4 * g.w * (k + 1) + 4 * l

/-- The access of a lane to a spill word, checked under R155 against a15: its place, or the cause (23 R306). -/
def spillPlace (s : State) (g : Group) (k l : Nat) (write : Bool) : Except Cause Place × State :=
  let ar := getA g 15
  if ar.space != 0 then (.error (causePerm 0), s)
  else checkAccess s g l ar (spillAddr g k l) 4 (if write then .wr else .rd)

/-- A spill word is read as a relaxed .grp load of its lane, performed at once; none when the data fail (23 R306, R311). -/
def spillRead (s : State) (g : Group) (l va : Nat) (p : Place) : State × Option Nat :=
  let a := accOf g 16 l va p 0 4 .load 0 false false false false
  let a := match p with
    | .mem pa =>
      match l1Hit s g.core g.pasid pa 4 g.lt with
      | some (v, ws, le) => { a with st := .done (BitVec.ofNat 64 v) ws le true }
      | none => { a with renew := wantsRenewal s g.core pa g.lt }
    | _ => a
  let (s, b) := accNow s a
  match b.st with
  | .done v ws _ _ => (noteRead (raiseLt s g.gid ws) g.gid b.rst, some v.toNat)
  | _ => (s, none)

/-- A spill word is written as a relaxed .grp store of its lane (23 R306). -/
def spillWrite (s : State) (g : Group) (l va : Nat) (p : Place) (v : Nat) : State :=
  let (s, g') := groupStore s g (accOf g 16 l va p 0 4 .store (BitVec.ofNat 64 v) false false false false)
  updGroup s g.gid fun x => { x with remFail := x.remFail.or g'.remFail }

/-- How steps 2 and 3 of a migration go: on, parked on pages of some lanes with the access kind, refused, or not yet
(23 R311 item 7, R313). -/
inductive MigRes where
  | ok (vals : List (Assoc W64))
  | page (acc : AccKind) (cs : List (Nat × Cause))
  | fail
  | wait
deriving DecidableEq, Repr

/-- The first problem of the causes and the places of spill accesses: an earlier access to one, or a running bias command, makes the
migration wait (13 R175, R181; 25 R324). -/
def migProblem (s : State) (g : Group) (acc : AccKind) (cs : List (Nat × Cause)) (ps : List (Nat × Place)) : Option MigRes :=
  if cs.isEmpty then (if ps.any fun p => placeBusy s g p.2 4 || placeHeld s p.2 4 then some .wait else none)
  else if cs.all fun x => x.2.page.isSome then some (.page acc cs) else some .fail

/-- The value of a source location: by lane for v and spill, at key 0 for the uniform kinds; an address register and a
predicate are read where they are used (23 R312, R313 step 2). -/
def readLoc (s : State) (g : Group) (x : MapEnt) : State × Except MigRes (Assoc W64) :=
  let live := lanesOf g.w (liveMask g)
  if x.kind = 0 then
    (s, .ok (live.map fun l => (l, if g.released.getLsbD x.num then 0 else (getV g x.num l).setWidth 64)))
  else if x.kind = 1 then (s, .ok [(0, (getS g x.num).setWidth 64)])
  else if x.kind = 3 then (s, .ok [(0, getP g x.num &&& liveMask g)])
  else if x.kind = 4 then (s, .ok [(0, if getQ g x.num then 1 else 0)])
  else if x.kind = 5 then (s, .ok [(0, BitVec.ofNat 64 (iregVal (getI g x.num)))])
  else if x.kind = 6 then
    let (s, cs, ps) := live.foldl (fun (y : State × List (Nat × Cause) × List (Nat × Place)) l =>
      let (r, s) := spillPlace y.1 g x.num l false
      match r with
      | .error e => (s, y.2.1 ++ [(l, e)], y.2.2)
      | .ok p => (s, y.2.1, y.2.2 ++ [(l, p)])) (s, [], [])
    match migProblem s g 1 cs ps with
    | some r => (s, .error r)
    | none =>
      let (s, vs) := ps.foldl (fun (y : State × List (Nat × Option Nat)) (l, p) =>
        let (s, v) := spillRead y.1 g l (spillAddr g x.num l).toNat p
        (s, y.2 ++ [(l, v)])) (s, [])
      (s, if vs.all fun v => v.2.isSome then .ok (vs.map fun v => (v.1, BitVec.ofNat 64 (v.2.getD 0))) else .error .fail)
  else (s, .ok [])

/-- The group with the lt, and the stamps its loads have read, that the state has raised for it (13 R161, R176). -/
def withLt (s : State) (g : Group) : Group :=
  (getGroup s g.gid).elim g fun x => { g with lt := max g.lt x.lt, rlt := max g.rlt x.rlt }

/-- Step 2: every source location in tag order (23 R313). -/
def readLocs (s : State) (g : Group) : List MapEnt → State × Except MigRes (List (Assoc W64))
  | [] => (s, .ok [])
  | x :: xs =>
    let (s, r) := readLoc s g x
    match r with
    | .error e => (s, .error e)
    | .ok v =>
      let (s, r) := readLocs s (withLt s g) xs
      (s, match r with | .error e => .error e | .ok vs => .ok (v :: vs))

/-- Step 3: the target's spill words of the live lanes (23 R313). -/
def writeSpills (s : State) (g : Group) : List (MapEnt × Assoc W64) → State × Option MigRes
  | [] => (s, none)
  | (x, vs) :: xs =>
    if x.kind != 6 then writeSpills s g xs
    else
      let (s, cs, ps) := (lanesOf g.w (liveMask g)).foldl
        (fun (y : State × List (Nat × Cause) × List (Nat × Place)) l =>
          let (r, s) := spillPlace y.1 g x.num l true
          match r with
          | .error e => (s, y.2.1 ++ [(l, e)], y.2.2)
          | .ok p => (s, y.2.1, y.2.2 ++ [(l, p)])) (s, [], [])
      match migProblem s g 2 cs ps with
      | some r => (s, some r)
      | none =>
        writeSpills (ps.foldl (fun s (l, p) => spillWrite s g l (spillAddr g x.num l).toNat p (mapGet 0 vs l).toNat) s) g xs

/-- The bytes of one slot of a migration frame (23 R312). -/
def slotBytes (g : Group) (x : MapEnt) (vs : Assoc W64) : List (Nat × Nat) :=
  if x.kind = 0 ∨ x.kind = 6 then (List.range g.w).map fun l => ((mapGet 0 vs l).toNat, 4)
  else if x.kind = 3 then [((mapGet 0 vs 0).toNat, 8)]
  else if x.kind = 2 then (aregWords (getA g x.num)).map fun w => (w, 8)
  else [((mapGet 0 vs 0).toNat, 4)]

/-- The migration frame as values with their sizes (23 R312). -/
def migFrame (s : State) (g : Group) (idx : Nat) (src : List MapEnt) (vals : List (Assoc W64)) : List (Nat × Nat) :=
  ([1 + bitNat (formL g) * 2 ^ 8 + g.w * 2 ^ 16 + idx * 2 ^ 24 + bitNat g.budgetPend * 2 ^ 36 +
      s.epoch.toNat * 2 ^ 48, g.lt % 2 ^ 48, (liveMask g).toNat, g.rmode.toNat + g.tbase.toNat * 2 ^ 32, g.budget.toNat,
      g.deadline.toNat] ++ rgnWords g ++ aregWords (getA g 15) ++ ((List.range 8).map fun i => mapGet 0 g.stalls i) ++
      List.replicate 4 0).map (fun w => (w, 8)) ++
    (src.zip vals).flatMap fun (x, v) => slotBytes g x v

/-- Write values with their sizes into a vault from a key. -/
def vaultValues (s : State) (key lt : Nat) : List (Nat × Nat) → State
  | [] => s
  | (v, n) :: r => vaultValues (vaultWrite s key n v lt) (key + n) lt r

/-- Load one tag's value into the target's location (23 R313 step 5). -/
def loadLoc (old g : Group) (x y : MapEnt) (vs : Assoc W64) : Group :=
  if y.kind = 0 then vs.foldl (fun g (l, v) => setV g y.num l (v.setWidth 32)) g
  else if y.kind = 1 then setS g y.num ((mapGet 0 vs 0).setWidth 32)
  else if y.kind = 2 then setA g y.num (getA old x.num)
  else if y.kind = 3 then { g with p := mapPut 0 g.p y.num (mapGet 0 vs 0) }
  else if y.kind = 4 then setQ g y.num ((mapGet 0 vs 0).getLsbD 0)
  else if y.kind = 5 then setI g y.num (iregOf (mapGet 0 vs 0).toNat)
  else g

/-- The group as it arrives on the target core (23 R307, R313 steps 5 and 6). -/
def migGroup (g : Group) (core slot idx : Nat) (p : MigPlan) (vals : List (Assoc W64)) : Group :=
  let live := liveMask g
  let at_ := if isLCore core then g.ker.ibL + BitVec.ofNat 64 p.point.laddr else g.ker.ibD + BitVec.ofNat 64 p.point.daddr
  let pc := at_ + 4
  let base : Group := { g with
    core := core, res := .resident slot, v := [], p := [], s := [], a := mapPut aregZero [] 15 (getA g 15), q := [], i := []
    lanes := (List.range g.w).map fun l => newLane pc (!live.getLsbD l)
    ents := ⟨true, live, live, pc, Config.none64, 0, 0, .ready, 0, g.last, false⟩ :: List.replicate 15 freeEntry
    frames := [], eqp := some (BitVec.ofNat 12 idx), retired := g.retired + 1, migReq := false, migCore := none
    migTiles := false, migWord := 0, arriving := true, released := 0, pend := [], flights := [], spark := false }
  ((p.src.zip p.dst).zip vals).foldl (fun n x => loadLoc g n x.1.1 x.1.2 x.2) base

/-- Every wait of R310 and R313 step 1 has ended. -/
def migReady (s : State) (g : Group) : Bool :=
  !relHeld s g.core && (g.pend.all fun p => p.val.isSome) &&
    !(s.accs.any fun a => a.gid == g.gid && a.ent < 16) && !(s.mq.any fun q => q.2.any fun o => o.gid == g.gid)

/-- The reservation goes and the entry stands at its EQP again (23 R313). -/
def migBack (s : State) (g : Group) (e : Nat) : State × Group :=
  let (s, g) := migRelease s g
  (s, setEnt g e { entAt g e with st := .ready })

/-- A taken migration is refused (23 R311): MIGR_FAIL at the EQP, with the request cleared. -/
def migFail (s : State) (g0 g : Group) (e : Nat) : State :=
  let w0 := g.migWord
  let (s, g) := migBack s { g with migReq := false } e
  takeTrap (setGroup s g) g0 g e (entAt g e).pc w0 0 causeMigr.code 0 (entAt g e).act 0

/-- A taken migration runs in entry `e` (23 R313). Its EQP leaves the old core, retired or parked on a page (29 R355, R356). -/
def migrate (s1 : State) (g0 : Group) (e : Nat) : State :=
  let s := s1
  let g := landAll g0
  let idx := bits g.migWord.toNat 14 3
  match migPlan s g idx with
  | none => migFail s g0 g e
  | some p =>
    let (s, ws) := drainCore s g.core
    let s := drainVault s g.core s.accs.length 0
    let s := raiseLt (loseResv s g.gid (fullMask 64)) g.gid ws
    let (s, r) := readLocs s (withLt s g) p.src
    let (s, r) : State × MigRes := match r with
      | .error r => (s, r)
      | .ok vals =>
        let (s, x) := writeSpills s (withLt s g) (p.dst.zip vals)
        let (s, ws) := drainCore s g.core
        (raiseLt s g.gid ws, x.getD (.ok vals))
    let g := withLt s g
    let g := { g with remFail := (getGroup s g.gid).elim g.remFail (·.remFail) }
    let act := (entAt g e).act
    match r with
    | .wait => s1
    | .page acc cs =>
      let (s, g) := migBack s g e
      let f := fun l => ((cs.find? fun x => x.1 == l).bind fun x => x.2.page).getD
        (((cs.head?).bind fun x => x.2.page).getD ⟨g.pasid, 0, false, false, false⟩)
      parkOnPages (sample s g e (entAt g e).pc act [] 1) g0 g e (entAt g e).pc (((cs.head?).map fun x => x.2.addr).getD 0) act (act &&& ~~~ maskOf (cs.map (·.1))) acc f
    | .fail => migFail s g0 g e
    | .ok vals =>
      let team := getTeam s g.team
      let home := (team.map (·.home)).getD g.core
      let off := ((team.map (·.vbase)).getD 0) + teamSpace s g - p.mfsz * (g.srGroup + 1)
      let s := vaultValues s (vaultKey home off) g.lt (migFrame s g idx p.src vals)
      let core := migTarget g
      let s := sample s g e (entAt g e).pc act [] 0
      let s := updTeam s g.team fun t => { t with cores := if t.cores.contains core then t.cores else t.cores ++ [core] }
      let gone := { g with migCore := none, ents := List.replicate 16 freeEntry }
      let s := flow (setGroup s gone) g0 gone none
      let slot := ((List.range (coreSlots core)).find? fun k => !frontSlot core k && !((residents s core).any fun x => slotOf x == k)).getD 0
      let g' := migGroup g core slot idx p vals
      startTrace (setGroup s g') g'

end Sys2Proof.Machine
end

