-- ==== Sys2Proof/Machine/System.lean ====
section
/-! DEFINITION. TRAP, TRET, FREC.RD, HALT, BKPT (17 R214 to R217; 29 R346, R347), regions and trace marks (29 R343, R353). -/

namespace Sys2Proof.Machine

/-- TRAP (17 R215). -/
def execTrap (_h : Hdr) (code : BitVec 12) (s : State) : Res :=
  issue (.trap _h code) s fun c =>
    if c.on = 0 then simple c fun c => c.g else trapWith c c.on (causeSw (code.setWidth 16))

/-- The active lanes whose execution evaluates breakpoints (17 R214). -/
def debugLanes (c : Ctx) : W64 := c.on &&& ~~~ laneWhere c.g fun x => x.dbg

/-- BKPT (29 R346). -/
def execBkpt (_h : Hdr) (tag : BitVec 12) (s : State) : Res :=
  issue (.bkpt _h tag) s fun c =>
    if debugLanes c = 0 then simple c fun c => c.g else trapWith c (debugLanes c) (causeBkpt (tag.setWidth 16))

/-- RETURN FROM A TRAP (17 R214): the lanes of the top frame go on at its PC, or after it, and the frame is popped. -/
def trapReturn (c : Ctx) (f : Frame) (h : W64) : State :=
  let pc := if f.fr.res = 1 then nextPc c.g f.pc false false else f.pc
  let g := retired c.g c
  let g := updLanes { g with frames := g.frames.dropLast } h fun _ x =>
    { x with pc := pc, meet := f.meet, dbg := f.fr.res == 2, denied := none }
  let g := setEnt g c.e (refreshEnt g (entAt g c.e))
  let s := sample c.s g c.e c.pc c.act [] 0
  commit s c.g (tidy g) none

/-- TRET (17 R214). -/
def execTret (_h : Hdr) (s : State) : Res :=
  issue (.tret _h) s fun c =>
    if c.on = 0 then simple c fun c => c.g
    else
      match c.g.frames.getLast? with
      | none => trapAct c (causeConv 3)
      | some f =>
        let h := f.h &&& liveMask c.g
        if c.act != h then trapAct c (causeConv 2) else trapReturn c f h

/-- The word FREC.RD reads (17 R216): word sA[2:0] of frame DEPTH − sA[4:3], or 0. -/
def frecWord (g : Group) (sel : Nat) : Nat :=
  let k := bits sel 4 3
  if bits sel 31 5 != 0 || g.frames.length ≤ k then 0
  else
    match g.frames[g.frames.length - 1 - k]? with
    | some f => (recWords f.fr).getD (bits sel 2 0) 0
    | none => 0

/-- FREC.RD (17 R216). -/
def execFrecRd (_h : Hdr) (d a : BitVec 6) (s : State) : Res :=
  issue (.frecRd _h d a) s fun c => simple c fun c =>
    if c.on = 0 then c.g else putS2 c.g d.toNat (BitVec.ofNat 64 (frecWord c.g (getS c.r a.toNat).toNat))

/-- HALT (17 R217; 29 R347): a halted-group report, and a stop of kind 2. -/
def execHalt (_h : Hdr) (s : State) : Res :=
  issue (.halt _h) s fun c =>
    if c.on = 0 then simple c fun c => c.g
    else orTrap c 0 [] fun c =>
      let s := retire c c.g
      match getGroup s c.g.gid with
      | none => s
      | some g =>
        let s := addReport s (dieOf g.core)
          { report0 5 with a := c.pc, b := teamGroup g.srTeam g.srGroup, pasid := g.pasid, core := BitVec.ofNat 6 g.core
                           slot := BitVec.ofNat 6 (slotOf g), entry := BitVec.ofNat 4 c.e }
        stopAt s g c.act 2

/-- RGN.ENTER on a region stack, top first (29 R343). -/
def rgnPush (st : List (BitVec 12)) (r : BitVec 12) : List (BitVec 12) := (r :: st).take 8

/-- RGN.LEAVE on a region stack (29 R343). -/
def rgnPop (st : List (BitVec 12)) (r : BitVec 12) : List (BitVec 12) :=
  match st with
  | x :: rest => if x = r then rest else st
  | [] => []

/-- RGN.ENTER and RGN.LEAVE retire: their trace record, and the region edge at which a halted group stops (29 R347, R352). -/
def regionEdge (c : Ctx) (st : List (BitVec 12)) : State :=
  let g := { c.g with rgn := st }
  let s := if tracing c.s g.core g.pasid then
      traceRec c.s g.core [4 + slotOf g * 2 ^ 8 + st.length * 2 ^ 16 + (rgn0 g).toNat * 2 ^ 32 + (rgn1 g).toNat * 2 ^ 48]
    else c.s
  let s := retireAt c s g []
  match getGroup s g.gid with
  | none => s
  | some g => if g.halt then stopAt s g c.act 3 else s

/-- RGN.ENTER (29 R343). -/
def execRgnEnter (_h : Hdr) (rgn : BitVec 12) (s : State) : Res :=
  issue (.rgnEnter _h rgn) s fun c => orTrap c 0 [] fun c =>
    if c.on = 0 then retire c c.g else regionEdge c (rgnPush c.g.rgn rgn)

/-- RGN.LEAVE (29 R343). -/
def execRgnLeave (_h : Hdr) (rgn : BitVec 12) (s : State) : Res :=
  issue (.rgnLeave _h rgn) s fun c => orTrap c 0 [] fun c =>
    if c.on = 0 then retire c c.g else regionEdge c (rgnPop c.g.rgn rgn)

/-- TRACE.MARK (29 R353). -/
def execTraceMark (_h : Hdr) (d : BitVec 6) (s : State) : Res :=
  issue (.traceMark _h d) s fun c => orTrap c 0 [] fun c =>
    if c.on = 0 || !tracing c.s c.g.core c.g.pasid then retire c c.g
    else
      let s := traceRec c.s c.g.core [5 + slotOf c.g * 2 ^ 8 + c.e * 2 ^ 16 + (getS c.r d.toNat).toNat * 2 ^ 32,
        (dtime c.s (dieOf c.g.core)).toNat]
      retireAt c s c.g []

end Sys2Proof.Machine
end

