-- ==== Sys2Proof/Machine/Events.lean ====
section
/-! DEFINITION. Device steps of groups and engines: holds, rotation and results (03 R37, R38, R49), engine and matrix
operations (15 R195 to R205; 19 R248 to R256), fault batches (17 R227 to R229), invalidation (17 R237, R238), context saves,
restores and tear-down (17 R218 to R224, R239, R240), BUDGET (17 R219; 21 R290), migration (23 R313). -/

namespace Sys2Proof.Machine

/-- Group `gid`, when it is resident, not stopped, and the clocks of its core run (01 R26; 29 R349; 31 R369). -/
def runningGroup (s : State) (gid : Nat) : Option Group :=
  (getGroup s gid).filter fun g => isResident g && g.stopped.isNone && !gated s g.core

/-- HOLD_TIMEOUT (03 R38). -/
def execHoldTimeout (gid e : Nat) (s : State) : Res :=
  .next (match runningGroup s gid with
    | some g =>
      if (entAt g e).v && 4096 ≤ (entAt g e).hold then putGroup s (tidy (releaseLanes g e (ownMask g e))) else s
    | none => s)

/-- DEFERRED_ROTATION (03 R37). -/
def execDeferredRotation (gid e : Nat) (s : State) : Res :=
  .next (match runningGroup s gid with
    | some g =>
      let x := entAt g e
      if x.v && x.st == .ready && !x.busy && 4096 ≤ x.dcnt then putGroup s (tidy (rotate g e)) else s
    | none => s)

/-- VARIABLE_LATENCY_RESULT (03 R48, R49; 05 R69): the `k`-th result, which has returned, is written; an S bit's group goes on when none
is left. A gated core's clocks stand still (31 R369). -/
def execVariableLatencyResult (gid k : Nat) (s : State) : Res :=
  .next (match getGroup s gid with
    | some g =>
      match g.pend[k]? with
      | some p => if p.val.isNone || gated s g.core then s else setGroup s (landAt g k p)
      | none => s
    | none => s)

/-- ENGINE_BURST (15 R198, R201 to R205). -/
def execEngineBurst (op el : Nat) (s : State) : Res := .next (engineStep s op el)

/-- The operation of an identifier. -/
def opFind (s : State) (id : Nat) : Option Op := s.ops.find? fun o => o.id == id

/-- ENGINE_DELIVERY (15 R195): the bytes written so far are counted. An XCP.V of length zero writes no byte and makes no
delivery event (15 R202; DESIGN CHOICE, unsafe; assumption 75). -/
def execEngineDelivery (op : Nat) (s : State) : Res :=
  .next (match opFind s op with
    | some o =>
      if o.undelivered = 0 then s
      else barDeliver (updOp s op fun o => { o with undelivered := 0 }) o.bar o.core o.undelivered o.stamp
    | none => s)

/-- ENGINE_FAULT (15 R195, R205): the barrier takes the code, and one report is made. -/
def execEngineFault (op : Nat) (s : State) : Res :=
  .next (match opFind s op with
    | some o =>
      match o.fault with
      | some code =>
        if o.charged then s
        else
          let s := updOp s op fun o => { o with charged := true }
          engineReport (barFault s o.bar code.toNat) o.core o.pasid o.barA o.srTeam o.srGroup code
      | none => s
    | none => s)

/-- ENGINE_OP_COMPLETE (15 R195, R198): everything moved and counted, a fault charged. -/
def execEngineOpComplete (op : Nat) (s : State) : Res :=
  .next (match opFind s op with
    | some o =>
      if opMoved o && o.undelivered == 0 && (o.fault.isNone || o.charged) then
        barOpDone (opStamp { s with ops := s.ops.filter fun x => x.id != op } o.team o.gid o.stamp) o.bar
      else s
    | none => s)

/-- MATRIX_OP_START (19 R249, R251). -/
def execMatrixOpStart (core k : Nat) (s : State) : Res := .next (matStart s core k)

/-- MATRIX_ROW_WRITE (19 R255 to R261). -/
def execMatrixRowWrite (core k row : Nat) (s : State) : Res := .next (matRowStep s core k row)

/-- MATRIX_OP_COMPLETE (19 R248, R256). -/
def execMatrixOpComplete (core k : Nat) (s : State) : Res := .next (matComplete s core k)

/-- PAGE_FAULT_BATCH_TIMER (17 R227): 2 µs after the first entry. -/
def execPageFaultBatchTimer (die : Nat) (s : State) : Res :=
  let b := batchAt s die
  .next (if b.closed.isNone && !b.entries.isEmpty && b.since + 2000 ≤ s.now then closeBatch s die 0 else s)

/-- FAULT_BATCH_WRITE (17 R225, R229). -/
def execFaultBatchWrite (die : Nat) (s : State) : Res := .next (tryWrite s die)

/-- A write of a command register by system software: it takes place unless its command must wait (00 R9; 17 R237). -/
def sysWrite (s : State) (off : Nat) (v : W64) : State := if regWaits s off v then s else writeReg s off v

/-- The word of FRES_CMD or INV_CMD from its fields, GO set (17 R228, R237). -/
def cmdWord (pasid : BitVec 20) (pages : BitVec 24) (code : BitVec 2) (s2 : Bool) : W64 :=
  BitVec.ofNat 64 (pasid.toNat * 2 ^ 44 + pages.toNat * 2 ^ 20 + code.toNat * 2 ^ 18 + bitNat s2 * 2 ^ 17 + 1)

/-- FRES_RETRY (17 R228). -/
def execFresRetry (pasid : BitVec 20) (va : BitVec 64) (pages : BitVec 24) (s : State) : Res :=
  .next (sysWrite (writeReg s offFresVa va) offFresCmd (cmdWord pasid pages 0 false))

/-- FRES_DENY (17 R228). -/
def execFresDeny (pasid : BitVec 20) (va : BitVec 64) (pages : BitVec 24) (s : State) : Res :=
  .next (sysWrite (writeReg s offFresVa va) offFresCmd (cmdWord pasid pages 1 false))

/-- A command of INV_CMD; while 16 are pending it waits (17 R237). -/
def invCommand (s : State) (va : W64) (v : W64) : State :=
  if regWaits s offInvCmd v then s else writeReg (writeReg s offInvVa va) offInvCmd v

/-- INV_RANGE (17 R237). -/
def execInvRange (pasid : BitVec 20) (va : BitVec 64) (pages : BitVec 24) (s2 : Bool) (s : State) : Res :=
  .next (invCommand s va (cmdWord pasid pages 0 s2))

/-- INV_PASID (17 R237). -/
def execInvPasid (pasid : BitVec 20) (s : State) : Res :=
  .next (invCommand s (regGet s offInvVa) (cmdWord pasid 0 1 false))

/-- INV_ALL (17 R237). -/
def execInvAll (s : State) : Res := .next (invCommand s (regGet s offInvVa) (cmdWord 0 0 2 false))

/-- INV_NONE (17 R237): KIND 3. -/
def execInvNone (s : State) : Res := .next (invCommand s (regGet s offInvVa) (cmdWord 0 0 3 false))

/-- INV_ACK (17 R238). -/
def execInvAck (k party : Nat) (s : State) : Res := .next (commandEnd (invParty s k party))

/-- No entry of the group can issue, and one is FAULTED (17 R221). -/
def faultIdle (g : Group) : Bool :=
  !((List.range 16).any fun e => entReady g e) && g.ents.any fun x => x.v && x.st == .faulted

/-- An instruction pre-emption of a context is running (17 R239). -/
def preempting (s : State) (pasid : BitVec 20) : Bool := s.preempts.any fun p => p.pasid == pasid && !p.drain

/-- Saved groups of a context may come back: it is active, or its teams run to their end under a drain (03 R56; 17 R221, R239). -/
def mayRestore (s : State) (pasid : BitVec 20) : Bool :=
  ctxState s pasid == 0 || (ctxState s pasid == 1 && !preempting s pasid)

/-- GROUP_SAVE (17 R221, R222, R239): for a running pre-emption, or because no entry can issue and one is FAULTED. -/
def execGroupSave (gid : Nat) (s : State) : Res :=
  .next (match getGroup s gid with
    | some g =>
      if !savable s g || saveHeld s g then s
      else if preempting s g.pasid then (saveGroup s g .savedPreempt).getD s
      else if faultIdle g then (saveGroup s g .savedFault).getD s
      else s
    | none => s)

/-- Some entry of a saved group could issue: a page is resolved or a wait has ended (17 R221). -/
def couldIssue (g : Group) : Bool :=
  ((List.range 16).any fun e => (entAt g e).v && replayEnt g e != 0) ||
    (List.range g.w).any fun l => match (laneAt g l).park with | .satisfied .. => true | _ => false

/-- GROUP_RESTORE (17 R221, R222, R224; 21 R295). -/
def execGroupRestore (gid core : Nat) (s : State) : Res :=
  .next (match getGroup s gid with
    | some g =>
      let due := match g.res with
        | .savedFault _ => couldIssue g
        | .savedPreempt _ => true
        | _ => false
      if due && mayRestore s g.pasid then restoreOn s g core else s
    | none => s)

/-- The deadline of the `k`-th pre-emption request has passed before it completed: its context is torn down, and its signal is made
(17 R240; 21 R294). -/
def deadlineGo (s : State) (k : Nat) : State :=
  match s.preempts[k]? with
  | some p =>
    if s.now ≤ p.deadline then s
    else
      let s := { s with preempts := dropAt s.preempts k }
      let s := if ctxState s p.pasid = 1 then teardown s p.pasid 0x0605 0 else s
      match p.sig with
      | some ch => chimeSignal s 0 ch.toNat 1 0 false
      | none => s
  | none => s

/-- PREEMPT_DEADLINE (17 R240; 21 R294). -/
def execPreemptDeadline (k : Nat) (s : State) : Res := .next (deadlineGo s k)

/-- CONTEXT_TEARDOWN (17 R240): a context whose pre-emption is past its deadline is torn down with CTX_RESET. An escalation tears its context
down as it is taken (17 R218). -/
def execContextTeardown (pasid : BitVec 20) (code : BitVec 16) (s : State) : Res :=
  .next (if code = 0x0605 then
      match (List.range s.preempts.length).find? fun k => (s.preempts[k]?).any fun p => p.pasid == pasid && decide (p.deadline < s.now) with
      | some k => deadlineGo s k
      | none => s
    else s)

/-- REGISTER_STORAGE_UNCORRECTABLE_ERROR (17 R218): it escalates with CODE ECC. -/
def execRegisterStorageError (gid : Nat) (s : State) : Res :=
  .next (match getGroup s gid with
    | some g => teardown s g.pasid 0x0601 0
    | none => s)

/-- Entry `e` is the READY one issued least recently, then the lowest (21 R280). -/
def entryFirst (g : Group) (e : Nat) : Bool :=
  (List.range 16).all fun j =>
    j == e || !entReady g j || (entAt g j).busy || (entAt g e).last < (entAt g j).last || ((entAt g e).last == (entAt g j).last && e < j)

/-- Read-modify-write accesses of the group are open. -/
def rmwOpen (s : State) (g : Group) : Bool := isRmw (s.accs.filter fun a => a.gid == g.gid && a.ent < 16)

/-- New instructions of a group may issue: it is resident and not stopped, its core's clocks run, and it is not parked by an S bit, stopping,
or to be saved by pre-emption (05 R69; 17 R239; 29 R347, R348; 31 R369); on an interlocked D-core no result is outstanding (23 R300;
05 R76), and on an L-core no access whose instruction reads and writes in its place of the retirement order (09 R102). A group for which no
slot of the save pool is free issues no more either while an instruction pre-emption waits for it, where 21 R294 only says that it stays
resident (DESIGN CHOICE, safe; assumption 96). -/
def groupMay (s : State) (g : Group) : Bool :=
  isResident g && g.stopped.isNone && !gated s g.core && !g.spark && g.stopReq.isNone && !(g.halt && 10000 ≤ g.haltCyc) &&
    !preempting s g.pasid && (if formL g then !rmwOpen s g else native g || !(g.ents.any fun x => x.v && x.busy))

/-- A new instruction may issue in entry `e`: its group may, and the entry's turn has come (21 R280). -/
def mayIssue (s : State) (g : Group) (e : Nat) : Bool := groupMay s g && entryFirst g e

/-- The group has an entry that could issue (09 R109; 21 R280). -/
def couldGo (s : State) (g : Group) : Bool := groupMay s g && (List.range 16).any fun e => entReady g e && !(entAt g e).busy

/-- The slot of a core's group that issued last, 0 with none. -/
def servedSlot (s : State) (core : Nat) : Nat :=
  ((residents s core).foldl (fun (b : Nat × Nat) g => if b.1 < g.last then (g.last, slotOf g) else b) (0, 0)).2

/-- The place of a group in the order in which its core's selector takes groups (21 R280): one that has yielded last; on a D-core by the
oldest last issue, then the lowest slot; on an L-core round-robin, from the slot after the last group served. -/
def selectKey (s : State) (g : Group) : Nat × Nat × Nat :=
  let n := coreSlots g.core
  (bitNat g.yielded,
    if isLCore g.core then ((slotOf g + 2 * n - servedSlot s g.core - 1) % n, 0) else (g.last, slotOf g))

/-- One key comes before another. -/
def keyLt (a b : Nat × Nat × Nat) : Bool :=
  a.1 < b.1 || (a.1 == b.1 && (a.2.1 < b.2.1 || (a.2.1 == b.2.1 && a.2.2 < b.2.2)))

/-- The core's selector takes group `g` now (09 R109; 21 R280): the groups before it have no entry that could issue, or their next words
cannot issue in this cycle, which fetch, operands and pipes decide: a free choice for each (assumptions 2, 78). -/
def selected (s : State) (g : Group) : Bool :=
  (residents s g.core).all fun h =>
    h.gid == g.gid || !couldGo s h || !keyLt (selectKey s h) (selectKey s g) || (Config.choice s.seq).testBit (slotOf h)

/-- A pending BUDGET is taken by entry `e` (17 R219): PC is its next instruction, LANES its ACT. None while frames are in use or
the entry could not issue. -/
def takeBudget (s : State) (g : Group) (e : Nat) : Option State :=
  if g.budgetPend && g.frames.isEmpty && isResident g && g.stopped.isNone && !g.spark && entReady g e && !(entAt g e).busy then
    let x := entAt g e
    some (takeTrap s g { g with budgetPend := false } e x.pc 0 0 causeBudget.code 0 x.act 0)
  else none

/-- BUDGET (17 R219): the entry that would issue next takes it. -/
def execBudget (gid e : Nat) (s : State) : Res :=
  .next (match getGroup s gid with
    | some g => if mayIssue s g e then (takeBudget s g e).getD s else s
    | none => s)

/-- BUDGET_EXHAUSTED (21 R290): the limited budget of a resident slice has reached 0. -/
def execBudgetExhausted (gid : Nat) (s : State) : Res :=
  .next (match getGroup s gid with
    | some g =>
      match g.slice with
      | some sl => if sl.limited && isResident g && !gated s g.core && g.budget.toNat ≤ 1 && g.budget != 0 then
          setGroup s { g with budget := 0, budgetPend := true } else s
      | none => s
    | none => s)

/-- MIGRATION (23 R313): a taken migration whose waits have ended runs, while the clocks of both cores run (31 R369). -/
def execMigration (gid : Nat) (s : State) : Res :=
  .next (match getGroup s gid with
    | some g =>
      match migEntry g with
      | some e => if migReady s g && !gated s g.core && !gated s (migTarget g) then migrate s g e else s
      | none => s
    | none => s)

end Sys2Proof.Machine
end

