-- ==== Sys2Proof/Machine/Integer.lean ====
section
/-! DEFINITION. Vector integer instructions (09 R113 to R119) and lane predicates (09 R110, R111). -/

namespace Sys2Proof.Machine

/-- A lane function of A and B into D, in 32 bits. -/
def lane2 (c : Ctx) (d a b : BitVec 6) (f : W32 → W32 → W32) : Group :=
  forLanes c.g c.on fun g l => putV g d.toNat l (f (getV c.r a.toNat l) (getV c.r b.toNat l))

/-- A lane function of A and B into D, in 64 bits. -/
def lane2w (c : Ctx) (d a b : BitVec 6) (f : W64 → W64 → W64) : Group :=
  forLanes c.g c.on fun g l => putV2 g d.toNat l (f (getV2 c.r a.toNat l) (getV2 c.r b.toNat l))

/-- A lane function of A and B into D, in the width of `w64`. -/
def laneW (c : Ctx) (w64 : Bool) (d a b : BitVec 6) (f : (n : Nat) → BitVec n → BitVec n → BitVec n) : Group :=
  if w64 then lane2w c d a b (f 64) else lane2 c d a b (f 32)

/-- A lane function of A into D, in 32 bits. -/
def lane1 (c : Ctx) (d a : BitVec 6) (f : W32 → W32) : Group :=
  forLanes c.g c.on fun g l => putV g d.toNat l (f (getV c.r a.toNat l))

/-- A lane function of A into D, in 64 bits. -/
def lane1w (c : Ctx) (d a : BitVec 6) (f : W64 → W64) : Group :=
  forLanes c.g c.on fun g l => putV2 g d.toNat l (f (getV2 c.r a.toNat l))

/-- The 64-bit operations with a shift amount or a count take one 32-bit register. -/
def laneShift (c : Ctx) (w64 : Bool) (d a b : BitVec 6) (f : (n : Nat) → BitVec n → Nat → BitVec n) : Group :=
  forLanes c.g c.on fun g l =>
    let s := (getV c.r b.toNat l).toNat
    if w64 then putV2 g d.toNat l (f 64 (getV2 c.r a.toNat l) s) else putV g d.toNat l (f 32 (getV c.r a.toNat l) s)

/-- A shift by an immediate amount. -/
def laneShiftImm (c : Ctx) (w64 : Bool) (d a amt : BitVec 6) (f : (n : Nat) → BitVec n → Nat → BitVec n) : Group :=
  if w64 then lane1w c d a fun x => f 64 x amt.toNat else lane1 c d a fun x => f 32 x amt.toNat

/-- ADD (09 R113). -/
def execAdd (_h : Hdr) (sat w64 : Bool) (d a b : BitVec 6) (s : State) : Res :=
  issue (.add _h sat w64 d a b) s fun c => simple c fun c =>
    laneW c w64 d a b fun n x y => intResult n sat (x.toInt + y.toInt)

/-- ADD with an immediate (09 R113). -/
def execAddImm (_h : Hdr) (w64 : Bool) (d a imm : BitVec 6) (s : State) : Res :=
  issue (.addImm _h w64 d a imm) s fun c => simple c fun c =>
    if w64 then lane1w c d a fun x => intResult 64 false (x.toInt + simm6 imm)
    else lane1 c d a fun x => intResult 32 false (x.toInt + simm6 imm)

/-- MOVI (09 R119). -/
def execMovi (_h : Hdr) (d : BitVec 6) (imm : BitVec 12) (s : State) : Res :=
  issue (.movi _h d imm) s fun c => simple c fun c =>
    forLanes c.g c.on fun g l => putV g d.toNat l (imm.signExtend 32)

/-- SEL (09 R115). -/
def execSel (_h : Hdr) (d a b : BitVec 6) (s : State) : Res :=
  issue (.sel _h d a b) s fun c => simple c fun c =>
    forLanes c.g c.on fun g l =>
      let y := getV c.r b.toNat l
      putV g d.toNat l ((getV c.r a.toNat l &&& y) ||| (getV c.r d.toNat l &&& ~~~y))

/-- SUB (09 R113). -/
def execSub (_h : Hdr) (sat w64 : Bool) (d a b : BitVec 6) (s : State) : Res :=
  issue (.sub _h sat w64 d a b) s fun c => simple c fun c =>
    laneW c w64 d a b fun n x y => intResult n sat (x.toInt - y.toInt)

/-- MUL (09 R113). -/
def execMul (_h : Hdr) (sat w64 : Bool) (d a b : BitVec 6) (s : State) : Res :=
  issue (.mul _h sat w64 d a b) s fun c => simple c fun c =>
    laneW c w64 d a b fun n x y => intResult n sat (x.toInt * y.toInt)

/-- MAD (09 R113): D is read as the addend. -/
def execMad (_h : Hdr) (sat w64 : Bool) (d a b : BitVec 6) (s : State) : Res :=
  issue (.mad _h sat w64 d a b) s fun c => simple c fun c =>
    forLanes c.g c.on fun g l =>
      if w64 then putV2 g d.toNat l (intResult 64 sat
        ((getV2 c.r a.toNat l).toInt * (getV2 c.r b.toNat l).toInt + (getV2 c.r d.toNat l).toInt))
      else putV g d.toNat l (intResult 32 sat
        ((getV c.r a.toNat l).toInt * (getV c.r b.toNat l).toInt + (getV c.r d.toNat l).toInt))

/-- MULH (09 R114). -/
def execMulh (_h : Hdr) (uns w64 : Bool) (d a b : BitVec 6) (s : State) : Res :=
  issue (.mulh _h uns w64 d a b) s fun c => simple c fun c => laneW c w64 d a b fun _ x y => mulHigh uns x y

/-- A lane function of A and B whose result is variable-latency (23 R300). -/
def laneLate (c : Ctx) (w64 : Bool) (d a b : BitVec 6) (f : (n : Nat) → BitVec n → BitVec n → BitVec n) : Group :=
  forLanes c.g c.on fun g l =>
    if w64 then lateVn g d.toNat l 2 (f 64 (getV2 c.r a.toNat l) (getV2 c.r b.toNat l)).toNat
    else lateV g d.toNat l (f 32 (getV c.r a.toNat l) (getV c.r b.toNat l))

/-- IDIV (09 R114). -/
def execIdiv (_h : Hdr) (uns w64 : Bool) (d a b : BitVec 6) (s : State) : Res :=
  issue (.idiv _h uns w64 d a b) s fun c => simple c fun c => laneLate c w64 d a b fun _ x y => quot uns x y

/-- IREM (09 R114). -/
def execIrem (_h : Hdr) (uns w64 : Bool) (d a b : BitVec 6) (s : State) : Res :=
  issue (.irem _h uns w64 d a b) s fun c => simple c fun c => laneLate c w64 d a b fun _ x y => rema uns x y

/-- MIN (09 R114). -/
def execMin (_h : Hdr) (uns w64 : Bool) (d a b : BitVec 6) (s : State) : Res :=
  issue (.min _h uns w64 d a b) s fun c => simple c fun c => laneW c w64 d a b fun _ x y => minInt uns x y

/-- MAX (09 R114). -/
def execMax (_h : Hdr) (uns w64 : Bool) (d a b : BitVec 6) (s : State) : Res :=
  issue (.max _h uns w64 d a b) s fun c => simple c fun c => laneW c w64 d a b fun _ x y => maxInt uns x y

/-- AND (09 R115). -/
def execAnd (_h : Hdr) (d a b : BitVec 6) (s : State) : Res :=
  issue (.and _h d a b) s fun c => simple c fun c => lane2 c d a b fun x y => x &&& y

/-- OR (09 R115). -/
def execOr (_h : Hdr) (d a b : BitVec 6) (s : State) : Res :=
  issue (.or _h d a b) s fun c => simple c fun c => lane2 c d a b fun x y => x ||| y

/-- XOR (09 R115). -/
def execXor (_h : Hdr) (d a b : BitVec 6) (s : State) : Res :=
  issue (.xor _h d a b) s fun c => simple c fun c => lane2 c d a b fun x y => x ^^^ y

/-- ANDN (09 R115). -/
def execAndn (_h : Hdr) (d a b : BitVec 6) (s : State) : Res :=
  issue (.andn _h d a b) s fun c => simple c fun c => lane2 c d a b fun x y => x &&& ~~~y

/-- BFX (09 R117). -/
def execBfx (_h : Hdr) (d a b : BitVec 6) (s : State) : Res :=
  issue (.bfx _h d a b) s fun c => simple c fun c => lane2 c d a b (bfExtract false)

/-- BFX.u (09 R117). -/
def execBfxU (_h : Hdr) (d a b : BitVec 6) (s : State) : Res :=
  issue (.bfxU _h d a b) s fun c => simple c fun c => lane2 c d a b (bfExtract true)

/-- BFI (09 R117). -/
def execBfi (_h : Hdr) (d a b : BitVec 6) (s : State) : Res :=
  issue (.bfi _h d a b) s fun c => simple c fun c =>
    forLanes c.g c.on fun g l =>
      putV g d.toNat l (bfInsert (getV c.r d.toNat l) (getV c.r a.toNat l) (getV c.r b.toNat l))

/-- MOV (09 R118). -/
def execMov (_h : Hdr) (d a : BitVec 6) (s : State) : Res :=
  issue (.mov _h d a) s fun c => simple c fun c => lane1 c d a id

/-- POPC (09 R118). -/
def execPopc (_h : Hdr) (d a : BitVec 6) (s : State) : Res :=
  issue (.popc _h d a) s fun c => simple c fun c => lane1 c d a fun x => BitVec.ofNat 32 (popCount x)

/-- CLZ (09 R118). -/
def execClz (_h : Hdr) (d a : BitVec 6) (s : State) : Res :=
  issue (.clz _h d a) s fun c => simple c fun c => lane1 c d a fun x => BitVec.ofNat 32 (leadZeros x)

/-- CTZ (09 R118). -/
def execCtz (_h : Hdr) (d a : BitVec 6) (s : State) : Res :=
  issue (.ctz _h d a) s fun c => simple c fun c => lane1 c d a fun x => BitVec.ofNat 32 (trailZeros x)

/-- BREV (09 R118). -/
def execBrev (_h : Hdr) (d a : BitVec 6) (s : State) : Res :=
  issue (.brev _h d a) s fun c => simple c fun c => lane1 c d a revBits

/-- ABS (09 R118). -/
def execAbs (_h : Hdr) (d a : BitVec 6) (s : State) : Res :=
  issue (.abs _h d a) s fun c => simple c fun c => lane1 c d a (absInt false)

/-- ABS.sat (09 R118). -/
def execAbsSat (_h : Hdr) (d a : BitVec 6) (s : State) : Res :=
  issue (.absSat _h d a) s fun c => simple c fun c => lane1 c d a (absInt true)

/-- A count of a 64-bit operand into one register. -/
def laneCount (c : Ctx) (d a : BitVec 6) (f : W64 → Nat) : Group :=
  forLanes c.g c.on fun g l => putV g d.toNat l (BitVec.ofNat 32 (f (getV2 c.r a.toNat l)))

/-- MOV.64 (09 R118). -/
def execMov64 (_h : Hdr) (d a : BitVec 6) (s : State) : Res :=
  issue (.mov64 _h d a) s fun c => simple c fun c => lane1w c d a id

/-- POPC.64 (09 R118). -/
def execPopc64 (_h : Hdr) (d a : BitVec 6) (s : State) : Res :=
  issue (.popc64 _h d a) s fun c => simple c fun c => laneCount c d a popCount

/-- CLZ.64 (09 R118). -/
def execClz64 (_h : Hdr) (d a : BitVec 6) (s : State) : Res :=
  issue (.clz64 _h d a) s fun c => simple c fun c => laneCount c d a leadZeros

/-- CTZ.64 (09 R118). -/
def execCtz64 (_h : Hdr) (d a : BitVec 6) (s : State) : Res :=
  issue (.ctz64 _h d a) s fun c => simple c fun c => laneCount c d a trailZeros

/-- BREV.64 (09 R118). -/
def execBrev64 (_h : Hdr) (d a : BitVec 6) (s : State) : Res :=
  issue (.brev64 _h d a) s fun c => simple c fun c => lane1w c d a revBits

/-- ABS.64 (09 R118). -/
def execAbs64 (_h : Hdr) (d a : BitVec 6) (s : State) : Res :=
  issue (.abs64 _h d a) s fun c => simple c fun c => lane1w c d a (absInt false)

/-- ABS.sat.64 (09 R118). -/
def execAbsSat64 (_h : Hdr) (d a : BitVec 6) (s : State) : Res :=
  issue (.absSat64 _h d a) s fun c => simple c fun c => lane1w c d a (absInt true)

/-- SHL (09 R116). -/
def execShl (_h : Hdr) (w64 : Bool) (d a b : BitVec 6) (s : State) : Res :=
  issue (.shl _h w64 d a b) s fun c => simple c fun c => laneShift c w64 d a b fun _ => shiftL

/-- SHR (09 R116). -/
def execShr (_h : Hdr) (w64 : Bool) (d a b : BitVec 6) (s : State) : Res :=
  issue (.shr _h w64 d a b) s fun c => simple c fun c => laneShift c w64 d a b fun _ => shiftR

/-- SAR (09 R116). -/
def execSar (_h : Hdr) (w64 : Bool) (d a b : BitVec 6) (s : State) : Res :=
  issue (.sar _h w64 d a b) s fun c => simple c fun c => laneShift c w64 d a b fun _ => shiftA

/-- ROL (09 R116). -/
def execRol (_h : Hdr) (d a b : BitVec 6) (s : State) : Res :=
  issue (.rol _h d a b) s fun c => simple c fun c => laneShift c false d a b fun _ => rotL

/-- SHL by an immediate (09 R116). -/
def execShlImm (_h : Hdr) (w64 : Bool) (d a amt : BitVec 6) (s : State) : Res :=
  issue (.shlImm _h w64 d a amt) s fun c => simple c fun c => laneShiftImm c w64 d a amt fun _ => shiftL

/-- SHR by an immediate (09 R116). -/
def execShrImm (_h : Hdr) (w64 : Bool) (d a amt : BitVec 6) (s : State) : Res :=
  issue (.shrImm _h w64 d a amt) s fun c => simple c fun c => laneShiftImm c w64 d a amt fun _ => shiftR

/-- SAR by an immediate (09 R116). -/
def execSarImm (_h : Hdr) (w64 : Bool) (d a amt : BitVec 6) (s : State) : Res :=
  issue (.sarImm _h w64 d a amt) s fun c => simple c fun c => laneShiftImm c w64 d a amt fun _ => shiftA

/-- ROL by an immediate (09 R116). -/
def execRolImm (_h : Hdr) (w64 : Bool) (d a amt : BitVec 6) (s : State) : Res :=
  issue (.rolImm _h w64 d a amt) s fun c => simple c fun c => laneShiftImm c w64 d a amt fun _ => rotL

/-- LDI (09 R119). -/
def execLdi (_h : Hdr) (d : BitVec 6) (imm : BitVec 32) (s : State) : Res :=
  issue (.ldi _h d imm) s fun c => simple c fun c => forLanes c.g c.on fun g l => putV g d.toNat l imm

/-- ISETP (09 R110). -/
def execIsetp (_h : Hdr) (w64 : Bool) (cc : IntCond) (d : BitVec 3) (a b : BitVec 6) (s : State) : Res :=
  issue (.isetp _h w64 cc d a b) s fun c => simple c fun c =>
    forLanes c.g c.on fun g l => putP g d.toNat l
      (if w64 then intCond cc (getV2 c.r a.toNat l) (getV2 c.r b.toNat l)
       else intCond cc (getV c.r a.toNat l) (getV c.r b.toNat l))

/-- A lane function of two predicates (09 R111). -/
def lanePred (c : Ctx) (d a b : BitVec 3) (f : Bool → Bool → Bool) : Group :=
  forLanes c.g c.on fun g l => putP g d.toNat l (f (getPl c.r a.toNat l) (getPl c.r b.toNat l))

/-- PAND (09 R111). -/
def execPand (_h : Hdr) (d a b : BitVec 3) (s : State) : Res :=
  issue (.pand _h d a b) s fun c => simple c fun c => lanePred c d a b (· && ·)

/-- POR (09 R111). -/
def execPor (_h : Hdr) (d a b : BitVec 3) (s : State) : Res :=
  issue (.por _h d a b) s fun c => simple c fun c => lanePred c d a b (· || ·)

/-- PXOR (09 R111). -/
def execPxor (_h : Hdr) (d a b : BitVec 3) (s : State) : Res :=
  issue (.pxor _h d a b) s fun c => simple c fun c => lanePred c d a b (· != ·)

/-- SELP (09 R111). -/
def execSelp (_h : Hdr) (d a : BitVec 6) (b : BitVec 3) (s : State) : Res :=
  issue (.selp _h d a b) s fun c => simple c fun c =>
    forLanes c.g c.on fun g l => if getPl c.r b.toNat l then putV g d.toNat l (getV c.r a.toNat l) else g

end Sys2Proof.Machine
end

