-- ==== Sys2Proof/Machine/Lanes.lean ====
section
/-! DEFINITION. Cross-lane instructions (11 R146 to R150; 07 R97). -/

namespace Sys2Proof.Machine

/-- A shuffle: each active lane takes A of source lane `j`, or its own A where no such lane exists (11 R147). -/
def shuffle (c : Ctx) (d a : BitVec 6) (j : Nat → Int) : Group :=
  forLanes c.g c.on fun g l =>
    let k := j l
    putV g d.toNat l (if 0 ≤ k ∧ k < c.g.w then getV c.r a.toNat k.toNat else getV c.r a.toNat l)

/-- SHFL.idx (11 R147). -/
def execShflIdx (_h : Hdr) (d a b : BitVec 6) (s : State) : Res :=
  issue (.shflIdx _h d a b) s fun c => simple c fun c =>
    shuffle c d a fun l => ((getV c.r b.toNat l).toNat : Int)

/-- SHFL.idx with an immediate (11 R147). -/
def execShflIdxImm (_h : Hdr) (d a imm : BitVec 6) (s : State) : Res :=
  issue (.shflIdxImm _h d a imm) s fun c => simple c fun c =>
    shuffle c d a fun _ => (imm.toNat : Int)

/-- SHFL.up (11 R147). -/
def execShflUp (_h : Hdr) (d a b : BitVec 6) (s : State) : Res :=
  issue (.shflUp _h d a b) s fun c => simple c fun c =>
    shuffle c d a fun l => let b := (getV c.r b.toNat l).toNat; (l : Int) - b

/-- SHFL.up with an immediate (11 R147). -/
def execShflUpImm (_h : Hdr) (d a imm : BitVec 6) (s : State) : Res :=
  issue (.shflUpImm _h d a imm) s fun c => simple c fun c =>
    shuffle c d a fun l => let b := imm.toNat; (l : Int) - b

/-- SHFL.down (11 R147). -/
def execShflDown (_h : Hdr) (d a b : BitVec 6) (s : State) : Res :=
  issue (.shflDown _h d a b) s fun c => simple c fun c =>
    shuffle c d a fun l => let b := (getV c.r b.toNat l).toNat; (l : Int) + b

/-- SHFL.down with an immediate (11 R147). -/
def execShflDownImm (_h : Hdr) (d a imm : BitVec 6) (s : State) : Res :=
  issue (.shflDownImm _h d a imm) s fun c => simple c fun c =>
    shuffle c d a fun l => let b := imm.toNat; (l : Int) + b

/-- SHFL.xor (11 R147). -/
def execShflXor (_h : Hdr) (d a b : BitVec 6) (s : State) : Res :=
  issue (.shflXor _h d a b) s fun c => simple c fun c =>
    shuffle c d a fun l => let b := (getV c.r b.toNat l).toNat; ((l ^^^ b : Nat) : Int)

/-- SHFL.xor with an immediate (11 R147). -/
def execShflXorImm (_h : Hdr) (d a imm : BitVec 6) (s : State) : Res :=
  issue (.shflXorImm _h d a imm) s fun c => simple c fun c =>
    shuffle c d a fun l => let b := imm.toNat; ((l ^^^ b : Nat) : Int)

/-- The active lanes in which a predicate is true. -/
def ballot (c : Ctx) (a : BitVec 3) : W64 := getP c.r a.toNat &&& c.on

/-- VOTE.all (11 R148). -/
def execVoteAll (_h : Hdr) (d a : BitVec 3) (s : State) : Res :=
  issue (.voteAll _h d a) s fun c => simple c fun c =>
    forLanes c.g c.on fun g l => putP g d.toNat l ((lanesOf c.g.w c.on).all fun m => getPl c.r a.toNat m)

/-- VOTE.any (11 R148). -/
def execVoteAny (_h : Hdr) (d a : BitVec 3) (s : State) : Res :=
  issue (.voteAny _h d a) s fun c => simple c fun c =>
    forLanes c.g c.on fun g l => putP g d.toNat l ((lanesOf c.g.w c.on).any fun m => getPl c.r a.toNat m)

/-- VOTE.bal (11 R148). -/
def execVoteBal (_h : Hdr) (d : BitVec 6) (a : BitVec 3) (s : State) : Res :=
  issue (.voteBal _h d a) s fun c => simple c fun c => forLanes c.g c.on fun g l => putV2 g d.toNat l (ballot c a)

/-- MATCH (11 R149). -/
def execMatchLanes (_h : Hdr) (d a : BitVec 6) (s : State) : Res :=
  issue (.matchLanes _h d a) s fun c => simple c fun c =>
    forLanes c.g c.on fun g l =>
      putV2 g d.toNat l (maskOf ((lanesOf c.g.w c.on).filter fun m => getV c.r a.toNat m == getV c.r a.toNat l))

/-- ELECT (11 R148). -/
def execElect (_h : Hdr) (d : BitVec 3) (s : State) : Res :=
  issue (.elect _h d) s fun c => simple c fun c =>
    forLanes c.g c.on fun g l => putP g d.toNat l (lowestLane c.g.w c.on == some l)

/-- One level of the pairwise tree (07 R97). -/
def treeLevel (f : Nat → Nat → Nat) : List (Option Nat) → List (Option Nat)
  | a :: b :: r =>
    (match a, b with
      | some x, some y => some (f x y)
      | some x, none => some x
      | none, y => y) :: treeLevel f r
  | r => r

/-- The pairwise tree over W lanes: `n` levels (07 R97). -/
def treeFold (f : Nat → Nat → Nat) : Nat → List (Option Nat) → Option Nat
  | 0, l => l.headD none
  | n + 1, l => treeFold f n (treeLevel f l)

/-- The float type of a RED or SCAN. -/
def redFTy : RedTy → FTy
  | .f16x2 => .f16x2
  | .bf16x2 => .bf16x2
  | _ => .f32

/-- Two lanes' float values combined (11 R150). -/
def redFlt (r : Group) (t : RedTy) (f : FVal → FVal → FVal) (x y : Nat) : Nat :=
  perElem (redFTy t) (arith r (redFTy t) (dynMode r) fun a b _ => f a b) x y x

/-- A lane's value as RED and SCAN take it (07 R92, R93, R97): a float input that R92 flushes reads as zero and a NaN is the canonical one,
in a lane that stands alone too (assumption 68). -/
def redIn (r : Group) (fn : RedFn) (x : Nat) : Nat :=
  let flt := fun (t : RedTy) => match t with | .s32 => x | .u32 => x | t => redFlt r t (fun a _ => a) x x
  match fn with
  | .add t => flt t
  | .min t => flt t
  | .max t => flt t
  | _ => x

/-- What RED and SCAN combine two lanes by (11 R150). -/
def redOp (r : Group) (fn : RedFn) (x y : Nat) : Nat :=
  let w := fun (n : Nat) => BitVec.ofNat 32 n
  match fn with
  | .and => x &&& y
  | .or => x ||| y
  | .xor => x ^^^ y
  | .add .s32 => (x + y) % 2 ^ 32
  | .add .u32 => (x + y) % 2 ^ 32
  | .add t => redFlt r t (addF (dynMode r)) x y
  | .min .s32 => (minInt false (w x) (w y)).toNat
  | .min .u32 => (minInt true (w x) (w y)).toNat
  | .min t => redFlt r t (minmaxF false) x y
  | .max .s32 => (maxInt false (w x) (w y)).toNat
  | .max .u32 => (maxInt true (w x) (w y)).toNat
  | .max t => redFlt r t (minmaxF true) x y

/-- The combination over the lanes of a mask; an empty set gives 0 (11 R150). -/
def combine (c : Ctx) (a : BitVec 6) (fn : RedFn) (m : W64) : W32 :=
  let xs := (List.range c.g.w).map fun l => if m.getLsbD l then some (redIn c.r fn (getV c.r a.toNat l).toNat) else none
  BitVec.ofNat 32 ((treeFold (redOp c.r fn) 6 xs).getD 0)

/-- RED (11 R150). -/
def execRed (_h : Hdr) (d a : BitVec 6) (fn : RedFn) (s : State) : Res :=
  issue (.red _h d a fn) s fun c => simple c fun c =>
    forLanes c.g c.on fun g l => lateV g d.toNat l (combine c a fn c.on)

/-- SCAN (11 R150). -/
def execScan (_h : Hdr) (d a : BitVec 6) (k : ScanCode) (s : State) : Res :=
  issue (.scan _h d a k) s fun c => simple c fun c =>
    forLanes c.g c.on fun g l =>
      lateV g d.toNat l (combine c a k.fn (c.on &&& fullMask (if k.excl then l else l + 1)))

end Sys2Proof.Machine
end

