-- ==== Sys2Proof/Machine/Schedule.lean ====
section
/-! DEFINITION. Device steps of scheduling: candidates and their order, placement, reservation, steals and timers (21 R277 to
R290; 03 R45), notify writes and completion records (21 R268, R270), gang messages and timeouts (21 R297; 25 R332). -/

namespace Sys2Proof.Machine

/-- A candidate of a pair (21 R279): its code (rod r is r, grid id is 64 + 2 id, a yielded group 65 + 2 gid), effective level,
key, and place among equals: rods before teams, then the lower rod or the earlier grid. -/
structure Cand where
  code : Nat
  level : Nat
  key : Nat
  cls : Nat
  idx : Nat
deriving DecidableEq, Repr

/-- Effective level of a candidate that has waited since `since` (21 R279). -/
def effLevel (s : State) (level since : Nat) : Nat := min 7 (level + (s.now - since) / 16384)

/-- A rod as a candidate. -/
def rodCand (s : State) (p r : Nat) : Cand :=
  let x := getRod s p r
  ⟨r, effLevel s x.cfg.prio (x.candAt.getD s.now), min ((x.beads.head?.map (·.deadline.toNat)).getD 0) (x.readyAt + 65536), 0, r⟩

/-- The next team of a grid as a candidate. -/
def gridCand (s : State) (x : Grid) : Cand := ⟨64 + 2 * x.id, effLevel s x.lrec.prio x.candAt, x.key, 1, x.id⟩

/-- A group saved by YIELD as a candidate of its pair (21 R290). -/
def yieldCand (s : State) (g : Group) (sl : SliceInfo) (since : Nat) : Cand :=
  ⟨65 + 2 * g.gid, effLevel s (getRod s sl.pair sl.rod).cfg.prio since, g.deadline.toNat, 2, g.gid⟩

/-- The grid still has a team to start, and its context takes work (21 R277, R294). -/
def gridOpen (s : State) (x : Grid) : Bool :=
  !x.held && x.next < gridTeams x.lrec && ctxState s x.lrec.pasid == 0

/-- The candidates of a pair that could start now (21 R279). -/
def candidates (s : State) (p : Nat) : List Cand :=
  ((List.range 64).filter fun r => canStrike s p r).map (rodCand s p) ++
    ((s.grids.filter fun x => gridOpen s x && (teamFit s p x.lrec).isSome).map (gridCand s)) ++
    s.groups.filterMap fun g =>
      match g.res, g.slice with
      | .savedYield _ t, some sl =>
        if sl.pair == p && mayRestore s g.pasid && restoreRoom s g g.core then some (yieldCand s g sl t) else none
      | _, _ => none

/-- `a` ranks ahead of `b` (21 R279). -/
def ahead (a b : Cand) : Bool :=
  b.level < a.level || (a.level == b.level &&
    (a.key < b.key || (a.key == b.key && (a.cls < b.cls || (a.cls == b.cls && a.idx < b.idx)))))

/-- A team has been a candidate at effective level 7 for 65,536 ns (21 R279). -/
def waitedLong (s : State) (x : Grid) : Bool := x.candAt + (7 - x.lrec.prio) * 16384 + 65536 ≤ s.now

/-- The next team of a grid reserves a pair: it has waited long, and could fit there if the pair were empty (21 R279). -/
def reserves (s : State) (p : Nat) (x : Grid) : Bool := gridOpen s x && waitedLong s x && couldFit s p x.lrec

/-- A candidate that a reservation of the pair keeps from starting: a held gang grid keeps every one, a team that has waited long those
that rank after it (21 R279, R297). -/
def candBlocked (s : State) (p : Nat) (c : Cand) : Bool :=
  s.grids.any fun x =>
    x.held && s.resvd.contains (p, x.id) || reserves s p x && c.code != 64 + 2 * x.id && ahead (gridCand s x) c

/-- The candidate a pair chooses (21 R279). -/
def chosen (s : State) (p : Nat) : Option Cand :=
  ((candidates s p).filter fun c => !candBlocked s p c).foldl (fun (best : Option Cand) c =>
    match best with
    | none => some c
    | some b => if ahead c b then some c else some b) none

/-- Start a candidate on a pair (21 R277, R278, R287, R290). -/
def startCand (s : State) (p : Nat) (c : Cand) : State :=
  if c.cls = 0 then strike s p c.idx
  else if c.cls = 1 then
    match s.grids.find? fun (x : Grid) => x.id == c.idx with
    | some x =>
      match teamFit s p x.lrec with
      | some (cores, vbase) => startTeam s x cores vbase
      | none => s
    | none => s
  else
    match getGroup s c.idx with
    | some g => restoreOn s g g.core
    | none => s

/-- PLACEMENT_CHOICE (21 R279): the pair starts the candidate it chooses. -/
def execPlacementChoice (pair cand : Nat) (s : State) : Res :=
  .next (match (if pair < 32 then chosen s pair else none) with
    | some c => if c.code = cand then startCand s pair c else s
    | none => s)

/-- CANDIDATE_RESERVATION (21 R279): the pair notes a team that reserves it. -/
def execCandidateReservation (pair cand : Nat) (s : State) : Res :=
  .next (match s.grids.find? fun (x : Grid) => 64 + 2 * x.id == cand with
    | some x =>
      if pair < 32 && reserves s pair x && !s.resvd.contains (pair, x.id) then
        { s with resvd := s.resvd ++ [(pair, x.id)] }
      else s
    | none => s)

/-- What the groups of a team have left buffered or posted in their cores is performed: the update that a grid's completion makes is a
release (21 R293). Answers the largest stamp. -/
def drainTeam (s : State) (t : Team) : State × Nat :=
  t.cores.foldl (fun (x : State × Nat) core =>
    let (s, ws) := drainCore x.1 core
    (drainVault s core s.accs.length 0, max x.2 ws)) (s, 0)

/-- TEAM_RESOURCE_RELEASE (03 R45; 21 R277, R293); the stores of a grid's team come first, once no bias command holds them (25 R324), and
their stamps count as the lt of its groups, which they would have raised. -/
def execTeamResourceRelease (team : Nat) (s : State) : Res :=
  .next (match getTeam s team with
    | some t =>
      if !t.ended || !teamIdle s team then s
      else if t.grid.isNone then releaseTeam s t
      else if t.cores.any (relHeld s) then s
      else
        let (s, ws) := drainTeam s t
        releaseTeam s { t with stamp := max t.stamp ws }
    | none => s)

/-- ROD_TIMER (21 R285): a FILLING rod whose timer has run becomes READY. -/
def execRodTimer (pair rod : Nat) (s : State) : Res :=
  .next (let x := getRod s pair rod
    if x.st = .filling ∧ timerDone x then putRod s pair rod (ready s pair x) else s)

/-- A pair at its steal tick: with a free slot and no candidate for it, it tries one steal (21 R288). -/
def stealTry (s : State) (p : Nat) : State :=
  let s := { s with stealDone := p :: s.stealDone.filter (· != p) }
  if (!(freeSlots s (2 * p)).isEmpty || !(freeSlots s (2 * p + 1)).isEmpty) && (chosen s p).isNone then steal s p else s

/-- The steal ticks of a pair in the first `n` cycles of its D-core's D-clock: one every 1,024, at the phase that device reset has fixed
(21 R288; assumption 64). -/
def stealTicks (s : State) (p n : Nat) : Nat := (n + 1023 - Config.stealPhase s.stealSeed p % 1024) / 1024

/-- A steal tick of a pair falls in this cycle and has not been taken (21 R288). -/
def stealDue (s : State) (p : Nat) : Bool :=
  let n := mapGet 0 s.stealCyc p
  p < 32 && !s.stealDone.contains p && stealTicks s p n < stealTicks s p (n + 1)

/-- STEAL_TICK (21 R288). -/
def execStealTick (pair : Nat) (s : State) : Res := .next (if stealDue s pair then stealTry s pair else s)

/-- `n` cycles of the D-clock of a pair's D-core (21 R285, R288): the timers of its rods run; every steal tick that falls before the last of
these cycles is taken, one that has not been yet at the outset. -/
def dclockStep (s : State) (p n : Nat) : State :=
  if 32 ≤ p || gated s (kindCore p false) || n == 0 then s
  else
    let s := if stealDue s p then stealTry s p else s
    let c := mapGet 0 s.stealCyc p
    let s := dclockGo { s with stealCyc := mapPut 0 s.stealCyc p (c + n), stealDone := s.stealDone.filter (· != p) } p n
    let s := (List.range (stealTicks s p (c + n) - stealTicks s p (c + 1))).foldl (fun s _ => stealTry s p) s
    { s with stealDone := s.stealDone.filter (· != p) }

/-- NOTIFY_WRITE (21 R268; 25 R317): a write of the lowest bytes to a page of a function's BAR0 carries the lt of the function's
port. -/
def execNotifyWrite (func : BitVec 2) (off : BitVec 20) (bytes : BitVec 4) (val : BitVec 64) (s : State) : Res :=
  .next (notify s func.toNat off.toNat bytes.toNat val.toNat (mapGet 0 s.portLt (func.toNat / 2)))

/-- COMPLETION_RECORD_WRITE (21 R270; 25 R320): the `k`-th waiting record, or past those the records QDONEs wait to write. -/
def execCompletionRecordWrite (k : Nat) (s : State) : Res :=
  .next (qdoneGo (complStep s k))

/-- GANG_PREPARE_MSG (25 R332). -/
def execGangPrepareMsg (gid : BitVec 32) (leader : BitVec 20) (timeout : BitVec 32) (s : State) : Res :=
  .next (memberPrepare s gid leader timeout)

/-- GANG_COMMIT_MSG (25 R332). -/
def execGangCommitMsg (gid : BitVec 32) (leader : BitVec 20) (s : State) : Res := .next (memberCommit s gid leader)

/-- GANG_CLOSE_MSG (25 R332). -/
def execGangCloseMsg (gid : BitVec 32) (leader : BitVec 20) (s : State) : Res := .next (memberClose s gid leader)

/-- GANG_BREAK_MSG (25 R332). -/
def execGangBreakMsg (gid : BitVec 32) (leader : BitVec 20) (s : State) : Res :=
  .next (match memberFind s gid leader with
    | some k => memberBreak s k
    | none => s)

/-- GANG_MEMBER_TIMEOUT (25 R332). -/
def execGangMemberTimeout (k : Nat) (s : State) : Res := .next (memberExpire s k)

/-- GANG_ROUTE_FAIL (25 R332). -/
def execGangRouteFail (dev : BitVec 20) (s : State) : Res := .next (memberRouteFail s dev)

/-- GANG_REPLY (21 R297; 25 R332). -/
def execGangReply (gid : BitVec 32) (dev : BitVec 20) (ack : Bool) (s : State) : Res := .next (gangAnswer s gid dev ack)

/-- GANG_LEADER_TIMEOUT (21 R297; 25 R332). -/
def execGangLeaderTimeout (k : Nat) (s : State) : Res := .next (gangExpire s k)

end Sys2Proof.Machine
end

