-- ==== Sys2Proof/Machine/Platform.lean ====
section
/-! DEFINITION. Device steps of the platform: commands and registers (00 R9; 25 R319, R324, R325; 31 R360), the mailbox (31 R361 to
R363), debug, trace and skew (29 R347 to R354), errors (31 R365 to R368), power (31 R369, R370), reset and bring-up (31 R364, R371,
R372). -/

namespace Sys2Proof.Machine

/-- REGISTER_WRITE (00 R9; 31 R360): eight bytes at an offset of the window. -/
def execRegisterWrite (off : BitVec 24) (val : BitVec 64) (s : State) : Res :=
  .next (if off.toNat % 8 = 0 then sysWrite s off.toNat val else s)

/-- FRING_WRITE (17 R225). -/
def execFringWrite (c : BitVec 2) (val : BitVec 64) (s : State) : Res := .next (sysWrite s (offFring c.toNat) val)

/-- REVOKE (25 R319). -/
def execRevoke (pasid : BitVec 20) (fmask : BitVec 4) (s : State) : Res :=
  .next (sysWrite s offRevoke (BitVec.ofNat 64 (pasid.toNat * 2 ^ 44 + fmask.toNat * 2 ^ 40 + 1)))

/-- REVOKE_EFFECT (25 R319): FMASK is cleared in the PASID's byte of the map. -/
def execRevokeEffect (s : State) : Res :=
  .next (match s.revoking with
    | none => s
    | some (pasid, m) =>
      let a := regField s offPamap 63 20 * 2 ^ 20 + pasid.toNat
      if biasHeld s (lineOf a) then s
      else
        let (s, _) := physStore s 0 a 1 (BitVec.ofNat 8 (memRead s 0 a 1) &&& ~~~(m.setWidth 8)).toNat 0
        commandEnd { s with revoking := none })

/-- A command of BIASCMD; while one runs it waits (25 R324). -/
def biasCommand (s : State) (pa : W64) (pages : BitVec 24) (dir : Nat) : State :=
  let v : W64 := BitVec.ofNat 64 (pages.toNat * 2 ^ 40 + dir * 2 + 1)
  if regWaits s offBiascmd v then s else writeReg (writeReg s offBiaspa pa) offBiascmd v

/-- BIAS_TO_HOST (25 R324). -/
def execBiasToHost (pa : BitVec 64) (pages : BitVec 24) (s : State) : Res := .next (biasCommand s pa pages 1)

/-- BIAS_TO_DEVICE (25 R324). -/
def execBiasToDevice (pa : BitVec 64) (pages : BitVec 24) (s : State) : Res := .next (biasCommand s pa pages 0)

/-- BIAS_COMMAND_COMPLETE (25 R324). -/
def execBiasCommandComplete (s : State) : Res :=
  .next (if s.biasRun.isSome then preparesGo (biasEnd s) s.biasQ else s)

/-- IRTSYNC (25 R325). -/
def execIrtsync (intf : BitVec 8) (vec : BitVec 5) (s : State) : Res :=
  .next (sysWrite s offIrtsync (BitVec.ofNat 64 (intf.toNat + vec.toNat * 2 ^ 8)))

/-- A request waits in the mailbox: its address (31 R361). -/
def mboxReq (s : State) : Option Nat :=
  if (regGet s offMbox).getLsbD 0 then some (64 * regField s offMbox 63 6) else none

/-- The answer to a request: its status, and DONE (31 R361). A request inside the root region gets no bytes. -/
def mboxAnswer (s : State) (req status : Nat) : State :=
  let s := if inRoot req then s else (physStore s 0 (req + 2) 2 status 0).1
  commandEnd (regSet s offMbox (regGet s offMbox &&& ~~~1#64))

/-- The mailbox answers the request at `req`, once no bias command holds it (25 R324): command `cmd` by `f`, no command at all with status 2 (31 R361). -/
def withMbox (s : State) (req : W64) (cmd : Nat) (f : State → Nat → State) : State :=
  match mboxReq s with
  | none => s
  | some a =>
    let c := memRead s 0 a 1
    if a != req.toNat || wordsHeld s a 40 then s
    else if c = cmd then f s a
    else if c = 0 ∨ 4 < c then mboxAnswer s a 2
    else s

/-- PASID of a request (31 R361). -/
def mboxPasid (s : State) (a : Nat) : BitVec 20 := BitVec.ofNat 20 (memRead s 0 (a + 4) 4)

/-- KEYNEW (31 R361): the lowest free slot takes a fresh key and its owner. -/
def execKeynew (req : BitVec 64) (s : State) : Res :=
  .next (withMbox s req 1 fun s a =>
    match (List.range 8191).find? fun k => mapGet 0 s.keyGen (k + 1) = 0 with
    | none => mboxAnswer s a 1
    | some k =>
      let s := { s with keys := s.keys + 1, keyGen := mapPut 0 s.keyGen (k + 1) (s.keys + 1)
                        keyOwner := mapPut 0 s.keyOwner (k + 1) (mboxPasid s a) }
      mboxAnswer (devWriteWords s 0 (a + 40) [k + 1, 0, 0]).1 a 0)

/-- A descriptor or an FKEY names a key slot (31 R361): descriptors are found by the listed bytes of their table. -/
def slotNamed (s : State) (k : Nat) : Bool :=
  ((List.range 4).any fun f => regField s (offFkey f) 12 0 == k) ||
    let b := (regGet s offAsd).toNat
    (s.mem.filter fun c => b ≤ c.1 && c.1 < b + 2 ^ 26).any fun c =>
      bits (asdWord s (BitVec.ofNat 20 ((c.1 - b) / 64)) 0) 45 33 == k

/-- KEYFREE (31 R361). -/
def execKeyfree (req : BitVec 64) (s : State) : Res :=
  .next (withMbox s req 2 fun s a =>
    let k := memRead s 0 (a + 8) 8
    if k = 0 ∨ 8191 < k ∨ slotNamed s k then mboxAnswer s a 1
    else mboxAnswer { s with keyGen := mapPut 0 s.keyGen k 0, keyOwner := mapPut 0 s.keyOwner k 0 } a 0)

/-- ASDSET (31 R361): the image's first half is in bytes 8 to 39, the second at REQ + 64. -/
def execAsdset (req : BitVec 64) (s : State) : Res :=
  .next (withMbox s req 3 fun s a =>
    let img := memReadWords s 0 (a + 8) 4 ++ memReadWords s 0 (a + 64) 4
    let pasid := mboxPasid s a
    let k := bits (img.getD 0 0) 45 33
    if (k != 0 && (mapGet 0 s.keyGen k == 0 || mapGet 0 s.keyOwner k != pasid)) || inRoot (img.getD 7 0) then mboxAnswer s a 1
    else if wordsHeld s (asdAddr s pasid) 8 then s
    else mboxAnswer (devWriteWords s 0 (asdAddr s pasid) img).1 a 0)

/-- Bytes 0 to 191 of an attestation report as one number (31 R363). -/
def attestBody (s : State) (nonce : Nat) : Nat :=
  0xA17D0001 + devid s * 2 ^ 32 + incn s * 2 ^ 64 + (Config.ownTag.toNat / 256 + Config.ownTag.toNat % 256 * 256) * 2 ^ 96 +
    (bitNat s.dbgSeen + 2 * bitNat (4 ≤ s.bootStep)) * 2 ^ 112 + nonce % 2 ^ 256 * 2 ^ 128 + s.rootHash.toNat * 2 ^ 384 +
    s.svcHash.toNat * 2 ^ 896 + s.svcSv % 2 ^ 32 * 2 ^ 1408

/-- The bytes of a number, the first lowest. -/
def bytesOf (n v : Nat) : List Byte := (List.range n).map fun i => BitVec.ofNat 8 (v / 2 ^ (8 * i))

/-- ATTEST (31 R361, R363). -/
def execAttest (req : BitVec 64) (s : State) : Res :=
  .next (withMbox s req 4 fun s a =>
    let body := attestBody s (wordsVal (memReadWords s 0 (a + 8) 4))
    let sig := Config.sign (Config.sha512 (bytesOf 192 body))
    mboxAnswer (devWriteWords s 0 (a + 64) (valWords (body + sig.toNat * 2 ^ 1536) 32)).1 a 0)

/-- ASYNC_HALT (29 R344, R347): a write of 1 to HALT of a slot. -/
def execAsyncHalt (slot : BitVec 2) (s : State) : Res :=
  .next (sysWrite s (offDbgatt slot.toNat) (regGet s (offDbgatt slot.toNat) ||| 4))

/-- The entry a group stops in: the last that issued, else the lowest in use. -/
def stopEntry (g : Group) : Nat :=
  (((List.range 16).find? fun e => (entAt g e).v && (entAt g e).last == g.last).or
    ((List.range 16).find? fun e => (entAt g e).v)).getD 0

/-- GROUP_STOP (29 R347, R348): a stop goes on once its loads and results have come; a group that is to halt stops between instructions
once 10,000 cycles have passed; an entry that is MIGRATING stands inside its EQP. -/
def execGroupStop (gid : Nat) (s : State) : Res :=
  .next (match runningGroup s gid with
    | some g =>
      if g.stopReq.isSome then stopNow s g g
      else if g.halt && 10000 ≤ g.haltCyc && (migEntry g).isNone then stopAt s g (entAt g (stopEntry g)).act 3 else s
    | none => s)

/-- STOP_RECORD_WRITE (29 R348): the oldest waiting record of a slot, once its ring has room. -/
def execStopRecordWrite (slot : BitVec 2) (s : State) : Res :=
  let k := slot.toNat
  .next (match s.stopQ.find? fun q => q.1 == k with
    | some q => if stopRoom s k then writeStop { s with stopQ := s.stopQ.erase q } k q.2 else s
    | none => s)

/-- A debug access with a selector (29 R350): bits of `sel` outside `clr`, with `set` and GO. -/
def daccWith (s : State) (sel clr set : W64) : State := sysWrite s offDacc ((sel &&& ~~~ clr) ||| set ||| 1)

/-- DACC_READ (29 R350). -/
def execDaccRead (sel : BitVec 64) (s : State) : Res := .next (daccWith s sel 2 0)

/-- DACC_WRITE (29 R350). -/
def execDaccWrite (sel : BitVec 64) (val : BitVec 64) (s : State) : Res :=
  .next (daccWith (sysWrite s offDdata val) sel 2 2)

/-- DACC_RESUME (29 R350): command 0. -/
def execDaccResume (sel : BitVec 64) (val : BitVec 64) (s : State) : Res :=
  .next (daccWith (sysWrite s offDdata val) sel (span 41 30 ||| span 51 48) (span 51 48))

/-- DACC_END (29 R350): command 1. -/
def execDaccEnd (sel : BitVec 64) (s : State) : Res :=
  .next (daccWith s sel (span 41 30 ||| span 51 48) (span 51 48 ||| span 30 30))

/-- TRACE_ENABLE (29 R351): TRCTL of a core, its upper half first. -/
def execTraceEnable (core : BitVec 6) (lo hi : BitVec 64) (s : State) : Res :=
  .next (sysWrite (sysWrite s (offTrctl core.toNat + 8) hi) (offTrctl core.toNat) lo)

/-- SKEW_MEASUREMENT (29 R354): SKEWd for k = d, PSKEWp for k = 16 + p. UNC is free, and OFF lies within it of the true offset; of a
peer's counter nothing is known. -/
def execSkewMeasurement (k : Nat) (s : State) : Res :=
  let (u, s) := drawNat s
  let (e, s) := drawNat s
  let unc := u % 65536
  let put := fun (off x : Nat) => regSet s off (BitVec.ofNat 64 (x % 2 ^ 32 * 2 ^ 32 + unc * 2 ^ 16 + 1))
  .next (if 1 ≤ k ∧ k ≤ 8 then put (offSkew k) (mapGet 0 s.skew k + e % (2 * unc + 1) + 2 ^ 32 - unc)
    else if 16 ≤ k ∧ k < 34 then put (offPskew (k - 16)) e
    else s)

/-- One record of the RAS ring (31 R368). -/
def rasRecord (s : State) (pa count unit die action timeDie : Nat) : State :=
  let size := 2 ^ (regField s offRasring 11 8 + 6)
  let tail := regField s offRastail 31 0
  if regField s offRasring 0 0 = 0 then s
  else
    let s := unitWrite s (regField s offRasring 63 12 * 4096 + 32 * (tail % size))
      [action + die * 2 ^ 16 + unit * 2 ^ 24, count % 2 ^ 32 * 2 ^ 32, (dtime s timeDie).toNat, pa]
    regSet s offRastail (BitVec.ofNat 64 ((tail + 1) % 2 ^ 32))

/-- Nanoseconds of an hour. -/
def hour : Nat := 3600000000000

/-- The row of an HBM line, with its M-die in the low two bits and its stack, PA[10], in the third (01 R16; 31 R365). -/
def rowOf (l : Nat) : Nat := 8 * Config.hbmRow l + 4 * bits l 3 3 + mdieOf l

/-- The bank of a row, of its M-die and stack (01 R16; 31 R366). -/
def bankOf (row : Nat) : Nat := 8 * Config.hbmBank row + row % 8

/-- The count of an entry of a table of errors in the window before now (31 R365, R368). -/
def errorCount (s : State) (m : Assoc (List Nat)) (k window : Nat) : Nat :=
  ((mapGet [] m k).filter fun t => s.now < t + window).length

/-- The C-die of the core whose vault holds a line; its S-die counts the line's errors (31 R365). -/
def vlineDie (l : Nat) : Nat := l * 128 / Config.vaultSize / 16

/-- One more error at `now` in a table of errors (31 R365): times older than `window` go; a full table of `n` entries of its unit
drops the entry whose latest error is the oldest. -/
def countError (m : Assoc (List Nat)) (sameUnit : Nat → Bool) (n k window now : Nat) : Assoc (List Nat) :=
  let full := (mapGet [] m k).isEmpty && n ≤ (m.filter fun x => sameUnit x.1).length
  let m := if full then
      (match (m.filter fun x => sameUnit x.1).foldl (fun (b : Option (Nat × Nat)) x =>
          let t := x.2.getLastD 0
          match b with
          | none => some (x.1, t)
          | some y => if t < y.2 then some (x.1, t) else some y) none with
        | some y => mapPut [] m y.1 []
        | none => m)
    else m
  mapPut [] m k (((mapGet [] m k).filter fun t => now < t + window) ++ [now])

/-- The place lies in a line of device memory, or in a vault line. -/
def inLine (vlt : Bool) (line : Nat) : Place → Bool
  | .mem pa => !vlt && lineOf pa == line
  | .vault key => vlt && key / 128 == line
  | _ => false

/-- SCRUB (31 R365 to R368): a corrected error counts against its row or vault line, and the count that makes it lasting asks for
retirement or a fence; an uncorrectable one poisons the line. -/
def execScrub (vlt : Bool) (line : Nat) (err : ScrubErr) (s : State) : Res :=
  let known := if vlt then line * 128 < 64 * Config.vaultSize else line * 128 < Config.memSize
  .next (if !known then s
    else
      match err with
      | .clean => s
      | .corrected =>
        if vlt then
          if s.vpoison.contains line then s
          else
            let m := countError s.rasLines (fun k => vlineDie k == vlineDie line) 256 line hour s.now
            let c := (mapGet [] m line).length
            let s := { s with rasLines := m, rasPend := if c = 2 then s.rasPend ++ [2 * line + 1] else s.rasPend }
            rasRecord s (line * 128) c 1 (vlineDie line) 0 (vlineDie line)
        else
          if s.poison.contains line then s
          else
            let r := rowOf line
            let m := countError s.rasRows (fun k => k % 4 == r % 4) 1024 r (24 * hour) s.now
            let c := (mapGet [] m r).length
            let s := { s with rasRows := m, rasPend := if c = 3 then s.rasPend ++ [2 * r] else s.rasPend }
            rasRecord s (line * 128) c 0 (mdieOf line) 0 (4 + mdieOf line)
      | .uncorrectable =>
        if rmwPartly s (inLine vlt line) then s
        else if vlt then
          if s.vpoison.contains line then s
          else
            let c := errorCount s s.rasLines line hour
            let s := rasRecord { s with vpoison := s.vpoison ++ [line] } (line * 128) c 1 (vlineDie line) 3 (vlineDie line)
            rasRecord s (line * 128) c 1 (vlineDie line) 4 (vlineDie line)
        else
          if s.poison.contains line then s
          else
            let c := errorCount s s.rasRows (rowOf line) (24 * hour)
            let s := rasRecord { s with poison := s.poison ++ [line] } (line * 128) c 0 (mdieOf line) 3 (4 + mdieOf line)
            rasRecord s (line * 128) c 0 (mdieOf line) 4 (4 + mdieOf line))

/-- ROW_RETIREMENT (31 R366): the row's copy is complete and its mapping switched, or its bank has no spare left. -/
def execRowRetirement (row : Nat) (s : State) : Res :=
  .next (if !s.rasPend.contains (2 * row) then s
    else
      let s := { s with rasPend := s.rasPend.filter (· != 2 * row) }
      let c := errorCount s s.rasRows row (24 * hour)
      let bank := bankOf row
      let used := mapGet 0 s.spareRows bank
      let pa := (Config.rowBase row).toNat
      if 16 ≤ used then rasRecord s pa c 0 (row % 4) 5 (4 + row % 4)
      else rasRecord { s with spareRows := mapPut 0 s.spareRows bank (used + 1), rasRows := mapPut [] s.rasRows row [] } pa c 0
        (row % 4) 1 (4 + row % 4))

/-- LINE_FENCE (31 R366): the line has moved to a spare line of its column slice, or is poisoned when none is left. -/
def execLineFence (line : Nat) (s : State) : Res :=
  .next (if !s.rasPend.contains (2 * line + 1) || rmwPartly s (inLine true line) then s
    else
      let s := { s with rasPend := s.rasPend.filter (· != 2 * line + 1) }
      let c := errorCount s s.rasLines line hour
      let slice := line * 128 / Config.sliceSize
      let used := mapGet 0 s.spareLines slice
      let d := vlineDie line
      if 8 ≤ used then rasRecord { s with vpoison := s.vpoison ++ [line] } (line * 128) c 1 d 4 d
      else rasRecord { s with spareLines := mapPut 0 s.spareLines slice (used + 1), rasLines := mapPut [] s.rasLines line [] }
        (line * 128) c 1 d 2 d)

/-- ISLCTL_WRITE (31 R369). -/
def execIslctlWrite (n : Nat) (val : BitVec 64) (s : State) : Res :=
  .next (if n < 72 then sysWrite s (offIslctl n) val else s)

/-- REQ of an island (31 R369). -/
def islReq (s : State) (n : Nat) : Nat := regField s (offIslctl n) 2 0

/-- OPERATING_POINT_CHANGE (31 R369): the island takes its requested point. -/
def execOperatingPointChange (n : Nat) (s : State) : Res :=
  .next (if n < 72 && regField s (offIslctl n) 3 3 == 1 then
      regSetField (regSetField s (offIslctl n) 6 4 (islReq s n)) (offIslctl n) 3 3 0 else s)

/-- PLIMIT_WRITE (31 R370). -/
def execPlimitWrite (val : BitVec 64) (s : State) : Res := .next (sysWrite s offPlimit val)

/-- POWER_LIMITER_TICK (31 R370) with the average power of the millisecond. -/
def execPowerLimiterTick (watts : Nat) (s : State) : Res :=
  .next (if plimit s < watts then
      (List.range 64).foldl (fun s n =>
        if islCur s n < 3 && regField s (offIslctl n) 8 8 == 0 then regSetField s (offIslctl n) 6 4 (islCur s n + 1) else s)
        { s with limLow := 0 }
    else if watts * 100 < 95 * plimit s then
      if s.limLow + 1 < 10 then { s with limLow := s.limLow + 1 }
      else
        (List.range 72).foldl (fun s n =>
          if islReq s n < islCur s n then regSetField s (offIslctl n) 6 4 (islCur s n - 1) else s) { s with limLow := 0 }
    else { s with limLow := 0 })

/-- `n` bytes of an image as a number, the first lowest. -/
def imgVal (img : List Byte) (a n : Nat) : Nat := ((img.drop a).take n).foldr (fun b v => b.toNat + 256 * v) 0

/-- The bytes of a firmware image among those the flash holds: as many as its header says (31 R364). -/
def imgOf (img : List Byte) : List Byte := img.take (imgVal img 8 4)

/-- SHA-512 of a firmware image (31 R363). -/
def imgHash (img : List Byte) : BitVec 512 := Config.sha512 (imgOf img)

/-- SHA-512 of a firmware image with its signature zeroed (31 R364). -/
def imgDigest (img : List Byte) : BitVec 512 :=
  Config.sha512 ((imgOf img).mapIdx fun i b => if 64 ≤ i ∧ i < 128 then 0 else b)

/-- The check of an image (31 R364): its header's form, and its signature. -/
def imgSigned (svc : Bool) (img : List Byte) : Bool :=
  let n := imgVal img 8 4
  128 ≤ n && n ≤ img.length && imgVal img 0 4 == 0xA17DF00D && imgVal img 18 46 == 0 &&
    Config.sigValid svc (BitVec.ofNat 512 (imgVal img 64 64)) (imgDigest img)

/-- Security version of an image (31 R364). -/
def imgSv (img : List Byte) : Nat := imgVal img 4 4

/-- The kernel of a front group: its L-form image, native (31 R371). -/
def frontKernel (pa : W64) (regs : Nat) : Kernel := ⟨0, 0, pa, false, true, 0, Config.ownTag, 0, regs⟩

/-- Where root firmware places the service image: an offset of its choice in the root region, with room for the image (31 R359, R371). -/
def svcPlace (b : BootInput) : W64 :=
  BitVec.ofNat 64 (Config.rootBase + b.svcBase.toNat % (Config.memSize - Config.rootBase - (imgOf b.svcImg).length))

/-- The front group of a C-die (21 R266; 31 R371). -/
def frontGroup (s : State) (b : BootInput) (die : Nat) : Group :=
  let w := min 64 (imgVal b.svcImg 16 1)
  let at_ := svcPlace b
  let g := newGroup s.nextId (16 * die) 0 0 s.nextId 0 0 w (frontKernel at_ (imgVal b.svcImg 17 1)) (fullMask w)
    (at_ + BitVec.ofNat 64 (imgVal b.svcImg 12 4)) 0 aregZero 0
  { g with sys := true, front := true
           s := mapPut 0 (mapPut 0 (mapPut 0 [] 56 (at_.extractLsb' 0 32)) 57 (at_.extractLsb' 32 32)) 58
             (BitVec.ofNat 32 die) }

/-- The listed bytes a reset leaves: device memory but for the root region, and host memory (31 R371). -/
def keptMem (m : List Host.Cell) : List Host.Cell := m.filter fun c => !inRoot c.1

/-- Nanoseconds within which a device reset ends (31 R371). -/
def bootBound : Nat := 1000000000

/-- Step 1: everything at its reset value, but for the fuses, the count of keys drawn, memory and spares; INCN, and counters that
start at zero as each die leaves reset: every die has done so before this step ends, and
how long ago, within the bound of the bring-up, is free (01 R25; 31 R371). The phases of the steal ticks are fixed anew (21 R288). -/
def bootStep1 (s : State) (b : BootInput) : State :=
  let count := fun (d : Nat) => (Config.freeWord (s.seq + d)).toNat % bootBound
  let s0 : State := { State.reset with
    agenda := s.agenda, seq := s.seq + 9, rootSv := s.rootSv, svcSv := s.svcSv, keys := s.keys, mem := keptMem s.mem
    lineKey := s.lineKey.filter fun x => !inRoot (128 * x.1), spareRows := s.spareRows, spareLines := s.spareLines
    skew := (List.range 8).foldl (fun m d => mapPut 0 m (d + 1) ((count (d + 1) + 2 ^ 64 - count 0) % 2 ^ 64)) [], now := count 0, bootStep := 1
    stealSeed := s.seq }
  regSet s0 8 (b.incn.setWidth 64)

/-- A boot step fails: the device stops there (31 R372). -/
def bootFail (s : State) (code : Nat) : State := { s with failed := true, bootCode := code, cxl := 0 }

/-- Entry bytes of the export table with V cleared, and the bytes of the bias table cleared (31 R371). -/
def bootClear (s : State) : State :=
  let e := (regGet s offExport).toNat
  let t := (regGet s offBias).toNat
  { s with mem := s.mem.foldl (fun m c =>
      let v := if t ≤ c.1 && c.1 < t + 2 ^ 24 then 0
        else if e ≤ c.1 && c.1 < e + 131072 && (c.1 - e) % 32 == 0 then c.2 &&& 0xFE else c.2
      if v = c.2 then m else writeByte m c.1 v) s.mem }

/-- EN of every DBGATT is 0, no revocation is under way, no key slot holds a key, and no line lies in an L2 (31 R371). -/
def bootInvalid (s : State) : State :=
  let s := (List.range 4).foldl (fun s k => regSetField s (offDbgatt k) 0 0 0) (regSet s offRevoke 0)
  { s with revoking := none, keyGen := [], keyOwner := [], home := [], l2bad := [] }

/-- Step 3 (31 R371): what root firmware writes, and the tables it sets invalid. -/
def bootStep3 (s : State) (b : BootInput) : State :=
  let s := { s with rootSv := max s.rootSv (imgSv b.rootImg)
                    mem := b.rootBytes.foldl (fun m x => writeByte m x.1 x.2) s.mem }
  let s := b.rootRegs.foldl (fun s x => writeReg s x.1 x.2) (regSet s 0 (b.devid.setWidth 64))
  { bootClear (bootInvalid s) with bootStep := 3 }

/-- Step 4 (31 R371): the service image is placed, and one front group starts on each C-die. -/
def bootStep4 (s : State) (b : BootInput) : State :=
  let s := { s with mem := writeBytes s.mem (svcPlace b).toNat (imgOf b.svcImg) }
  let s := (List.range 4).foldl (fun s d => { s with groups := s.groups ++ [frontGroup s b d], nextId := s.nextId + 1 }) s
  { s with svcSv := max s.svcSv (imgSv b.svcImg), svcHash := imgHash b.svcImg, bootStep := 4 }

/-- DEVICE_RESET (31 R364, R371, R372): the boot sequence, up to the step that fails. -/
def execDeviceReset (b : BootInput) (s : State) : Res :=
  let s := bootStep1 s b
  .next (if !imgSigned false b.rootImg then bootFail s 1
    else if imgSv b.rootImg < s.rootSv then bootFail s 2
    else
      let s := { s with rootHash := imgHash b.rootImg, bootStep := 2 }
      if b.failCode = 5 ∨ b.failCode = 6 then bootFail s b.failCode.toNat
      else
        let s := bootStep3 s b
        if !imgSigned true b.svcImg then bootFail s 3
        else if imgSv b.svcImg < s.svcSv then bootFail s 4
        else
          let s := bootStep4 s b
          { s with bootStep := 5, cxl := BitVec.ofNat 2 (bitNat b.cxl0 + 2 * bitNat b.cxl1) })

end Sys2Proof.Machine
end

