-- ==== Sys2Proof/Machine/Sync.lean ====
section
/-! DEFINITION. FENCE (13 R178; 15 R193), transaction barriers and team barriers as instructions (15 R196, R197, R206). -/

namespace Sys2Proof.Machine

/-- Operations that the fence's threads, the lanes `on` of a group, have issued still have accesses of its predecessor classes to make:
cr and cw are bits 2 and 3, mr and mw bits 4 and 5 (13 R178; 19 R250). Every thread of a group issues its matrix operations
(19 R252). -/
def fenceHeld (s : State) (g : Group) (on : W64) (pred : BitVec 6) : Bool :=
  (s.ops.any fun o => o.gid == g.gid && (o.lanes &&& on) != 0 &&
      (pred.getLsbD 2 && !opHasRead o || pred.getLsbD 3 && !opMoved o)) ||
    s.mq.any fun q => q.2.any fun o => o.gid == g.gid && !matMoved o &&
      match o.kind with
      | .mma .. => pred.getLsbD 4
      | .tld .. => pred.getLsbD 4
      | .tst .. => pred.getLsbD 5
      | _ => false

/-- The largest stamp of what the engine and matrix operations of a group have written: those complete, and those still in flight
(13 R178). -/
def engineStamp (s : State) (g : Group) : Nat :=
  maxList g.elt (((s.ops.filter fun o => o.gid == g.gid).map (·.stamp)) ++
    s.mq.flatMap fun q => (q.2.filter fun o => o.gid == g.gid).map (·.stamp))

/-- The group after a fence that orders its earlier loads, or the writes of its engine and matrix operations: what they have read or
written happened before what follows (13 R176, R178; assumption 70). -/
def fenceReads (s : State) (pred : BitVec 6) (g : Group) : Group :=
  let g := if pred.getLsbD 0 then { g with lt := max g.lt g.rlt } else g
  if pred.getLsbD 3 || pred.getLsbD 5 then { g with lt := max g.lt (engineStamp s g) } else g

/-- FENCE (13 R178; 15 R193): it waits for its predecessor classes; with w among them it waits as a release of its scope. -/
def execFence (_h : Hdr) (sc : Scope) (pred : BitVec 6) (succ : BitVec 6) (s : State) : Res :=
  issue (.fence _h sc pred succ) s fun c =>
    orTrap c 0 [] fun c =>
      if c.on = 0 then retire c c.g
      else if fenceHeld c.s c.g c.on pred then againFar c
      else if pred.getLsbD 1 then withRelease c sc fun c => retire c (fenceReads c.s pred c.g)
      else retire c (fenceReads c.s pred c.g)

/-- A barrier instruction that acts once when a lane is active: its causes, or `k` with the operand's vault key. `more` and `extra` are
BOUNDS conditions of the instruction, on the object and on its other operands (15 R196). Earlier vault accesses of the core to the
object come first (13 R156). -/
def withBar (c : Ctx) (a : BitVec 4) (need : Nat) (valid : Bool) (more : Nat → Bool) (extra : Bool) (k : Ctx → Nat → State) : State :=
  let ar := getA c.r a.toNat
  if c.on = 0 then orTrap c 0 [] fun c => retire c c.g
  else if barBusy c ar then againAs c 1
  else
    match firstCause (sysPriv c ar ++ barCauses c ar need valid more ++ if extra then [causeBounds ar.ptr] else []), barKey c ar with
    | some x, _ => orTrap c 0 (onActive c x) fun c => c.s
    | none, some key => orTrap c 0 [] fun c => k c key
    | none, none => c.s

/-- BAR.INIT (15 R194, R196). -/
def execBarInit (_h : Hdr) (a : BitVec 4) (b : BitVec 6) (s : State) : Res :=
  issue (.barInit _h a b) s fun c =>
    withBar c a 1 false (fun key => (readBar c.s key).valid && ((readBar c.s key).ops != 0 || barParked c.s key)) false fun c key =>
      let n := (getS c.r b.toNat).toNat
      let s := writeBar c.s key ⟨0, 0, 0, 0, n, n, [0, 0, 0, 0], 0, false, false, false, true⟩
      retireAt c { s with bars := key :: s.bars.filter (· != key) } c.g (levelsOf c.g.core (.vault key))

/-- BAR.EXP (15 R196): the producer core must lie in the barrier's cluster. -/
def execBarExp (_h : Hdr) (d : BitVec 6) (a : BitVec 4) (b : BitVec 6) (s : State) : Res :=
  issue (.barExp _h d a b) s fun c =>
    let core := (getS c.r b.toNat).toNat
    withBar c a 1 true (fun key => dieOf core != dieOf (key / Config.vaultSize)) (63 < core) fun c key =>
      let n := (getS c.r d.toNat).toNat
      let s := barEvent c.s key false fun x => barRem x core n
      match getGroup s c.g.gid with
      | none => s
      | some g => retireAt c s g (levelsOf c.g.core (.vault key))

/-- BAR.ARR (15 R196): one arrival for each active lane, each a release at .clu. -/
def execBarArr (_h : Hdr) (a : BitVec 4) (s : State) : Res :=
  issue (.barArr _h a) s fun c => withBar c a 1 true (fun _ => false) false fun c key =>
    withRelease c .clu fun c =>
      let s := (lanesOf c.g.w c.on).foldl (fun s _ => barArrive s key c.g.lt) (setGroup c.s c.g)
      match getGroup s c.g.gid with
      | none => s
      | some g => retireAt c s g (levelsOf c.g.core (.vault key))

/-- The status and the join of a completed phase (15 R197; 13 R179). -/
def barJoin (g : Group) (b : Bar) (d : BitVec 6) (q : BitVec 3) (ok : Bool) : Group :=
  let g := later { g with lt := max g.lt b.cs } (.s d.toNat) (barStatus b)
  later g (.q q.toNat) (if ok then 1 else 0)

/-- BAR.WAIT (15 R197). -/
def execBarWait (_h : Hdr) (d : BitVec 6) (a : BitVec 4) (b : BitVec 3) (s : State) : Res :=
  issue (.barWait _h d a b) s fun c => withBar c a 0 true (fun _ => false) false fun c key =>
    let x := readBar c.s key
    let par := (getS c.r d.toNat).getLsbD 16
    if x.phase = par then park c c.s c.g c.act (.bar key par d b c.tok)
    else retireAt c c.s (barJoin c.g x d b (!x.lerr)) (levelsOf c.g.core (.vault key))

/-- BAR.TEST (15 R197). -/
def execBarTest (_h : Hdr) (d : BitVec 6) (a : BitVec 4) (b : BitVec 3) (s : State) : Res :=
  issue (.barTest _h d a b) s fun c => withBar c a 0 true (fun _ => false) false fun c key =>
    let x := readBar c.s key
    if x.phase = (getS c.r d.toNat).getLsbD 16 then retireAt c c.s (later c.g (.q b.toNat) 0) (levelsOf c.g.core (.vault key))
    else retireAt c c.s (barJoin c.g x d b true) (levelsOf c.g.core (.vault key))

/-- BAR.INV (15 R196): a parked entry is released by an error completion with BOUNDS. -/
def execBarInv (_h : Hdr) (a : BitVec 4) (s : State) : Res :=
  issue (.barInv _h a) s fun c => withBar c a 1 true (fun key => (readBar c.s key).ops != 0) false fun c key =>
    let s := if barParked c.s key then barBreak c.s key 0x0302 id else c.s
    let s := writeBar s key { readBar s key with valid := false }
    let s := { s with bars := s.bars.filter (· != key) }
    match getGroup s c.g.gid with
    | none => s
    | some g => retireAt c s g (levelsOf c.g.core (.vault key))

/-- TBAR (15 R206; 13 R180): a release at .team, then the active lanes wait; the last arrival lets all depart. -/
def execTbar (_h : Hdr) (n : BitVec 4) (s : State) : Res :=
  issue (.tbar _h n) s fun c => orTrap c 0 [] fun c =>
    if c.on = 0 then retire c c.g
    else withRelease c .team fun c =>
      tbarCheck (park c c.s c.g c.on (.tbar n.toNat)) c.g.team n.toNat

end Sys2Proof.Machine
end

