-- ==== Sys2Proof/Machine/Turn.lean ====
section
/-! DEFINITION. A turn of an entry: what comes before its instruction (03 R37, R38, R42; 17 R219), link tokens (27 R340), fetching
an instruction's words (13 R178; 17 R234), and the turns in which time passes (01 R25; 03 R33; 13 R160; 21 R290; 29 R357). -/

namespace Sys2Proof.Machine

/-- An entry where it stands, before an instruction is known. -/
def entCtx (s : State) (g : Group) (e : Nat) (w0 w1 : W32) : Ctx :=
  let x := entAt g e
  ⟨.nop ⟨0, 7⟩, s, g, g, e, x.act, x.act, x.pc, x.pc, w0, w1, 0, g.last, [], []⟩

/-- The first address of the token window (27 R340). -/
def tokenBase : Nat := 0xFFFF000000000000

/-- The address lies in the token window (27 R340). -/
def inTokens (pc : W64) : Bool := tokenBase ≤ pc.toNat && pc.toNat ≤ tokenBase + 196607

/-- The address of the cell a token names, from the header of the group's kernel object; none when that has no such cell, or is no kernel
object (27 R333, R339, R340). -/
def cellAddr (s : State) (g : Group) (pc : W64) : State × Except CtxErr (Option Nat) :=
  let n := (pc.toNat - tokenBase) / 48
  let ko := g.ker.kobj.toNat
  if ko % 8 != 0 then (s, .ok none)
  else
    let (s, h) := ctxLoads s g g.pasid ko false 7
    (s, match h with
      | .error e => .error e
      | .ok h =>
        if bits h 15 0 = 0xA17D ∧ n < bits h 415 403 then .ok (some (ko + bits h 447 416 + 32 * n)) else .ok none)

/-- A cell that has been read (27 R339, R340): go to its target, wait, BIND, or BOUNDS. -/
def cellGo (c : Ctx) (va x : Nat) : State :=
  let t : W64 := BitVec.ofNat 64 (if formL c.g then bits x 191 128 else bits x 127 64)
  let st := bits x 1 0
  if st = 2 then
    if !targetAligned c.g t then trapAct c (causeAlign 0)
    else
      let g := updLanes c.g c.act fun _ y => { y with pc := t, denied := none }
      commit c.s c.g (tidy (setEnt g c.e { entAt g c.e with pc := t })) none
  else if st = 1 then commit c.s c.g (tidy (parkLanes c.g c.act fun _ => .waiting (.cell va))) none
  else if st = 0 then trapAct c causeBind
  else trapAct c (causeBounds 0)

/-- The ACT lanes with a refused page that `at_` says a read meets: they raise PERM (17 R228). -/
def refusedLanes (c : Ctx) (at_ : PageFault → Bool) : List Nat :=
  (lanesOf c.g.w c.act).filter fun l => (laneAt c.g l).denied.any at_

/-- What a token's read comes to, `at_` telling which refused pages it meets: it waits for a home, fails, or gives a value to go on with
(17 R209, R228; 27 R340). Answers the state and the counter of what a wait is for (29 R357). -/
def tokenRead {α : Type} (s : State) (gid e : Nat) (a : W64) (at_ : PageFault → Bool) (r : Except CtxErr α)
    (k : Ctx → α → State × Option Nat) : State × Option Nat :=
  match getGroup s gid with
  | none => (s, none)
  | some g =>
    let c := entCtx s g e 0 0
    let refused := refusedLanes c at_
    let fail := fun (x : Cause) =>
      (orTrap c 1 ((lanesOf g.w c.act).map fun l => (l, if refused.contains l then causeXlat 3 a else x)) fun c => c.s, none)
    match r with
    | .error .wait => (s, some 2)
    | .error .remote => fail (causeRemote a)
    | .error (.bad x) => fail (xCause g.pasid a x)
    | .ok x => if refused.isEmpty then k c x else (orTrap c 1 (refused.map fun l => (l, causeXlat 3 a)) fun c => c.s, none)

/-- The read of a kernel object's header meets a refused page: one of the addresses it reads, or of the walk that has failed again
(17 R228). -/
def headerPage (ko : Nat) (r : Except CtxErr (Option Nat)) (f : PageFault) : Bool :=
  if f.s2 then (match r with | .error (.bad (.page p true)) => p == f.page | _ => false)
  else f.page == ko / 4096 * 4096 || f.page == (ko + 55) / 4096 * 4096

/-- Entry `e` resolves the token its PC holds (27 R340): its cell is read as an acquire at .dev of 32 bytes. A refused page that the header's
read does not meet is the cell's (17 R228). Answers the state and the counter of what a wait is for (29 R357). -/
def tokenResolve (s : State) (g : Group) (e : Nat) : State × Option Nat :=
  let (s, r) := cellAddr s g (entAt g e).pc
  let ko := g.ker.kobj.toNat
  tokenRead s g.gid e g.ker.kobj (headerPage ko r) r fun c v =>
    match v with
    | none => (trapAct c (causeBounds 0), none)
    | some va =>
      let a := addr64 va
      if va % 32 ≠ 0 then (trapAct c (causeAlign a), none)
      else if 2 ^ 64 < va + 32 ∨ (va < 2 ^ 63 ∧ 2 ^ 57 < va + 32) then (trapAct c (causeBounds a), none)
      else
        let (s, r) := ctxLoads c.s c.g c.g.pasid va true 4
        tokenRead s c.g.gid e a (fun _ => true) r fun c x => (cellGo c va x, none)

/-- The first word of a cell as its home holds it, if it can be read there. -/
def cellWord (s : State) (g : Group) (va : Nat) : State × Option Nat :=
  if va < 2 ^ 63 then (s, peek s g.pasid va 8)
  else
    let (s, r) := engRemote s g.core (bits va 62 43) (bits va 42 0) 8 g.lt .load
    (s, r.toOption.map (·.1))

/-- A write to bytes 0 to 7 of a cell ends the wait on it; one that leaves it BINDING would be waited on again (27 R340). -/
def cellPoll (s : State) (g : Group) (e : Nat) : State :=
  (waitsOf g fun w => match w with | .cell _ => true | _ => false).foldl (fun s w =>
    match w, getGroup s g.gid with
    | .cell va, some g =>
      let here := (lanesOf g.w (ownMask g e)).any fun l => (laneAt g l).park == .waiting w
      let (s, x) := cellWord s g va
      if here && x.any fun x => x % 4 != 1 then putGroup s (wakeGroup g (· == w) 0 0) else s
    | _, _ => s) s

/-- TOKEN_RESOLUTION (27 R340). -/
def execTokenResolution (gid e : Nat) (s : State) : Res :=
  .next (match getGroup s gid with
    | some g =>
      if entReady g e && !(entAt g e).busy && inTokens (entAt g e).pc && mayIssue s g e then
        (tokenResolve { s with seq := s.seq + 1 } g e).1
      else if isResident g && gated s g.core then s
      else cellPoll s g e
    | none => s)

/-- Where an instruction word is fetched from: translated with X through the cluster's unit (17 R234); front groups run the
service image, which lies in the root region (31 R359, R371; assumption 10). -/
def fetchPlace (s : State) (g : Group) (va : Nat) : Except XErr Nat × State :=
  let (r, s) := xlate s g.core g.pasid va 4
  match r with
  | .ok y => (.ok y.pa, s)
  | .error e =>
    if g.front then
      match translateTo inRoot s g.pasid va 4 (Config.choice s.seq) with
      | .ok y => (.ok y.pa, s)
      | .error _ => (.error e, s)
    else (.error e, s)

/-- A word through the instruction cache (13 R178): code that has changed is fetched with its old or its new content. -/
def cachedWord (s : State) (g : Group) (va : Nat) (w : W32) : W32 × State :=
  let same := fun (x : ICode) => x.core == g.core && x.pasid == g.pasid && x.va == va
  match s.icode.find? same with
  | none =>
    let (ic, s) := makeRoom s Config.icacheWords (fun (x : ICode) => x.core == g.core) s.icode
    (w, { s with icode := ic ++ [⟨g.core, g.pasid, va, w⟩] })
  | some x =>
    if x.word = w then (w, s)
    else
      let (old, s) := drawBit s
      if old then (x.word, s)
      else (w, { s with icode := s.icode.map fun y => if same y then { y with word := w } else y })

/-- Fetch one word (13 R178; 17 R220, R234). -/
def fetchWord (s : State) (g : Group) (va : Nat) : State × Except XErr W32 :=
  let (r, s) := fetchPlace s g va
  match r with
  | .error e => (s, .error e)
  | .ok pa =>
    if pa < Config.memSize && s.poison.contains (lineOf pa) then (s, .error (.ecc (eccInfo s (lineOf pa))))
    else
      let (w, s) := cachedWord s g va (BitVec.ofNat 32 (memRead s (pasidKey s g.pasid) pa 4))
      (s, .ok w)

/-- The ACT lanes that the fetch at `va` has faulted in and whose page was refused (17 R228). -/
def fetchDenied (g : Group) (act : W64) (va : Nat) : List Nat :=
  (lanesOf g.w act).filter fun l =>
    match (laneAt g l).denied with
    | some f => f.fetch && (f.s2 || f.page == va / 4096 * 4096)
    | none => false

/-- A cause of a fetch: its page is noted as one that a fetch met (17 R226, R228). -/
def fetchCause (x : Cause) : Cause := { x with page := x.page.map fun f => { f with fetch := true } }

/-- A fetch at `va` that fails in the ACT lanes of an entry: PAGE parks them with ACC fetch, a refused page or any other cause traps
(17 R209, R228, R234). -/
def fetchFail (c : Ctx) (va : Nat) (e : XErr) : State :=
  let refused := fetchDenied c.g c.act va
  orTrap c 8 ((lanesOf c.g.w c.act).map fun l => (l, if refused.contains l then causeXlat 3 0 else fetchCause (xCause c.g.pasid 0 e)))
    fun c => c.s

/-- The lanes whose fetch page was refused raise PERM (17 R228). -/
def fetchRefused (c : Ctx) (ls : List Nat) : State := orTrap c 8 (ls.map fun l => (l, causeXlat 3 0)) fun c => c.s

/-- What an issue turn comes to: it is over, or the cursor stands on an instruction to run. -/
inductive Ready where
  | over (s : State)
  | run (i : Instr) (s : State)

/-- The first word begins a two-word instruction (05 R71). -/
def wide (w : W32) : Bool := 56 ≤ (unpack w).mj.toNat && (unpack w).mj != 63

/-- A cycle that the turn of a group has ended without an issue is counted (29 R357). -/
def unissued (gid : Nat) (own : Option Nat) (s : State) : Ready := .over (stallAdd s gid own)

/-- A word waits at issue on an interlocked D-core: it reads or writes a uniform register that the result of a parked wait of its group is
still to be written to, so that a read returns the latest write in program order (05 R76; 23 R300). -/
def uniHeld (g : Group) (i : Instr) : Bool :=
  !formL g && !native g && (waitsOf g fun _ => true).any fun w => (waitDests w).any fun d =>
    match d with
    | .s r => (uniS i).contains r
    | .q r => (uniQ i).contains r
    | _ => false

/-- The words of an instruction are at hand: the instruction, or ENC_ILLEGAL (05 R74). -/
def ready1 (s : State) (g : Group) (e : Nat) (w0 w1 : W32) : Ready :=
  match decode w0 w1 with
  | .ok i => .run i { s with cur := some ⟨g.gid, e, w0, w1⟩ }
  | .error _ => .over (trapAct (entCtx s g e w0 (if wide w0 then w1 else 0)) causeEnc)

/-- A fetched instruction reaches the issue selector (29 R355), and may have to wait there (05 R76). -/
def readyNew (s : State) (g : Group) (e : Nat) (w0 w1 : W32) : Ready :=
  let s := reach s g e
  match ready1 s g e w0 w1 with
  | .run i s' => if encOk g i (entAt g e).pc && uniHeld g i then unissued g.gid (some 6) s else .run i s'
  | r => r

/-- Fetch the instruction of entry `e` and decode it. OPC1 of an illegal first word of major 0x3F, or of an X-class word in slot 2, is 0: no
second word is read (assumption 67). -/
def fetchGo (s : State) (g : Group) (e : Nat) : Ready :=
  let pc := (entAt g e).pc.toNat
  let c := fun (s : State) => entCtx s g e 0 0
  let stop := unissued g.gid none
  if pc % 4 ≠ 0 then stop (trapAct (c s) (causeAlign 0))
  else if 2 ^ 57 ≤ pc then stop (trapAct (c s) (causeBounds 0))
  else
    let (s, r0) := fetchWord s g pc
    match r0 with
    | .error x => stop (fetchFail (c s) pc x)
    | .ok w0 =>
      if !(fetchDenied g (entAt g e).act pc).isEmpty then stop (fetchRefused (c s) (fetchDenied g (entAt g e).act pc))
      else if !wide w0 then readyNew s g e w0 0
      else if !formL g && slotOfPc g (entAt g e).pc == 2 then .over (trapAct (entCtx (reach s g e) g e w0 0) causeEnc)
      else if 2 ^ 57 ≤ pc + 4 then stop (trapAct (c s) (causeBounds 0))
      else
        let (s, r1) := fetchWord s g (pc + 4)
        match r1 with
        | .error x => stop (fetchFail (c s) (pc + 4) x)
        | .ok w1 =>
          if !(fetchDenied g (entAt g e).act (pc + 4)).isEmpty then
            stop (fetchRefused (c s) (fetchDenied g (entAt g e).act (pc + 4)))
          else readyNew s g e w0 w1

/-- Lanes at their MEET are held instead of issuing (03 R38), tokens are resolved, and else the entry fetches. A busy entry goes on
with the words it has. -/
def entryGo (s : State) (g : Group) (e : Nat) : Ready :=
  if (entAt g e).busy then
    let f := mapGet noFlight g.flights e
    ready1 s g e f.w0 f.w1
  else
    let h := holdLanes g e
    if h.lanes != g.lanes then unissued g.gid none (putGroup s (tidy h))
    else if inTokens (entAt g e).pc then let (s, k) := tokenResolve s g e; unissued g.gid k s
    else fetchGo s g e

/-- A cycle of the core's SIMT clock of a group (03 R33; 29 R347). -/
def groupCycle (g : Group) : Group := { issueCycle g with haltCyc := if g.halt then g.haltCyc + 1 else g.haltCyc }

/-- The groups of a core that have yielded no longer wait for another's issue (09 R109). -/
def endYields (s : State) (core : Nat) : State :=
  { s with groups := s.groups.map fun g => if g.core == core && g.yielded then { g with yielded := false } else g }

/-- The entry has issued an instruction whose accesses it can take up now, whatever frames are in use (09 R103; 17 R213, R239). -/
def busyReady (g : Group) (e : Nat) : Bool := (entAt g e).v && (entAt g e).st == .ready && (entAt g e).act != 0 && (entAt g e).busy

/-- An issue turn of entry `e` of group `gid`: a busy entry goes on with its instruction; else an issue cycle of the group (03 R33), a
pending BUDGET (17 R219), then the entry. A stopped or saved group, an entry that may not issue and a group that its core's selector does
not take let the turn pass (03 R42, R48; 17 R213; 21 R280; 29 R349; 31 R369). -/
def prepare (s : State) (gid e : Nat) : Ready :=
  match runningGroup s gid with
  | none => .over s
  | some g0 =>
    if busyReady g0 e then entryGo { s with seq := s.seq + 1 } g0 e
    else if !entReady g0 e || !mayIssue s g0 e then .over s
    else if !selected s g0 then .over { s with seq := s.seq + 1 }
    else
      let n := s.seq + 1
      let g := groupCycle g0
      let g := { setEnt g e { entAt g e with last := n } with last := n, arriving := false, yielded := false }
      let s := setGroup (endYields { s with seq := n } g.core) g
      match takeBudget s g e with
      | some s => unissued gid none s
      | none => entryGo s g e

/-- A SIMT cycle in which a resident group issues nothing (03 R33; 29 R357); of a stopped group only the cycles since a HALT go on beside
its stall counters (29 R347). -/
def idleCycle (s : State) (gid : Nat) : State :=
  match getGroup s gid with
  | none => s
  | some g =>
    if !isResident g || gated s g.core then s
    else
      let g := if g.stopped.isNone then groupCycle g else { g with haltCyc := if g.halt then g.haltCyc + 1 else g.haltCyc }
      stallAdd (setGroup s g) gid none

/-- An array-clock cycle of a core: limited budgets of its resident slices lose one (21 R290). -/
def arrayCycle (s : State) (core : Nat) : State :=
  if gated s core then s
  else
    { s with groups := s.groups.map fun g =>
        match g.slice with
        | some sl =>
          if sl.limited && isResident g && g.core == core && g.budget != 0 then
            { g with budget := g.budget - 1, budgetPend := g.budgetPend || g.budget == 1 }
          else g
        | none => g }

/-- A line leaves its M-die's L2 (13 R160); lines marked non-temporal go first (13 R188). -/
def evictLine (s : State) (l : Nat) : State :=
  match s.home.find? fun x => x.1 == l with
  | none => s
  | some (_, h) =>
    if !h.nt && s.home.any fun x => x.2.nt && mdieOf x.1 == mdieOf l then s
    else
      evictHome s (l, h)

/-- A host program stores `n` bytes of one line of host memory, under the largest lt of the host ports (13 R183, R184; 25 R321). -/
def hostProgram (s : State) (pa n v : Nat) : State :=
  if inHost pa && inHost (pa + n - 1) && pa % 128 + n ≤ 128 then hostPut s pa n v (max (portStamp s false) (portStamp s true)) else s

/-- A host that holds a line in state E modifies it (25 R323), once no bias command holds it (25 R324). -/
def hostModify (s : State) (l : Nat) (data : Line) : State :=
  let h := homeAt s l
  if h.mesi == .e && hostReach s h.port (128 * l) && !biasHeld s l then hostWrites s l h.port data.toNat else s

/-- An M-die's L2 meets an error in a line it holds (17 R211; 31 R366, R368): a corrected one is recorded; an uncorrectable one poisons the
line, and is recorded as uncorrectable and as poisoned. R365 counts rows and vault lines only, so that COUNT is 1 (DEDUCED; assumption
97). An uncorrectable one waits while an instruction that reads, modifies and writes has performed part of its accesses (17 R220;
assumption 76). -/
def l2Error (s : State) (l : Nat) (corrected : Bool) : State :=
  let put := fun (s : State) (action : Nat) => rasRecord s (128 * l) 1 2 (mdieOf l) action (4 + mdieOf l)
  if !(s.home.any fun x => x.1 == l) || s.poison.contains l then s
  else if corrected then put s 0
  else if rmwPartly s (inLine false l) then s
  else put (put { s with poison := s.poison ++ [l], l2bad := s.l2bad ++ [l] } 3) 4

/-- A turn in which time passes. -/
def tickGo (s : State) : Tick → State
  | .ns n => let s := noteCands s; noteCands { s with now := s.now + n }
  | .simt gid => idleCycle s gid
  | .array core => arrayCycle s core
  | .dclock p n => dclockStep s p n
  | .host pa n v => hostProgram s pa n v
  | .evict l => evictLine s l
  | .ifetch gid va =>
    match runningGroup s gid with
    | some g => (fetchWord s g va).1
    | none => s
  | .hostMod l data => hostModify s l data
  | .l2Error l corrected => l2Error s l corrected

end Sys2Proof.Machine
end

