-- ==== Sys2Proof/Machine/Uniform.lean ====
section
/-! DEFINITION. Uniform integer instructions (09 R112, R120, R121), address registers (09 R122 to R125), index registers (09 R127,
R128) and state registers (09 R129, R130). -/

namespace Sys2Proof.Machine

/-- A Q-class effect: once, when the guard is true. -/
def once (c : Ctx) (f : Group → Group) : Group := if c.on = 0 then c.g else f c.g

/-- A uniform function of A and B into D. -/
def uni2 (c : Ctx) (w64 : Bool) (d a b : BitVec 6) (f : (n : Nat) → BitVec n → BitVec n → BitVec n) : Group :=
  once c fun g =>
    if w64 then putS2 g d.toNat (f 64 (getS2 c.r a.toNat) (getS2 c.r b.toNat))
    else putS g d.toNat (f 32 (getS c.r a.toNat) (getS c.r b.toNat))

/-- A uniform shift by one register. -/
def uniShift (c : Ctx) (w64 : Bool) (d a b : BitVec 6) (f : (n : Nat) → BitVec n → Nat → BitVec n) : Group :=
  once c fun g =>
    let s := (getS c.r b.toNat).toNat
    if w64 then putS2 g d.toNat (f 64 (getS2 c.r a.toNat) s) else putS g d.toNat (f 32 (getS c.r a.toNat) s)

/-- SADD (09 R120). -/
def execSadd (_h : Hdr) (w64 : Bool) (d a b : BitVec 6) (s : State) : Res :=
  issue (.sadd _h w64 d a b) s fun c => simple c fun c => uni2 c w64 d a b fun _ x y => x + y

/-- SSUB (09 R120). -/
def execSsub (_h : Hdr) (w64 : Bool) (d a b : BitVec 6) (s : State) : Res :=
  issue (.ssub _h w64 d a b) s fun c => simple c fun c => uni2 c w64 d a b fun _ x y => x - y

/-- SMUL (09 R120). -/
def execSmul (_h : Hdr) (w64 : Bool) (d a b : BitVec 6) (s : State) : Res :=
  issue (.smul _h w64 d a b) s fun c => simple c fun c => uni2 c w64 d a b fun _ x y => x * y

/-- SAND (09 R120). -/
def execSand (_h : Hdr) (w64 : Bool) (d a b : BitVec 6) (s : State) : Res :=
  issue (.sand _h w64 d a b) s fun c => simple c fun c => uni2 c w64 d a b fun _ x y => x &&& y

/-- SOR (09 R120). -/
def execSor (_h : Hdr) (w64 : Bool) (d a b : BitVec 6) (s : State) : Res :=
  issue (.sor _h w64 d a b) s fun c => simple c fun c => uni2 c w64 d a b fun _ x y => x ||| y

/-- SXOR (09 R120). -/
def execSxor (_h : Hdr) (w64 : Bool) (d a b : BitVec 6) (s : State) : Res :=
  issue (.sxor _h w64 d a b) s fun c => simple c fun c => uni2 c w64 d a b fun _ x y => x ^^^ y

/-- SSHL (09 R120). -/
def execSshl (_h : Hdr) (w64 : Bool) (d a b : BitVec 6) (s : State) : Res :=
  issue (.sshl _h w64 d a b) s fun c => simple c fun c => uniShift c w64 d a b fun _ => shiftL

/-- SSHR (09 R120). -/
def execSshr (_h : Hdr) (w64 : Bool) (d a b : BitVec 6) (s : State) : Res :=
  issue (.sshr _h w64 d a b) s fun c => simple c fun c => uniShift c w64 d a b fun _ => shiftR

/-- SMOV (09 R120). -/
def execSmov (_h : Hdr) (w64 : Bool) (d a : BitVec 6) (s : State) : Res :=
  issue (.smov _h w64 d a) s fun c => simple c fun c =>
    once c fun g => if w64 then putS2 g d.toNat (getS2 c.r a.toNat) else putS g d.toNat (getS c.r a.toNat)

/-- SMOVI (09 R120). -/
def execSmovi (_h : Hdr) (d : BitVec 6) (imm : BitVec 12) (s : State) : Res :=
  issue (.smovi _h d imm) s fun c => simple c fun c => once c fun g => putS g d.toNat (imm.signExtend 32)

/-- SADD with a short immediate (09 R120). -/
def execSaddImm (_h : Hdr) (d a imm : BitVec 6) (s : State) : Res :=
  issue (.saddImm _h d a imm) s fun c => simple c fun c =>
    once c fun g => putS g d.toNat (getS c.r a.toNat + imm.signExtend 32)

/-- SMOVI with an extension word (09 R120). -/
def execSmoviX (_h : Hdr) (d : BitVec 6) (imm : BitVec 32) (s : State) : Res :=
  issue (.smoviX _h d imm) s fun c => simple c fun c => once c fun g => putS g d.toNat imm

/-- SADD with an extension word (09 R120). -/
def execSaddX (_h : Hdr) (d a : BitVec 6) (imm : BitVec 32) (s : State) : Res :=
  issue (.saddX _h d a imm) s fun c => simple c fun c => once c fun g => putS g d.toNat (getS c.r a.toNat + imm)

/-- RDLANE's value: lane `k` of a register, 0 beyond the width (09 R121). -/
def laneRead (r : Group) (a k : Nat) : W32 := if k < r.w then getV r a k else 0

/-- RDLANE with a register lane number (09 R121). -/
def execRdlane (_h : Hdr) (d a b : BitVec 6) (s : State) : Res :=
  issue (.rdlane _h d a b) s fun c => simple c fun c =>
    once c fun g => putS g d.toNat (laneRead c.r a.toNat (getS c.r b.toNat).toNat)

/-- RDLANE with an immediate lane number (09 R121). -/
def execRdlaneImm (_h : Hdr) (d a lane : BitVec 6) (s : State) : Res :=
  issue (.rdlaneImm _h d a lane) s fun c => simple c fun c =>
    once c fun g => putS g d.toNat (laneRead c.r a.toNat lane.toNat)

/-- SSETP (09 R112). -/
def execSsetp (_h : Hdr) (cc : IntCond) (d : BitVec 3) (a b : BitVec 6) (s : State) : Res :=
  issue (.ssetp _h cc d a b) s fun c => simple c fun c =>
    once c fun g => putQ g d.toNat (intCond cc (getS c.r a.toNat) (getS c.r b.toNat))

/-- A Q-class instruction that may raise one cause in every ACT lane; `ok` gives the group afterwards. -/
def uniTry (c : Ctx) (f : Except Cause Group) : State :=
  if c.on = 0 then simple c fun c => c.g
  else
    match f with
    | .error x => orTrap c 0 (onAct c x) fun c => c.s
    | .ok g => simple c fun _ => g

/-- AR.SET for a space (09 R122). -/
def arSet (c : Ctx) (sp : BitVec 4) (d : BitVec 4) (a b : BitVec 6) : State :=
  let lo := getS2 c.r a.toNat
  let hi := getS2 c.r b.toNat
  uniTry c (if hi < lo then .error (causeBounds 0) else .ok (setA c.g d.toNat ⟨lo, lo, hi, sp, 15⟩))

/-- AR.SET.global (09 R122). -/
def execArSetGlobal (_h : Hdr) (d : BitVec 4) (a b : BitVec 6) (s : State) : Res :=
  issue (.arSetGlobal _h d a b) s fun c => arSet c 0 d a b

/-- AR.SET.vault (09 R122). -/
def execArSetVault (_h : Hdr) (d : BitVec 4) (a b : BitVec 6) (s : State) : Res :=
  issue (.arSetVault _h d a b) s fun c => arSet c 1 d a b

/-- AR.SET.system (09 R122). -/
def execArSetSystem (_h : Hdr) (d : BitVec 4) (a b : BitVec 6) (s : State) : Res :=
  issue (.arSetSystem _h d a b) s fun c => arSet c 2 d a b

/-- The pointer moves to `p`, which must lie in the range, LIMIT included (09 R123). -/
def arMove (c : Ctx) (d : BitVec 4) (p : Int) : State :=
  let x := getA c.r d.toNat
  uniTry c (if p < x.base.toNat ∨ x.limit.toNat < p then .error (causeBounds 0)
    else .ok (setA c.g d.toNat { x with ptr := BitVec.ofInt 64 p }))

/-- AR.PTR (09 R123). -/
def execArPtr (_h : Hdr) (d : BitVec 4) (a : BitVec 6) (s : State) : Res :=
  issue (.arPtr _h d a) s fun c => arMove c d (getS2 c.r a.toNat).toNat

/-- AR.ADV by a register (09 R123). -/
def execArAdv (_h : Hdr) (d : BitVec 4) (a : BitVec 6) (s : State) : Res :=
  issue (.arAdv _h d a) s fun c => arMove c d ((getA c.r d.toNat).ptr.toNat + (getS c.r a.toNat).toInt)

/-- AR.ADV by a short immediate (09 R123). -/
def execArAdvImm (_h : Hdr) (d : BitVec 4) (imm : BitVec 6) (s : State) : Res :=
  issue (.arAdvImm _h d imm) s fun c => arMove c d ((getA c.r d.toNat).ptr.toNat + simm6 imm)

/-- AR.ADV by an extension word (09 R123). -/
def execArAdvX (_h : Hdr) (d : BitVec 4) (imm : BitVec 32) (s : State) : Res :=
  issue (.arAdvX _h d imm) s fun c => arMove c d ((getA c.r d.toNat).ptr.toNat + imm.toInt)

/-- AR.RD (09 R125). -/
def execArRd (_h : Hdr) (d : BitVec 6) (a : BitVec 4) (part : ArPart) (s : State) : Res :=
  issue (.arRd _h d a part) s fun c => simple c fun c =>
    once c fun g => putS2 g d.toNat (aregPart (getA c.r a.toNat) (codeArPart part).toNat)

/-- AR.NARROW (09 R124). -/
def execArNarrow (_h : Hdr) (d : BitVec 4) (a b : BitVec 6) (s : State) : Res :=
  issue (.arNarrow _h d a b) s fun c =>
    let x := getA c.r d.toNat
    let lo := getS2 c.r a.toNat
    let hi := getS2 c.r b.toNat
    uniTry c (if x.base ≤ lo ∧ lo ≤ hi ∧ hi ≤ x.limit then
        .ok (setA c.g d.toNat { x with base := lo, limit := hi, ptr := if x.ptr < lo ∨ hi < x.ptr then lo else x.ptr })
      else .error (causeBounds 0))

/-- AR.PERM (09 R124). -/
def execArPerm (_h : Hdr) (d msk : BitVec 4) (s : State) : Res :=
  issue (.arPerm _h d msk) s fun c => simple c fun c =>
    once c fun g => let x := getA c.r d.toNat; setA g d.toNat { x with perm := x.perm &&& msk }

/-- IX.SET (09 R127): ENC_ILLEGAL when the window leaves the lane registers. -/
def execIxSet (_h : Hdr) (d : BitVec 2) (base cntM1 : BitVec 6) (s : State) : Res :=
  issue (.ixSet _h d base cntM1) s fun c =>
    if regsOf c.g < base.toNat + cntM1.toNat + 1 then trapWith c c.act causeEnc
    else simple c fun c => once c fun g => setI g d.toNat ⟨BitVec.ofNat 7 (cntM1.toNat + 1), base⟩

/-- IX.ADV (09 R127). With COUNT 0 the check lets b = 64 pass in a group of 64 registers, which the 6 bits of BASE cannot hold: BASE becomes 0
(DESIGN CHOICE, unsafe; assumption 94). -/
def execIxAdv (_h : Hdr) (d : BitVec 2) (imm : BitVec 6) (s : State) : Res :=
  issue (.ixAdv _h d imm) s fun c =>
    let x := getI c.r d.toNat
    let b := x.base.toNat + simm6 imm
    uniTry c (if b < 0 ∨ (regsOf c.g : Int) < b + x.count.toNat then .error (causeBounds 0)
      else .ok (setI c.g d.toNat { x with base := BitVec.ofInt 6 b }))

/-- A read of a register named through an index register may meet a release (03 R51; 09 R128). -/
def hintIndexed (c : Ctx) (reg : Nat) : Ctx :=
  if c.g.released.getLsbD reg && c.g.released != 0 then
    let (b, s) := drawBit c.s
    { c with s := s, hint := if b then c.on else c.hint }
  else c

/-- MOVX, reading (09 R128). BOUNDS is raised for every active lane when the element lies outside the window. -/
def execMovxRead (_h : Hdr) (d : BitVec 6) (a : BitVec 2) (elt : BitVec 6) (s : State) : Res :=
  issue (.movxRead _h d a elt) s fun c =>
    let x := getI c.r a.toNat
    let reg := x.base.toNat + elt.toNat
    if x.count.toNat ≤ elt.toNat then orTrap c 0 (onActive c (causeBounds 0)) fun c => retire c c.g
    else simple (hintIndexed c reg) fun c => forLanes c.g c.on fun g l => putV g d.toNat l (getV c.r reg l)

/-- MOVX, writing (09 R128): the indexed register is the one written. -/
def execMovxWrite (_h : Hdr) (d : BitVec 2) (a elt : BitVec 6) (s : State) : Res :=
  issue (.movxWrite _h d a elt) s fun c =>
    let x := getI c.r d.toNat
    let reg := x.base.toNat + elt.toNat
    if x.count.toNat ≤ elt.toNat then orTrap c 0 (onActive c (causeBounds 0)) fun c => retire c c.g
    else simple { c with wr := [reg] } fun c => forLanes c.g c.on fun g l => putV g reg l (getV c.r a.toNat l)

/-- Every older access of the group has given lt its stamp (09 R130; 13 R161, R163): no store of it is buffered or on its way, and on a
D-core, whose accesses are performed in issue order (13 R165), no load. -/
def ltSettled (c : Ctx) : Bool :=
  !(c.s.cbuf.any fun y => y.gids.contains c.g.gid) &&
    !(c.s.accs.any fun a => a.gid == c.g.gid && (a.ent == 16 && a.op == .store && !a.sys || !formL c.g && a.ent < 16))

/-- SRD (09 R129, R130): sr.lane to each active lane, every other register once. A read of sr.lt waits for the group's older accesses. -/
def execSrd (_h : Hdr) (d : BitVec 6) (sr : SReg) (s : State) : Res :=
  issue (.srd _h d sr) s fun c =>
    if sr = .lt ∧ c.on ≠ 0 ∧ ltSettled c = false then again c
    else simple c fun c =>
      if sr = .lane then forLanes c.g c.on fun g l => putV g d.toNat l (BitVec.ofNat 32 l)
      else once c fun g =>
        let v := srVal c.s c.r 0 sr
        if srWide sr then putS2 g d.toNat v else putS g d.toNat (v.setWidth 32)

/-- SWR (09 R129). -/
def execSwr (_h : Hdr) (d : BitVec 6) (sr : SReg) (s : State) : Res :=
  issue (.swr _h d sr) s fun c => simple c fun c => once c fun g => srWrite g sr (getS c.r d.toNat)

end Sys2Proof.Machine
end

