-- ==== Sys2Proof/Machine/Dispatch.lean ====
section
/-! DEFINITION. One arm per instruction: the meaning each constructor calls. -/

namespace Sys2Proof.Machine

/-- The meaning of one instruction. -/
def exec (i : Instr) (s : State) : Host.Outcome State Fault Refusal :=
  match i with
  | .bra h o => Sys2Proof.Machine.execBra h o s
  | .bru h o => Sys2Proof.Machine.execBru h o s
  | .call h o => Sys2Proof.Machine.execCall h o s
  | .brx h a => Sys2Proof.Machine.execBrx h a s
  | .callx h a => Sys2Proof.Machine.execCallx h a s
  | .jtb h a b => Sys2Proof.Machine.execJtb h a b s
  | .ret h => Sys2Proof.Machine.execRet h s
  | .exit h => Sys2Proof.Machine.execExit h s
  | .yield h => Sys2Proof.Machine.execYield h s
  | .nop h => Sys2Proof.Machine.execNop h s
  | .meet h o => Sys2Proof.Machine.execMeet h o s
  | .meetX h a => Sys2Proof.Machine.execMeetX h a s
  | .meetR h => Sys2Proof.Machine.execMeetR h s
  | .add h sat w64 d a b => Sys2Proof.Machine.execAdd h sat w64 d a b s
  | .addImm h w64 d a imm => Sys2Proof.Machine.execAddImm h w64 d a imm s
  | .movi h d imm => Sys2Proof.Machine.execMovi h d imm s
  | .sel h d a b => Sys2Proof.Machine.execSel h d a b s
  | .sub h sat w64 d a b => Sys2Proof.Machine.execSub h sat w64 d a b s
  | .mul h sat w64 d a b => Sys2Proof.Machine.execMul h sat w64 d a b s
  | .mad h sat w64 d a b => Sys2Proof.Machine.execMad h sat w64 d a b s
  | .mulh h uns w64 d a b => Sys2Proof.Machine.execMulh h uns w64 d a b s
  | .idiv h uns w64 d a b => Sys2Proof.Machine.execIdiv h uns w64 d a b s
  | .irem h uns w64 d a b => Sys2Proof.Machine.execIrem h uns w64 d a b s
  | .min h uns w64 d a b => Sys2Proof.Machine.execMin h uns w64 d a b s
  | .max h uns w64 d a b => Sys2Proof.Machine.execMax h uns w64 d a b s
  | .and h d a b => Sys2Proof.Machine.execAnd h d a b s
  | .or h d a b => Sys2Proof.Machine.execOr h d a b s
  | .xor h d a b => Sys2Proof.Machine.execXor h d a b s
  | .andn h d a b => Sys2Proof.Machine.execAndn h d a b s
  | .bfx h d a b => Sys2Proof.Machine.execBfx h d a b s
  | .bfxU h d a b => Sys2Proof.Machine.execBfxU h d a b s
  | .bfi h d a b => Sys2Proof.Machine.execBfi h d a b s
  | .mov h d a => Sys2Proof.Machine.execMov h d a s
  | .popc h d a => Sys2Proof.Machine.execPopc h d a s
  | .clz h d a => Sys2Proof.Machine.execClz h d a s
  | .ctz h d a => Sys2Proof.Machine.execCtz h d a s
  | .brev h d a => Sys2Proof.Machine.execBrev h d a s
  | .abs h d a => Sys2Proof.Machine.execAbs h d a s
  | .absSat h d a => Sys2Proof.Machine.execAbsSat h d a s
  | .mov64 h d a => Sys2Proof.Machine.execMov64 h d a s
  | .popc64 h d a => Sys2Proof.Machine.execPopc64 h d a s
  | .clz64 h d a => Sys2Proof.Machine.execClz64 h d a s
  | .ctz64 h d a => Sys2Proof.Machine.execCtz64 h d a s
  | .brev64 h d a => Sys2Proof.Machine.execBrev64 h d a s
  | .abs64 h d a => Sys2Proof.Machine.execAbs64 h d a s
  | .absSat64 h d a => Sys2Proof.Machine.execAbsSat64 h d a s
  | .shl h w64 d a b => Sys2Proof.Machine.execShl h w64 d a b s
  | .shr h w64 d a b => Sys2Proof.Machine.execShr h w64 d a b s
  | .sar h w64 d a b => Sys2Proof.Machine.execSar h w64 d a b s
  | .rol h d a b => Sys2Proof.Machine.execRol h d a b s
  | .shlImm h w64 d a amt => Sys2Proof.Machine.execShlImm h w64 d a amt s
  | .shrImm h w64 d a amt => Sys2Proof.Machine.execShrImm h w64 d a amt s
  | .sarImm h w64 d a amt => Sys2Proof.Machine.execSarImm h w64 d a amt s
  | .rolImm h w64 d a amt => Sys2Proof.Machine.execRolImm h w64 d a amt s
  | .sadd h w64 d a b => Sys2Proof.Machine.execSadd h w64 d a b s
  | .ssub h w64 d a b => Sys2Proof.Machine.execSsub h w64 d a b s
  | .smul h w64 d a b => Sys2Proof.Machine.execSmul h w64 d a b s
  | .sand h w64 d a b => Sys2Proof.Machine.execSand h w64 d a b s
  | .sor h w64 d a b => Sys2Proof.Machine.execSor h w64 d a b s
  | .sxor h w64 d a b => Sys2Proof.Machine.execSxor h w64 d a b s
  | .sshl h w64 d a b => Sys2Proof.Machine.execSshl h w64 d a b s
  | .sshr h w64 d a b => Sys2Proof.Machine.execSshr h w64 d a b s
  | .smov h w64 d a => Sys2Proof.Machine.execSmov h w64 d a s
  | .smovi h d imm => Sys2Proof.Machine.execSmovi h d imm s
  | .saddImm h d a imm => Sys2Proof.Machine.execSaddImm h d a imm s
  | .rdlane h d a b => Sys2Proof.Machine.execRdlane h d a b s
  | .rdlaneImm h d a lane => Sys2Proof.Machine.execRdlaneImm h d a lane s
  | .ssetp h cc d a b => Sys2Proof.Machine.execSsetp h cc d a b s
  | .arSetGlobal h d a b => Sys2Proof.Machine.execArSetGlobal h d a b s
  | .arSetVault h d a b => Sys2Proof.Machine.execArSetVault h d a b s
  | .arSetSystem h d a b => Sys2Proof.Machine.execArSetSystem h d a b s
  | .arPtr h d a => Sys2Proof.Machine.execArPtr h d a s
  | .arAdv h d a => Sys2Proof.Machine.execArAdv h d a s
  | .arAdvImm h d imm => Sys2Proof.Machine.execArAdvImm h d imm s
  | .arRd h d a part => Sys2Proof.Machine.execArRd h d a part s
  | .arNarrow h d a b => Sys2Proof.Machine.execArNarrow h d a b s
  | .arPerm h d msk => Sys2Proof.Machine.execArPerm h d msk s
  | .ixSet h d base cntM1 => Sys2Proof.Machine.execIxSet h d base cntM1 s
  | .ixAdv h d imm => Sys2Proof.Machine.execIxAdv h d imm s
  | .movxRead h d a elt => Sys2Proof.Machine.execMovxRead h d a elt s
  | .movxWrite h d a elt => Sys2Proof.Machine.execMovxWrite h d a elt s
  | .isetp h w64 cc d a b => Sys2Proof.Machine.execIsetp h w64 cc d a b s
  | .pand h d a b => Sys2Proof.Machine.execPand h d a b s
  | .por h d a b => Sys2Proof.Machine.execPor h d a b s
  | .pxor h d a b => Sys2Proof.Machine.execPxor h d a b s
  | .selp h d a b => Sys2Proof.Machine.execSelp h d a b s
  | .fadd h ty d a b => Sys2Proof.Machine.execFadd h ty d a b s
  | .fsub h ty d a b => Sys2Proof.Machine.execFsub h ty d a b s
  | .fmul h ty d a b => Sys2Proof.Machine.execFmul h ty d a b s
  | .fmac h ty d a b => Sys2Proof.Machine.execFmac h ty d a b s
  | .fmin h ty d a b => Sys2Proof.Machine.execFmin h ty d a b s
  | .fmax h ty d a b => Sys2Proof.Machine.execFmax h ty d a b s
  | .fsetp h cc d a b => Sys2Proof.Machine.execFsetp h cc d a b s
  | .fclass h w64 d a => Sys2Proof.Machine.execFclass h w64 d a s
  | .fsetpF64 h cc d a b => Sys2Proof.Machine.execFsetpF64 h cc d a b s
  | .fdiv h w64 d a b => Sys2Proof.Machine.execFdiv h w64 d a b s
  | .fsqrt h ty d a => Sys2Proof.Machine.execFsqrt h ty d a s
  | .frcp h ty d a => Sys2Proof.Machine.execFrcp h ty d a s
  | .frsq h ty d a => Sys2Proof.Machine.execFrsq h ty d a s
  | .fexp2 h ty d a => Sys2Proof.Machine.execFexp2 h ty d a s
  | .flog2 h ty d a => Sys2Proof.Machine.execFlog2 h ty d a s
  | .ftanh h ty d a => Sys2Proof.Machine.execFtanh h ty d a s
  | .fsin h ty d a => Sys2Proof.Machine.execFsin h ty d a s
  | .fcos h ty d a => Sys2Proof.Machine.execFcos h ty d a s
  | .fsigm h ty d a => Sys2Proof.Machine.execFsigm h ty d a s
  | .frndRn h ty d a => Sys2Proof.Machine.execFrndRn h ty d a s
  | .frndRz h ty d a => Sys2Proof.Machine.execFrndRz h ty d a s
  | .frndRu h ty d a => Sys2Proof.Machine.execFrndRu h ty d a s
  | .frndRd h ty d a => Sys2Proof.Machine.execFrndRd h ty d a s
  | .fscale h ty d a b => Sys2Proof.Machine.execFscale h ty d a b s
  | .cvtI2F h rnd d a t => Sys2Proof.Machine.execCvtI2F h rnd d a t s
  | .cvtF2I h rnd d a t => Sys2Proof.Machine.execCvtF2I h rnd d a t s
  | .cvtF2F h rnd d a t => Sys2Proof.Machine.execCvtF2F h rnd d a t s
  | .pack8 h d a c => Sys2Proof.Machine.execPack8 h d a c s
  | .unpk8 h d a fmt => Sys2Proof.Machine.execUnpk8 h d a fmt s
  | .pack4 h d a c => Sys2Proof.Machine.execPack4 h d a c s
  | .unpk4 h d a => Sys2Proof.Machine.execUnpk4 h d a s
  | .scaleBlk h d a c => Sys2Proof.Machine.execScaleBlk h d a c s
  | .rmix h d a b => Sys2Proof.Machine.execRmix h d a b s
  | .shflIdx h d a b => Sys2Proof.Machine.execShflIdx h d a b s
  | .shflUp h d a b => Sys2Proof.Machine.execShflUp h d a b s
  | .shflDown h d a b => Sys2Proof.Machine.execShflDown h d a b s
  | .shflXor h d a b => Sys2Proof.Machine.execShflXor h d a b s
  | .shflIdxImm h d a imm => Sys2Proof.Machine.execShflIdxImm h d a imm s
  | .shflUpImm h d a imm => Sys2Proof.Machine.execShflUpImm h d a imm s
  | .shflDownImm h d a imm => Sys2Proof.Machine.execShflDownImm h d a imm s
  | .shflXorImm h d a imm => Sys2Proof.Machine.execShflXorImm h d a imm s
  | .voteAll h d a => Sys2Proof.Machine.execVoteAll h d a s
  | .voteAny h d a => Sys2Proof.Machine.execVoteAny h d a s
  | .voteBal h d a => Sys2Proof.Machine.execVoteBal h d a s
  | .matchLanes h d a => Sys2Proof.Machine.execMatchLanes h d a s
  | .red h d a fn => Sys2Proof.Machine.execRed h d a fn s
  | .scan h d a c => Sys2Proof.Machine.execScan h d a c s
  | .elect h d => Sys2Proof.Machine.execElect h d s
  | .ldReg h sz d a b => Sys2Proof.Machine.execLdReg h sz d a b s
  | .ldImm h sz d a imm => Sys2Proof.Machine.execLdImm h sz d a imm s
  | .stReg h sz d a b => Sys2Proof.Machine.execStReg h sz d a b s
  | .stImm h sz d a imm => Sys2Proof.Machine.execStImm h sz d a imm s
  | .ldNt h sz d a b => Sys2Proof.Machine.execLdNt h sz d a b s
  | .stNt h sz d a b => Sys2Proof.Machine.execStNt h sz d a b s
  | .prfReg h lvl a b => Sys2Proof.Machine.execPrfReg h lvl a b s
  | .prfImm h lvl a imm => Sys2Proof.Machine.execPrfImm h lvl a imm s
  | .ldsImm h w64 d a imm => Sys2Proof.Machine.execLdsImm h w64 d a imm s
  | .ldsReg h w64 d a b => Sys2Proof.Machine.execLdsReg h w64 d a b s
  | .stsImm h w64 d a imm => Sys2Proof.Machine.execStsImm h w64 d a imm s
  | .stsReg h w64 d a b => Sys2Proof.Machine.execStsReg h w64 d a b s
  | .fence h sc pred succ => Sys2Proof.Machine.execFence h sc pred succ s
  | .barInit h a b => Sys2Proof.Machine.execBarInit h a b s
  | .barExp h d a b => Sys2Proof.Machine.execBarExp h d a b s
  | .barArr h a => Sys2Proof.Machine.execBarArr h a s
  | .barWait h d a b => Sys2Proof.Machine.execBarWait h d a b s
  | .barTest h d a b => Sys2Proof.Machine.execBarTest h d a b s
  | .barInv h a => Sys2Proof.Machine.execBarInv h a s
  | .tbar h n => Sys2Proof.Machine.execTbar h n s
  | .spawn h d a b => Sys2Proof.Machine.execSpawn h d a b s
  | .rodCfg h a b => Sys2Proof.Machine.execRodCfg h a b s
  | .rodStrike h a => Sys2Proof.Machine.execRodStrike h a s
  | .chimeAdd h d a => Sys2Proof.Machine.execChimeAdd h d a s
  | .chimeSet h d a => Sys2Proof.Machine.execChimeSet h d a s
  | .chimeWait h d a => Sys2Proof.Machine.execChimeWait h d a s
  | .chimeRd h d a => Sys2Proof.Machine.execChimeRd h d a s
  | .qpop h d a wait => Sys2Proof.Machine.execQpop h d a wait s
  | .qdone h d a => Sys2Proof.Machine.execQdone h d a s
  | .launch h a => Sys2Proof.Machine.execLaunch h a s
  | .gangPrep h d a => Sys2Proof.Machine.execGangPrep h d a s
  | .gangCommit h d a => Sys2Proof.Machine.execGangCommit h d a s
  | .irq h a => Sys2Proof.Machine.execIrq h a s
  | .preempt h d a b => Sys2Proof.Machine.execPreempt h d a b s
  | .resume h d a => Sys2Proof.Machine.execResume h d a s
  | .srd h d sr => Sys2Proof.Machine.execSrd h d sr s
  | .swr h d sr => Sys2Proof.Machine.execSwr h d sr s
  | .eqp h idx => Sys2Proof.Machine.execEqp h idx s
  | .migr h => Sys2Proof.Machine.execMigr h s
  | .trap h code => Sys2Proof.Machine.execTrap h code s
  | .tret h => Sys2Proof.Machine.execTret h s
  | .halt h => Sys2Proof.Machine.execHalt h s
  | .frecRd h d a => Sys2Proof.Machine.execFrecRd h d a s
  | .bkpt h tag => Sys2Proof.Machine.execBkpt h tag s
  | .rgnEnter h rgn => Sys2Proof.Machine.execRgnEnter h rgn s
  | .rgnLeave h rgn => Sys2Proof.Machine.execRgnLeave h rgn s
  | .traceMark h d => Sys2Proof.Machine.execTraceMark h d s
  | .ffma h ty d a b c rnd => Sys2Proof.Machine.execFfma h ty d a b c rnd s
  | .ldi h d imm => Sys2Proof.Machine.execLdi h d imm s
  | .smoviX h d imm => Sys2Proof.Machine.execSmoviX h d imm s
  | .saddX h d a imm => Sys2Proof.Machine.execSaddX h d a imm s
  | .arAdvX h d imm => Sys2Proof.Machine.execArAdvX h d imm s
  | .ldOrdered h d a b ord sc sz => Sys2Proof.Machine.execLdOrdered h d a b ord sc sz s
  | .stOrdered h d a b ord sc sz => Sys2Proof.Machine.execStOrdered h d a b ord sc sz s
  | .amo h d a b c ord sc sz op => Sys2Proof.Machine.execAmo h d a b c ord sc sz op s
  | .lr h d a b ord sc sz => Sys2Proof.Machine.execLr h d a b ord sc sz s
  | .sc h d a b c ord scp sz => Sys2Proof.Machine.execSc h d a b c ord scp sz s
  | .xcpIn h d a b c bar => Sys2Proof.Machine.execXcpIn h d a b c bar s
  | .xcpOut h d a b c bar => Sys2Proof.Machine.execXcpOut h d a b c bar s
  | .xcpV h d a b bar => Sys2Proof.Machine.execXcpV h d a b bar s
  | .xgath h d a b c bar => Sys2Proof.Machine.execXgath h d a b c bar s
  | .xred h d a b c bar ty => Sys2Proof.Machine.execXred h d a b c bar ty s
  | .mma h ty d a b c bar mM1 row z => Sys2Proof.Machine.execMma h ty d a b c bar mM1 row z s
  | .mmas h ty d a b c bar mM1 row z sp => Sys2Proof.Machine.execMmas h ty d a b c bar mM1 row z sp s
  | .tld h d a b c bar rowsM1 row fmt => Sys2Proof.Machine.execTld h d a b c bar rowsM1 row fmt s
  | .tst h d a b c bar rowsM1 row fmt rnd scl => Sys2Proof.Machine.execTst h d a b c bar rowsM1 row fmt rnd scl s
  | .trd h d a b col idx => Sys2Proof.Machine.execTrd h d a b col idx s
  | .twr h d a b col idx => Sys2Proof.Machine.execTwr h d a b col idx s
  | .tscale h d a b rowsM1 row srow mode rnd => Sys2Proof.Machine.execTscale h d a b rowsM1 row srow mode rnd s
  | .tzero h d a rowsM1 row => Sys2Proof.Machine.execTzero h d a rowsM1 row s
  | .holdTimeout gid e => Sys2Proof.Machine.execHoldTimeout gid e s
  | .deferredRotation gid e => Sys2Proof.Machine.execDeferredRotation gid e s
  | .variableLatencyResult gid k => Sys2Proof.Machine.execVariableLatencyResult gid k s
  | .tokenResolution gid e => Sys2Proof.Machine.execTokenResolution gid e s
  | .ltAdvance gid => Sys2Proof.Machine.execLtAdvance gid s
  | .rebase => Sys2Proof.Machine.execRebase s
  | .coalescingBufferTimeout core k => Sys2Proof.Machine.execCoalescingBufferTimeout core k s
  | .storeAtHome core k => Sys2Proof.Machine.execStoreAtHome core k s
  | .homeRead k => Sys2Proof.Machine.execHomeRead k s
  | .lineReply k => Sys2Proof.Machine.execLineReply k s
  | .amoAtHome k => Sys2Proof.Machine.execAmoAtHome k s
  | .lrAtHome k => Sys2Proof.Machine.execLrAtHome k s
  | .scAtHome k => Sys2Proof.Machine.execScAtHome k s
  | .reservationTimeout k => Sys2Proof.Machine.execReservationTimeout k s
  | .scPrecedenceExpiry k => Sys2Proof.Machine.execScPrecedenceExpiry k s
  | .vaultAccess k => Sys2Proof.Machine.execVaultAccess k s
  | .remoteRequestAtTarget q => Sys2Proof.Machine.execRemoteRequestAtTarget q s
  | .remoteCompletion k r => Sys2Proof.Machine.execRemoteCompletion k r s
  | .linkPortDown port => Sys2Proof.Machine.execLinkPortDown port s
  | .hostCxlRead port pa => Sys2Proof.Machine.execHostCxlRead port pa s
  | .hostCxlWrite port pa msk data => Sys2Proof.Machine.execHostCxlWrite port pa msk data s
  | .hostReadForOwnership port pa => Sys2Proof.Machine.execHostReadForOwnership port pa s
  | .hostWriteBack port pa data => Sys2Proof.Machine.execHostWriteBack port pa data s
  | .engineBurst op el => Sys2Proof.Machine.execEngineBurst op el s
  | .engineDelivery op => Sys2Proof.Machine.execEngineDelivery op s
  | .engineFault op => Sys2Proof.Machine.execEngineFault op s
  | .engineOpComplete op => Sys2Proof.Machine.execEngineOpComplete op s
  | .matrixOpStart core k => Sys2Proof.Machine.execMatrixOpStart core k s
  | .matrixRowWrite core k row => Sys2Proof.Machine.execMatrixRowWrite core k row s
  | .matrixOpComplete core k => Sys2Proof.Machine.execMatrixOpComplete core k s
  | .pageFaultBatchTimer die => Sys2Proof.Machine.execPageFaultBatchTimer die s
  | .faultBatchWrite die => Sys2Proof.Machine.execFaultBatchWrite die s
  | .fresRetry pasid va pages => Sys2Proof.Machine.execFresRetry pasid va pages s
  | .fresDeny pasid va pages => Sys2Proof.Machine.execFresDeny pasid va pages s
  | .invRange pasid va pages s2 => Sys2Proof.Machine.execInvRange pasid va pages s2 s
  | .invPasid pasid => Sys2Proof.Machine.execInvPasid pasid s
  | .invAll => Sys2Proof.Machine.execInvAll s
  | .invNone => Sys2Proof.Machine.execInvNone s
  | .invAck k party => Sys2Proof.Machine.execInvAck k party s
  | .groupSave gid => Sys2Proof.Machine.execGroupSave gid s
  | .groupRestore gid core => Sys2Proof.Machine.execGroupRestore gid core s
  | .preemptDeadline k => Sys2Proof.Machine.execPreemptDeadline k s
  | .contextTeardown pasid code => Sys2Proof.Machine.execContextTeardown pasid code s
  | .migration gid => Sys2Proof.Machine.execMigration gid s
  | .placementChoice pair cand => Sys2Proof.Machine.execPlacementChoice pair cand s
  | .candidateReservation pair cand => Sys2Proof.Machine.execCandidateReservation pair cand s
  | .teamResourceRelease team => Sys2Proof.Machine.execTeamResourceRelease team s
  | .rodTimer pair rod => Sys2Proof.Machine.execRodTimer pair rod s
  | .stealTick pair => Sys2Proof.Machine.execStealTick pair s
  | .budgetExhausted gid => Sys2Proof.Machine.execBudgetExhausted gid s
  | .budget gid e => Sys2Proof.Machine.execBudget gid e s
  | .notifyWrite func off bytes val => Sys2Proof.Machine.execNotifyWrite func off bytes val s
  | .completionRecordWrite k => Sys2Proof.Machine.execCompletionRecordWrite k s
  | .revoke pasid fmask => Sys2Proof.Machine.execRevoke pasid fmask s
  | .revokeEffect => Sys2Proof.Machine.execRevokeEffect s
  | .biasToHost pa pages => Sys2Proof.Machine.execBiasToHost pa pages s
  | .biasToDevice pa pages => Sys2Proof.Machine.execBiasToDevice pa pages s
  | .biasCommandComplete => Sys2Proof.Machine.execBiasCommandComplete s
  | .irtsync intf vec => Sys2Proof.Machine.execIrtsync intf vec s
  | .keynew req => Sys2Proof.Machine.execKeynew req s
  | .keyfree req => Sys2Proof.Machine.execKeyfree req s
  | .asdset req => Sys2Proof.Machine.execAsdset req s
  | .attest req => Sys2Proof.Machine.execAttest req s
  | .gangPrepareMsg gid leader timeout => Sys2Proof.Machine.execGangPrepareMsg gid leader timeout s
  | .gangCommitMsg gid leader => Sys2Proof.Machine.execGangCommitMsg gid leader s
  | .gangCloseMsg gid leader => Sys2Proof.Machine.execGangCloseMsg gid leader s
  | .gangBreakMsg gid leader => Sys2Proof.Machine.execGangBreakMsg gid leader s
  | .gangMemberTimeout k => Sys2Proof.Machine.execGangMemberTimeout k s
  | .gangRouteFail dev => Sys2Proof.Machine.execGangRouteFail dev s
  | .gangReply gid dev ack => Sys2Proof.Machine.execGangReply gid dev ack s
  | .gangLeaderTimeout k => Sys2Proof.Machine.execGangLeaderTimeout k s
  | .asyncHalt slot => Sys2Proof.Machine.execAsyncHalt slot s
  | .groupStop gid => Sys2Proof.Machine.execGroupStop gid s
  | .stopRecordWrite slot => Sys2Proof.Machine.execStopRecordWrite slot s
  | .daccRead sel => Sys2Proof.Machine.execDaccRead sel s
  | .daccWrite sel val => Sys2Proof.Machine.execDaccWrite sel val s
  | .daccResume sel val => Sys2Proof.Machine.execDaccResume sel val s
  | .daccEnd sel => Sys2Proof.Machine.execDaccEnd sel s
  | .traceEnable core lo hi => Sys2Proof.Machine.execTraceEnable core lo hi s
  | .skewMeasurement k => Sys2Proof.Machine.execSkewMeasurement k s
  | .scrub vlt line err => Sys2Proof.Machine.execScrub vlt line err s
  | .rowRetirement row => Sys2Proof.Machine.execRowRetirement row s
  | .lineFence line => Sys2Proof.Machine.execLineFence line s
  | .islctlWrite n val => Sys2Proof.Machine.execIslctlWrite n val s
  | .operatingPointChange n => Sys2Proof.Machine.execOperatingPointChange n s
  | .plimitWrite val => Sys2Proof.Machine.execPlimitWrite val s
  | .powerLimiterTick watts => Sys2Proof.Machine.execPowerLimiterTick watts s
  | .fringWrite c val => Sys2Proof.Machine.execFringWrite c val s
  | .deviceReset b => Sys2Proof.Machine.execDeviceReset b s
  | .registerWrite off val => Sys2Proof.Machine.execRegisterWrite off val s
  | .registerStorageError gid => Sys2Proof.Machine.execRegisterStorageError gid s
  | .flitReplay port ok => Sys2Proof.Machine.execFlitReplay port ok s

end Sys2Proof.Machine
end

