-- ==== Sys2Proof/Machine/Step.lean ====
section
/-! DEFINITION. One step of the machine: the next turn of the agenda; and the state in which a given instruction issues next. -/

namespace Sys2Proof.Machine

/-- The turn may be taken on a device whose boot has failed: a reset, and the passing of time (31 R372). -/
def isReset : Turn → Bool
  | .event (.deviceReset _) => true
  | .tick (.ns _) => true
  | _ => false

/-- A write that reaches a device whose boot has failed through BAR0 or BAR2, which drop it: to a notify page or to a register
(25 R315 to R318; 31 R372). -/
def barDrops : Turn → Bool
  | .event i =>
    match i with
    | .notifyWrite .. => true
    | .registerWrite .. => true
    | .fringWrite .. => true
    | .fresRetry .. => true
    | .fresDeny .. => true
    | .invRange .. => true
    | .invPasid .. => true
    | .invAll => true
    | .invNone => true
    | .revoke .. => true
    | .biasToHost .. => true
    | .biasToDevice .. => true
    | .irtsync .. => true
    | .asyncHalt .. => true
    | .daccRead .. => true
    | .daccWrite .. => true
    | .daccResume .. => true
    | .daccEnd .. => true
    | .traceEnable .. => true
    | .islctlWrite .. => true
    | .plimitWrite .. => true
    | _ => false
  | _ => false

/-- One turn: an entry's instruction, a device step, or time (assumption 1). -/
def turnGo (s : State) : Turn → Host.Outcome State Fault Refusal
  | .issue gid e =>
    match prepare s gid e with
    | .over s => .next s
    | .run i s => exec i s
  | .event i => exec i s
  | .tick t => .next (tickGo s t)

/-- ONE STEP: the first turn of the agenda is taken; with none, nothing happens. A device whose boot has failed takes no turn but a
reset and the passing of time, and drops what is written to its registers (31 R372). -/
def step (s : State) : Host.Outcome State Fault Refusal :=
  match s.agenda with
  | [] => .next s
  | t :: rest =>
    if s.failed && barDrops t then .next { s with agenda := rest }
    else if s.failed && !isReset t then .fault .bootFailed
    else turnGo { s with agenda := rest } t

/-- Where `State.withFetchWord` places its code, and the tables that map it (17 R230 to R232). -/
def fetchBase : Nat := 0x100000

/-- A range leaf with one linear entry that maps 4 KiB from `fetchBase` to itself with X, W and R, and the descriptor of PASID 0 that
names it, both as 64-bit words with their addresses. -/
def fetchTables : List (Nat × Nat) :=
  [(48, fetchBase + 4096), (0, 1), (fetchBase + 4096, 257), (fetchBase + 4128, 15), (fetchBase + 4136, fetchBase),
    (fetchBase + 4144, fetchBase), (fetchBase + 4152, fetchBase + 4096)]

/-- A front group on core 0 at `fetchBase`, in system mode, W = 16 (31 R371). -/
def fetchGroup (s : State) : Group :=
  { newGroup s.nextId 0 0 0 s.nextId 0 0 16 (frontKernel (BitVec.ofNat 64 fetchBase) 64) (fullMask 16) (BitVec.ofNat 64 fetchBase) 0
      aregZero 0 with sys := true, front := true }

/-- The state with an instruction's words stored where the next step fetches, and all that this takes: a front group, its tables, and
a turn for it (assumption 11). -/
def State.withFetchWord (s : State) (nbits w : Nat) : State :=
  let ws := tableWords (w % 2 ^ nbits)
  let m := fetchTables.foldl (fun m x => writeN m x.1 8 x.2) s.mem
  { s with agenda := [.issue s.nextId 0], groups := s.groups ++ [fetchGroup s], nextId := s.nextId + 1, failed := false
           mem := writeN (writeN m fetchBase 4 ws.1.toNat) (fetchBase + 4) 4 ws.2.toNat }

end Sys2Proof.Machine
end

