-- ==== Sys2Proof/Safety.lean ====
section
/-! DEFINITION. The terms the statements are made of: when an instruction can issue, the state after it, and what a register
instruction may change. -/

namespace Sys2Proof.Safety

open Sys2Proof.Machine

/-- The ACT lanes of the entry the cursor stands on (03 R35). -/
def actLanes (g : Group) (cu : Cursor) : W64 := (entAt g cu.ent).act

/-- The active lanes of an instruction: the ACT lanes for which its guard is true (05 R65). -/
def active (i : Instr) (g : Group) (cu : Cursor) : W64 := guardLanes g i (actLanes g cu)

/-- The address of the next instruction in order (09 R101). -/
def fallThrough (i : Instr) (g : Group) (cu : Cursor) : W64 := nextPc g (entAt g cu.ent).pc (controlFamily i) (twoWords i)

/-- The state in which the cursor is gone and group `g'` stands in the place of the group of its number. Everything else, all of
memory and every other group among it, is as it was. -/
def after (s : State) (g' : Group) : State := setGroup { s with cur := none } g'

/-- Instruction `i` can issue in state `s`: the cursor stands on an entry of group `g`, the word is an instruction of the group
(05 R74), its mode admits it (05 R72), its entry waits for no access of an earlier issue (13 R165), no result of the group is outstanding
(03 R49) and no register released (03 R51), a lane lives, the core's trace is off for the context, and the instruction has not been tagged
for a sample (29 R351, R355). -/
structure Runs (i : Instr) (s : State) (cu : Cursor) (g : Group) : Prop where
  cursor : s.cur = some cu
  group : getGroup s cu.gid = some g
  legal : encOk g i (entAt g cu.ent).pc = true
  mode : privileged i = true → g.sys = true
  ready : (entAt g cu.ent).busy = false
  settled : g.pend = []
  kept : g.released = 0
  alive : liveMask g ≠ 0
  untraced : tracing s g.core g.pasid = false
  unsampled : mapGet 0 s.tags (16 * g.gid + cu.ent) = 0

/-- What an instruction writes: for each active lane its v and p registers, once its s, q, a and i registers, as lists of register
numbers and values. `late` marks a result of variable latency, which may be outstanding after the instruction (03 R48, R49). -/
structure Effect where
  v : Nat → List (Nat × W32) := fun _ => []
  p : Nat → List (Nat × Bool) := fun _ => []
  s : List (Nat × W32) := []
  q : List (Nat × Bool) := []
  a : List (Nat × AReg) := []
  i : List (Nat × IReg) := []
  late : Bool := false

/-- The value a list of writes gives register `r`, else `d`. -/
def look {α : Type} (l : List (Nat × α)) (r : Nat) (d : α) : α := ((l.find? fun x => x.1 == r).map (·.2)).getD d

/-- A group differs only in its registers, its lanes, its split table, its frames and what retirement counts. -/
def OnlyRegs (g g' : Group) : Prop :=
  g' = { g with v := g'.v, p := g'.p, s := g'.s, a := g'.a, q := g'.q, i := g'.i, lanes := g'.lanes, ents := g'.ents,
                frames := g'.frames, retired := g'.retired, released := g'.released, pend := g'.pend, spark := g'.spark }

/-- The lanes of `act` go on at `next`; no lane's call stack, spill depth, exit or parking changes, and the meeting address of a
lane that is not held at it does not. -/
structure GoesOn (g g' : Group) (act : W64) (next : Nat → W64) : Prop where
  count : g'.lanes.length = g.lanes.length
  pc : ∀ l, l < g.lanes.length → (laneAt g' l).pc = if act.getLsbD l then next l else (laneAt g l).pc
  stack : ∀ l, (laneAt g' l).stack = (laneAt g l).stack
  depth : ∀ l, (laneAt g' l).sd = (laneAt g l).sd
  exited : ∀ l, (laneAt g' l).exited = (laneAt g l).exited
  park : ∀ l, (laneAt g' l).park = (laneAt g l).park
  meet : ∀ l, (laneAt g l).held = false → (laneAt g' l).meet = (laneAt g l).meet

/-- The trap frames stay: only frames all of whose lanes have exited may go, from the top (17 R213). -/
structure FramesStay (g g' : Group) : Prop where
  below : g'.frames <+: g.frames
  same : (∀ f, g.frames.getLast? = some f → f.h &&& liveMask g ≠ 0) → g'.frames = g.frames

/-- The registers of `g'` are those of `g` but for what `f` writes in the lanes of `on`; a write to pt or qt is discarded
(05 R58). -/
structure RegsAre (g g' : Group) (on : W64) (f : Effect) : Prop where
  v : ∀ r l, l < 64 → getV g' r l = if l < g.w ∧ on.getLsbD l = true then look (f.v l) r (getV g r l) else getV g r l
  p : ∀ r l, l < 64 → r ≠ 7 →
    getPl g' r l = if l < g.w ∧ on.getLsbD l = true then look (f.p l) r (getPl g r l) else getPl g r l
  pt : ∀ l, getPl g' 7 l = getPl g 7 l
  s : ∀ r, getS g' r = if on ≠ 0 then look f.s r (getS g r) else getS g r
  q : ∀ r, r ≠ 7 → getQ g' r = if on ≠ 0 then look f.q r (getQ g r) else getQ g r
  qt : getQ g' 7 = true
  a : ∀ r, getA g' r = if on ≠ 0 then look f.a r (getA g r) else getA g r
  i : ∀ r, getI g' r = if on ≠ 0 then look f.i r (getI g r) else getI g r

/-- A register instruction, where `P` holds of the state, its group and the active lanes: it completes; its registers, once
outstanding results are written, are as `f` gives them from the state and the group it read, nothing is outstanding unless it is
late, its ACT lanes go on at the fall-through, and nothing else changes. -/
def RegOpWhen (i : Instr) (P : State → Group → W64 → Prop) (f : State → Group → W64 → Effect) : Prop :=
  ∀ s cu g, Runs i s cu g → P s g (active i g cu) → ∃ g', exec i s = .next (after s g') ∧ OnlyRegs g g' ∧
    RegsAre g (landAll g') (active i g cu) (f s g (active i g cu)) ∧ ((f s g (active i g cu)).late = false → g'.pend = []) ∧
    GoesOn g g' (actLanes g cu) (fun _ => fallThrough i g cu) ∧ FramesStay g g'

/-- A register instruction that completes wherever it can issue. -/
def RegOp (i : Instr) (f : Group → W64 → Effect) : Prop := RegOpWhen i (fun _ _ _ => True) fun _ g on => f g on

/-- One register in each active lane. -/
def lane32 (d : BitVec 6) (x : Nat → W32) : Effect := { v := fun l => [(d.toNat, x l)] }

/-- A pair of registers in each active lane, the low word in the lower one (05 R58). -/
def lane64 (d : BitVec 6) (x : Nat → W64) : Effect :=
  { v := fun l => [(d.toNat, (x l).extractLsb' 0 32), (d.toNat + 1, (x l).extractLsb' 32 32)] }

/-- One register in each active lane, of variable latency. -/
def late32 (d : BitVec 6) (x : Nat → W32) : Effect := { lane32 d x with late := true }

/-- A pair of registers in each active lane, of variable latency. -/
def late64 (d : BitVec 6) (x : Nat → W64) : Effect := { lane64 d x with late := true }

/-- One predicate in each active lane. -/
def laneBool (d : BitVec 3) (x : Nat → Bool) : Effect := { p := fun l => [(d.toNat, x l)] }

/-- One uniform register. -/
def uni32 (d : BitVec 6) (x : W32) : Effect := { s := [(d.toNat, x)] }

/-- A pair of uniform registers (05 R58). -/
def uni64 (d : BitVec 6) (x : W64) : Effect :=
  { s := [(d.toNat, x.extractLsb' 0 32), (d.toNat + 1, x.extractLsb' 32 32)] }

/-- One address register. -/
def areg (d : BitVec 4) (x : AReg) : Effect := { a := [(d.toNat, x)] }

/-- One index register. -/
def ireg (d : BitVec 2) (x : IReg) : Effect := { i := [(d.toNat, x)] }

/-- An exact result in n bits: saturated to the signed range, or wrapped (07 R83; 09 R113). -/
def clip (n : Nat) (sat : Bool) (x : Int) : BitVec n :=
  BitVec.ofInt n (if sat then max (-(2 ^ (n - 1))) (min x (2 ^ (n - 1) - 1)) else x)

/-- An operand read unsigned or signed. -/
def num {n : Nat} (uns : Bool) (x : BitVec n) : Int := if uns then x.toNat else x.toInt

/-- Lane register `r` of lane `l`. -/
abbrev rd32 (g : Group) (r : BitVec 6) (l : Nat) : W32 := getV g r.toNat l

/-- Register pair `r` of lane `l` (05 R58). -/
abbrev rd64 (g : Group) (r : BitVec 6) (l : Nat) : W64 := getV2 g r.toNat l

/-- A pointer lies in the range of an address register, LIMIT included (09 R123). -/
abbrev InRange (x : AReg) (p : Int) : Prop := (x.base.toNat : Int) ≤ p ∧ p ≤ x.limit.toNat

/-- One result of a float type in each active lane (11 R133). -/
def fltD (late : Bool) (ty : FTy) (d : BitVec 6) (x : Nat → Nat) : Effect :=
  match ty with
  | .f64 => { lane64 d fun l => BitVec.ofNat 64 (x l) with late := late }
  | _ => { lane32 d fun l => BitVec.ofNat 32 (x l) with late := late }

/-- A function of three float operands in one lane: each element is read and the result rounded under the type's flush bit
(11 R133; 07 R92). -/
def flt3 (g : Group) (ty : FTy) (mode : RMode) (f : FVal → FVal → FVal → FVal) (a b c : BitVec 6) (l : Nat) : Nat :=
  perElem ty (fun x y z => roundF (ftyFmt ty) mode (ftyFlush g ty) (f (readF (ftyFmt ty) (ftyFlush g ty) x)
    (readF (ftyFmt ty) (ftyFlush g ty) y) (readF (ftyFmt ty) (ftyFlush g ty) z)))
    (fltOpnd g ty a.toNat l) (fltOpnd g ty b.toNat l) (fltOpnd g ty c.toNat l)

/-- A function of two float operands in one lane. -/
def flt2 (g : Group) (ty : FTy) (mode : RMode) (f : FVal → FVal → FVal) (a b : BitVec 6) (l : Nat) : Nat :=
  flt3 g ty mode (fun x y _ => f x y) a b b l

/-- A function of one float operand in one lane, whose free choice is keyed by the element and the flush bit (07 R98, R99). -/
def fltF (g : Group) (ty : FTy) (mode : RMode) (f : Nat → FVal → FVal) (a : BitVec 6) (l : Nat) : Nat :=
  perElem ty (fun x _ _ => roundF (ftyFmt ty) mode (ftyFlush g ty)
    (f (2 * x + bitNat (ftyFlush g ty)) (readF (ftyFmt ty) (ftyFlush g ty) x)))
    (fltOpnd g ty a.toNat l) (fltOpnd g ty a.toNat l) (fltOpnd g ty a.toNat l)

/-- One result of a CVT float type in each active lane, zero above a 16-bit one (11 R141). -/
def fkindD (t : FKind) (d : BitVec 6) (x : Nat → Nat) : Effect :=
  match t with
  | .f64 => lane64 d fun l => BitVec.ofNat 64 (x l)
  | _ => lane32 d fun l => BitVec.ofNat 32 (x l)

/-- One result of an integer type in each active lane (11 R141). -/
def ityD (t : ITy) (d : BitVec 6) (x : Nat → Int) : Effect :=
  match t with
  | .s64 => lane64 d fun l => BitVec.ofInt 64 (x l)
  | .u64 => lane64 d fun l => BitVec.ofInt 64 (x l)
  | _ => lane32 d fun l => BitVec.ofInt 32 (x l)

/-- Register `a` of lane `k`, or of lane `l` where lane `k` does not exist (11 R147). -/
def fromLane (g : Group) (a : BitVec 6) (l : Nat) (k : Int) : W32 := if 0 ≤ k ∧ k < g.w then rd32 g a k.toNat else rd32 g a l

/-- Register `a`, each lane's value as the operation reads it, combined over the lanes that satisfy `f`, pairwise in a tree over the lane
numbers (11 R150; 07 R92, R97). -/
def overLanes (g : Group) (a : BitVec 6) (fn : RedFn) (f : Nat → Bool) : W32 :=
  BitVec.ofNat 32 ((treeFold (redOp g fn) 6 ((List.range g.w).map fun l =>
    if f l then some (redIn g fn (rd32 g a l).toNat) else none)).getD 0)

/-- The bits of a mask that lie below `n` bits from `pos` (09 R117). -/
def fieldMask (pos k : Nat) : W32 := BitVec.ofNat 32 ((2 ^ k - 1) * 2 ^ pos)

/-- Length of the bit field that vB names: 0 from position 32 on, else cut at bit 31 (09 R117). -/
def fieldLen (b : W32) : Nat :=
  if 32 ≤ b.toNat % 256 then 0 else min (b.toNat / 256 % 256) (32 - b.toNat % 256)

/-- An integer condition (05 R66). -/
def holds {n : Nat} (cc : IntCond) (x y : BitVec n) : Prop :=
  match cc with
  | .eq => x = y
  | .ne => x ≠ y
  | .lt => x.toInt < y.toInt
  | .le => x.toInt ≤ y.toInt
  | .ltu => x.toNat < y.toNat
  | .leu => x.toNat ≤ y.toNat

/-! ## Instructions that change no register of a group -/

/-- What an instruction that can issue sees. -/
def runCtx (i : Instr) (s : State) (cu : Cursor) (g : Group) : Ctx :=
  ⟨i, { s with cur := none }, g, g, cu.ent, actLanes g cu, active i g cu, (entAt g cu.ent).pc, fallThrough i g cu, cu.w0,
    if twoWords i then cu.w1 else 0, 0, g.last, [], []⟩

/-- The registers of `g'` are those of `g`, and nothing is outstanding. -/
def SameRegs (g g' : Group) : Prop := OnlyRegs g g' ∧ RegsAre g g' 0 {} ∧ g'.pend = []

/-- Where a branch with an 18-bit offset goes: words from its own address in the L-form, packets from its packet in the D-form
(09 R101). -/
def offTarget (g : Group) (pc : W64) (o : BitVec 18) : W64 :=
  if formL g then pc + BitVec.ofInt 64 (4 * o.toInt) else packetOf g pc + BitVec.ofInt 64 (12 * o.toInt)

/-- Address of the issuing instruction. -/
def pcOf (g : Group) (cu : Cursor) : W64 := (entAt g cu.ent).pc

/-- Every active lane satisfies `P`. -/
def EachActive (g : Group) (on : W64) (P : Nat → Prop) : Prop := ∀ l, l < g.w → on.getLsbD l = true → P l

/-- A branch, where `P` holds of its group and the active lanes: it completes; active lanes go on at `next`, the other ACT lanes at
the fall-through; no register, stack, depth or meeting address changes, and nothing outside the group does. -/
def BranchWhen (i : Instr) (P : Group → W64 → Prop) (next : Group → W64 → Nat → W64) : Prop :=
  ∀ s cu g, Runs i s cu g → P g (active i g cu) → ∃ g', exec i s = .next (after s g') ∧ SameRegs g g' ∧
    GoesOn g g' (actLanes g cu) (fun l => if (active i g cu).getLsbD l then next g (pcOf g cu) l else fallThrough i g cu) ∧
    FramesStay g g'

/-- A call, where every active lane's target is aligned and its stack has room on the chip (03 R30; 09 R106): each active lane pushes
the fall-through with its MEET, which becomes NONE, and goes on at its target. -/
def CallGoes (i : Instr) (target : Group → W64 → Nat → W64) : Prop :=
  ∀ s cu g, Runs i s cu g →
    EachActive g (active i g cu) (fun l => targetAligned g (target g (pcOf g cu) l) = true ∧ (laneAt g l).stack.length < 4) →
    ∃ g', exec i s = .next (after s g') ∧ SameRegs g g' ∧ FramesStay g g' ∧ g'.lanes.length = g.lanes.length ∧
      ∀ l, l < g.lanes.length → l < g.w → (laneAt g' l).exited = (laneAt g l).exited ∧ (laneAt g' l).sd = (laneAt g l).sd ∧
        (laneAt g' l).park = (laneAt g l).park ∧
        if (active i g cu).getLsbD l then
          (laneAt g' l).pc = target g (pcOf g cu) l ∧
          (laneAt g' l).stack = (laneAt g l).stack ++ [⟨fallThrough i g cu, (laneAt g l).meet⟩] ∧
          ((laneAt g l).held = false → (laneAt g' l).meet = Config.none64)
        else
          (laneAt g' l).pc = (if (actLanes g cu).getLsbD l then fallThrough i g cu else (laneAt g l).pc) ∧
          (laneAt g' l).stack = (laneAt g l).stack ∧ ((laneAt g l).held = false → (laneAt g' l).meet = (laneAt g l).meet)

/-- A MEET instruction, where `P` holds: each active lane's MEET becomes `m`, every ACT lane goes on at the fall-through (09 R107). -/
def MeetGoes (i : Instr) (P : Group → W64 → Prop) (m : Group → W64 → Nat → W64) : Prop :=
  ∀ s cu g, Runs i s cu g → P g (active i g cu) → ∃ g', exec i s = .next (after s g') ∧ SameRegs g g' ∧ FramesStay g g' ∧
    g'.lanes.length = g.lanes.length ∧
    ∀ l, l < g.lanes.length → (laneAt g' l).exited = (laneAt g l).exited ∧ (laneAt g' l).sd = (laneAt g l).sd ∧
      (laneAt g' l).park = (laneAt g l).park ∧ (laneAt g' l).stack = (laneAt g l).stack ∧
      (laneAt g' l).pc = (if (actLanes g cu).getLsbD l then fallThrough i g cu else (laneAt g l).pc) ∧
      ((laneAt g l).held = false →
        (laneAt g' l).meet = if (active i g cu).getLsbD l then m g (pcOf g cu) l else (laneAt g l).meet)

/-! ## Memory instructions -/

/-- The accesses of a memory instruction, checked and translated lane by lane (13 R155; 15 R185): the context afterwards, the causes
found and the requests of the lanes without one. -/
def checked (i : Instr) (s : State) (cu : Cursor) (g : Group) (a : BitVec 4) (off : Group → Nat → Int) (n : Nat)
    (kind : AccessKind) : Ctx × List (Nat × Cause) × List Req :=
  gather (runCtx i s cu g) (active i g cu) (getA g a.toNat) (off g) n kind

/-- The one access of a uniform memory instruction (15 R189). -/
def checkedUni (i : Instr) (s : State) (cu : Cursor) (g : Group) (a : BitVec 4) (off : Group → Int) (n : Nat)
    (kind : AccessKind) : Ctx × List (Nat × Cause) × List Req :=
  uniAccess (runCtx i s cu g) (getA g a.toNat) (off g) n kind

/-- The outstanding accesses of the entry the cursor stands on. -/
def mine (s : State) (cu : Cursor) : List Acc := s.accs.filter fun a => a.gid == cu.gid && a.ent == cu.ent

/-- The results of an issue take their places in the order of writes, in a D-core's native code (03 R48, R49). -/
def opened (g : Group) (ds : List Dest) : List Pend := if latent g then ds.map fun d => ⟨g.last, d, none⟩ else []

/-- What is kept of an instruction whose entry waits: its words, its active lanes, its issue and the uniform operands it has read; it has found
no cause. -/
def flightOf (i : Instr) (cu : Cursor) (g : Group) : Flight :=
  ⟨cu.w0, if twoWords i then cu.w1 else 0, active i g cu, 0, g.last, seenOf g i, []⟩

/-- A group whose entry waits in an instruction with results `ds`; a word with S = 1 parks it (05 R69). -/
def waiting (i : Instr) (cu : Cursor) (g : Group) (ds : List Dest) : Group :=
  sBit { setEnt g cu.ent { entAt g cu.ent with busy := true } with
    flights := mapPut noFlight g.flights cu.ent (flightOf i cu g), pend := opened g ds } i

/-- An access as it leaves: one to another device has the port its routing entry names (25 R327). -/
def ported (s : State) (a : Acc) : Acc :=
  match a.place with
  | .remote d _ => if a.st = .sent then { a with port := (routeOf s d).getD 31 } else a
  | _ => a

/-- The accesses `as` have been sent and nothing else has happened: the entry waits for them with the instruction kept, memory
and every other group are as they were (13 R162). -/
structure Waits (i : Instr) (s t : State) (cu : Cursor) (g : Group) (as : List Acc) (ds : List Dest) : Prop where
  accs : t.accs = s.accs ++ as.map (ported s)
  mem : t.mem = s.mem
  vault : t.vault = s.vault
  buffered : t.cbuf = s.cbuf
  group : getGroup t cu.gid = some (waiting i cu g ds)
  others : ∀ k, k ≠ cu.gid → getGroup t k = getGroup s k

/-- A load of whose accesses none has a cause sends them, if one cannot be answered at once: `home` tells whether it takes the home
branch, `ds` which results it has (13 R162; 15 R187 to R190). -/
def SendsLoads (i : Instr) (a : BitVec 4) (off : Group → Nat → Int) (n : Nat) (home : State → Group → Bool) (nt acq : Bool)
    (ds : List Req → List Dest) : Prop :=
  ∀ s cu g, Runs i s cu g → (checked i s cu g a off n .load).2.1 = [] →
    let qs := (checked i s cu g a off n .load).2.2
    let as := qs.flatMap fun q => (partsOf n).map fun p =>
      loadAcc (checked i s cu g a off n .load).1 q n p (isSys (getA g a.toNat)) (home s g) nt acq
    (∃ x ∈ as, accOpen x = true) → ∃ t, exec i s = .next t ∧ Waits i s t cu g as (ds qs)

/-- The same of a uniform load. -/
def SendsUni (i : Instr) (a : BitVec 4) (off : Group → Int) (n : Nat) (ds : List Dest) : Prop :=
  ∀ s cu g, Runs i s cu g → active i g cu ≠ 0 → (checkedUni i s cu g a off n .load).2.1 = [] →
    let as := (checkedUni i s cu g a off n .load).2.2.flatMap fun q => (partsOf n).map fun p =>
      loadAcc (checkedUni i s cu g a off n .load).1 q n p (isSys (getA g a.toNat)) false false false
    (∃ x ∈ as, accOpen x = true) → ∃ t, exec i s = .next t ∧ Waits i s t cu g as ds

/-- A memory instruction whose accesses have all been performed: each has its value, none was read under a lease that ended before
the group's logical time, and each is a lane's of the group (13 R165). -/
def Answered (g : Group) (as : List Acc) : Prop :=
  (∀ a ∈ as, ∃ v st le ok, a.st = .done v st le ok ∧ (formL g = true → a.op = .load → g.lt ≤ le)) ∧
    ∀ a ∈ as, a.lane < g.w ∧ a.lane < 64

/-- Instruction `i` goes on in state `s` at an entry that waits for the accesses its issue `fl` has sent (13 R165): no other result of
the group is outstanding than those of the issue, `ds`, of which a debugger has written none (29 R350), and no uniform operand of an
L-core's load has changed meanwhile (09 R102). -/
structure Resumes (i : Instr) (s : State) (cu : Cursor) (g : Group) (fl : Flight) (ds : List Dest) : Prop where
  cursor : s.cur = some cu
  group : getGroup s cu.gid = some g
  legal : encOk g i (entAt g cu.ent).pc = true
  mode : privileged i = true → g.sys = true
  busy : (entAt g cu.ent).busy = true
  flight : mapGet noFlight g.flights cu.ent = fl
  hint : fl.hint = 0
  seen : formL g = true → isRmw (mine s cu) = false → seenOf g i = fl.seen
  pend : g.pend = if latent g then ds.map fun d => ⟨fl.tok, d, none⟩ else []
  untouched : g.kept = []
  kept : g.released = 0
  alive : liveMask g ≠ 0
  untraced : tracing s g.core g.pasid = false
  unsampled : mapGet 0 s.tags (16 * g.gid + cu.ent) = 0

/-- A group that has taken up accesses differs only in its registers, lanes, split table, frames and retirement, in its logical time and
what its loads have read, and in the instruction no longer kept for its entry. -/
def OnlyTaken (cu : Cursor) (g g' : Group) : Prop :=
  OnlyRegs { g with lt := g'.lt, rlt := g'.rlt, flights := mapPut noFlight g.flights cu.ent noFlight } g'

/-- The state without the accesses of an entry. -/
def without (s : State) (cu : Cursor) : State := { s with accs := s.accs.filter fun a => !(a.gid == cu.gid && a.ent == cu.ent) }

/-- An instruction whose accesses are answered takes them up: it retires, its registers take what `f` gives from the accesses in
their lanes, the logical time takes their stamps, the accesses go, and memory and the rest of the group are as they were (13 R165;
15 R187). -/
def TakesUp (i : Instr) (P : Group → List Acc → Prop) (ds : List Acc → List Dest) (f : Group → List Acc → Effect) : Prop :=
  ∀ s cu g fl, Resumes i s cu g fl (ds (mine s cu)) → Answered g (mine s cu) → P g (mine s cu) →
    ∃ g', exec i s = .next (after (without s cu) g') ∧ OnlyTaken cu g g' ∧
      g'.lt = maxList g.lt ((mine s cu).map accStamp) ∧ g'.rlt = maxList g.rlt ((mine s cu).map (·.rst)) ∧
      RegsAre g (landAll g') (maskOf ((mine s cu).map (·.lane))) (f g (mine s cu)) ∧
      GoesOn g g' (actLanes g cu) (fun _ => fallThrough i g cu) ∧ FramesStay g g'

/-- The lane registers d, d + 1, … of the lanes of accesses, `k` of each. -/
def laneDests (d : BitVec 6) (k : Nat) (as : List Acc) : List Dest := (accLanes as).flatMap fun l => runDests d.toNat l k

/-- Registers d, d + 1, … of each lane take `k` words of the value its accesses returned. -/
def wordsD (d : BitVec 6) (k : Nat) (x : Nat → Nat) : Effect :=
  { v := fun l => (List.range k).map fun j => (d.toNat + j, BitVec.ofNat 32 (x l / 2 ^ (32 * j))), late := true }

/-- The uniform registers a value fills. -/
def uniDests (d : BitVec 6) (w64 : Bool) : List Dest := .s d.toNat :: (if w64 then [.s (d.toNat + 1)] else [])

/-- Uniform register d, and d + 1 for a pair, take a value. -/
def uniWords (d : BitVec 6) (w64 : Bool) (x : Nat) : List (Nat × W32) :=
  (d.toNat, BitVec.ofNat 32 x) :: (if w64 then [(d.toNat + 1, BitVec.ofNat 32 (x / 2 ^ 32))] else [])

/-- A store of `n` bytes has left the instruction (13 R156, R158; 25 R321, R327): a byte range of local global memory stands in the
core's coalescing buffer with its data, but for the bytes that the stores `rest` after it have replaced; any other goes as a posted access
with its data. -/
def Posted (s t : State) (cu : Cursor) (g : Group) (n : Nat) (p : Place) (v : Nat) (rest : List (Place × Nat)) : Prop :=
  match p with
  | .mem pa => ∃ y ∈ t.cbuf, y.core = g.core ∧ y.line = lineOf pa ∧ pasidKey s y.pasid = pasidKey s g.pasid ∧ y.left = false ∧
      g.lt ≤ y.lt ∧ cu.gid ∈ y.gids ∧ maskAt pa n &&& ~~~ y.msk = 0 ∧
      ∀ j < n, (∀ z ∈ rest, ∀ pb, z.1 = .mem pb → pa + j < pb ∨ pb + n ≤ pa + j) →
        lineBytes y.data (pa + j) 1 = v / 2 ^ (8 * j) % 256
  | p => noRoute s p = false → ∃ a ∈ t.accs, a.op = .store ∧ a.place = p ∧ a.n = n ∧ a.data = BitVec.ofNat 64 v ∧ a.gid = cu.gid ∧
      a.core = g.core ∧ a.st = .sent

/-- What a store leaves unchanged: memory itself, every register, the order of what was posted before; its ACT lanes go on. -/
structure StoreFrame (i : Instr) (s t : State) (cu : Cursor) (g g' : Group) : Prop where
  mem : t.mem = s.mem
  vault : t.vault = s.vault
  group : getGroup t cu.gid = some g'
  others : ∀ k, k ≠ cu.gid → getGroup t k = getGroup s k
  regs : RegsAre g g' 0 {}
  settled : g'.pend = []
  goes : GoesOn g g' (actLanes g cu) fun _ => fallThrough i g cu
  frames : FramesStay g g'

/-- The requests of a store lie outside the register window. -/
def Plain (rs : List Req) (n : Nat) : Prop := ∀ q ∈ rs, ∀ p ∈ partsOf n, ∀ pa, placeAdd q.place (8 * p) = .mem pa → inRegs pa = false

/-- The stores of a list have left the instruction, in order: where bytes overlap the last counts. -/
def AllPosted (s t : State) (cu : Cursor) (g : Group) (n : Nat) (zs : List (Place × Nat)) : Prop :=
  ∀ xs z ys, zs = xs ++ z :: ys → Posted s t cu g n z.1 z.2 ys

/-- The places and values of the parts of the stores of `n` bytes of requests, in ascending lanes. -/
def storeParts (rs : List Req) (n : Nat) (val : Nat → Nat) : List (Place × Nat) :=
  rs.flatMap fun q => (partsOf n).map fun p => (placeAdd q.place (8 * p), val q.lane / 2 ^ (64 * p))

/-- A store outside system space none of whose lanes has a cause posts its bytes, in ascending lanes (13 R156, R158; 15 R186, R187);
memory changes only when they are performed. -/
def PostsStores (i : Instr) (a : BitVec 4) (off : Group → Nat → Int) (n : Nat) (ok : State → Group → Prop)
    (val : Group → Nat → Nat) : Prop :=
  ∀ s cu g, Runs i s cu g → ok s g → (checked i s cu g a off n .store).2.1 = [] → isSys (getA g a.toNat) = false →
    Plain (checked i s cu g a off n .store).2.2 n →
    ∃ t g', exec i s = .next t ∧ StoreFrame i s t cu g g' ∧ s.accs <+: t.accs ∧
      AllPosted s t cu g (partBytes n) (storeParts (checked i s cu g a off n .store).2.2 n (val g))

/-- The same of a uniform store. -/
def PostsUni (i : Instr) (a : BitVec 4) (off : Group → Int) (n : Nat) (val : Group → Nat) : Prop :=
  ∀ s cu g, Runs i s cu g → (checkedUni i s cu g a off n .store).2.1 = [] → isSys (getA g a.toNat) = false →
    Plain (checkedUni i s cu g a off n .store).2.2 n →
    ∃ t g', exec i s = .next t ∧ StoreFrame i s t cu g g' ∧ s.accs <+: t.accs ∧
      AllPosted s t cu g (partBytes n) (storeParts (checkedUni i s cu g a off n .store).2.2 n fun _ => val g)

/-- An AMO, LR or SC whose release does nothing beyond its core sends one access for each lane (13 R167, R168). -/
def SendsRmw (i : Instr) (a : BitVec 4) (b : BitVec 6) (n : Nat) (kind : AccessKind) (rel : Option Scope)
    (op : Group → Nat → AccOp × W64) (ds : List Req → List Dest) : Prop :=
  ∀ s cu g, Runs i s cu g →
    (checked i s cu g a (fun g l => (getV g b.toNat l).toInt) n kind).2.1 = [] →
    (∀ sc, rel = some sc → wideScope s g sc = false) →
    let qs := (checked i s cu g a (fun g l => (getV g b.toNat l).toInt) n kind).2.2
    let as := qs.map fun q =>
      rmwAcc (checked i s cu g a (fun g l => (getV g b.toNat l).toInt) n kind).1 q n (op g q.lane).1 (op g q.lane).2
    (∃ x ∈ as, accOpen x = true) → ∃ t, exec i s = .next t ∧ Waits i s t cu g as (ds qs)

/-! ## Instructions with an effect outside their group -/

/-- An instruction that retires, where `P` holds of what it sees: outside its group the state becomes `w`, its group `b` but for the
registers `f` writes, its ACT lanes go on at the fall-through (09 R101), and nothing else changes. -/
def Retires (i : Instr) (P : Ctx → Prop) (w : Ctx → State) (b : Ctx → Group) (f : Ctx → Effect) : Prop :=
  ∀ s cu g, Runs i s cu g → P (runCtx i s cu g) → ∃ g', exec i s = .next (setGroup (w (runCtx i s cu g)) g') ∧
    OnlyRegs (b (runCtx i s cu g)) g' ∧ RegsAre (b (runCtx i s cu g)) (landAll g') (active i g cu) (f (runCtx i s cu g)) ∧
    ((f (runCtx i s cu g)).late = false → g'.pend = []) ∧ GoesOn g g' (actLanes g cu) (fun _ => fallThrough i g cu) ∧
    FramesStay g g'

/-- An instruction that cannot go on yet, where `P` holds, stays where it is: one stall counter of its group gains one, as far as it can
(29 R357), and nothing else changes. -/
def Stays (i : Instr) (P : Ctx → Prop) : Prop :=
  ∀ s cu g, Runs i s cu g → P (runCtx i s cu g) → ∃ k < 8, exec i s =
    .next (after s { g with stalls := mapPut 0 g.stalls k (min (mapGet 0 g.stalls k + 1) (2 ^ 64 - 1)) })

/-- A group that has read the `n` bytes of a record in a vault notes their stamps (13 R176; the model's choice, assumption 70). -/
def noted (s : State) (g : Group) (key n : Nat) : Group :=
  { g with rlt := maxList g.rlt ((List.range (n / 8)).map fun k => vsAt s (key + 8 * k)) }

/-- An instruction that retires and whose only effect lies outside its group. -/
def RetiresWith (i : Instr) (P : Ctx → Prop) (w : Ctx → State) : Prop := Retires i P w (·.g) fun _ => {}

/-- An instruction that parks, where `P` holds: the lanes `m` wait where they are, the other ACT lanes go on at the fall-through
(03 R373), the results of the wait are outstanding (03 R49), and nothing else changes. -/
def Parks (i : Instr) (P : Ctx → Prop) (m : Ctx → W64) (x : Ctx → Wait) : Prop :=
  ∀ s cu g, Runs i s cu g → P (runCtx i s cu g) → ∃ g', exec i s = .next (after s g') ∧ OnlyRegs g g' ∧ RegsAre g g' 0 {} ∧
    g'.pend = opened g (waitDests (x (runCtx i s cu g))) ∧ FramesStay g g' ∧ g'.lanes.length = g.lanes.length ∧
    ∀ l, l < g.lanes.length → (laneAt g' l).exited = (laneAt g l).exited ∧ (laneAt g' l).stack = (laneAt g l).stack ∧
      (laneAt g' l).park = (if (m (runCtx i s cu g)).getLsbD l then .waiting (x (runCtx i s cu g)) else (laneAt g l).park) ∧
      (laneAt g' l).pc = (if (actLanes g cu &&& ~~~ m (runCtx i s cu g)).getLsbD l then fallThrough i g cu else (laneAt g l).pc)

/-- Nothing that a release at .dev would have to perform is left in the core of a group (13 R172, R173). -/
def Drained (s : State) (g : Group) : Prop :=
  (∀ y ∈ s.cbuf, y.core ≠ g.core) ∧ ∀ a ∈ s.accs, a.core = g.core → a.st = .sent → ∀ k, a.place ≠ .vault k

/-- No store of a group to host memory or to another device is left unperformed either (13 R172, R179). -/
def DrainedFork (s : State) (g : Group) : Prop :=
  Drained s g ∧ remoteWaits s g.gid = false ∧ ∀ a ∈ s.accs, a.gid = g.gid → a.op = .store → ∀ pa, a.place ≠ .host pa

/-- The release of an ordered access does nothing more: it reaches no further than the core, or nothing is left in the core to perform and,
at .sys, no store of the group elsewhere, none having failed (13 R172, R173; 17 R220). -/
def Released (s : State) (g : Group) (sc : Scope) : Prop :=
  wideScope s g sc = false ∨ (Drained s g ∧ (sc = .sys → DrainedFork s g ∧ g.remFail = none))

/-- Every older access of a group has given its stamp to the logical time: no store of it is buffered or on its way, and on a D-core no
load (09 R130; 13 R161, R163, R165). -/
def Joined (s : State) (g : Group) : Prop :=
  (∀ y ∈ s.cbuf, g.gid ∉ y.gids) ∧
    ∀ a ∈ s.accs, a.gid = g.gid → (a.ent = 16 → a.op = .store → a.sys = true) ∧ (formL g = false → 16 ≤ a.ent)

/-- A line of device memory that the service key wrote, without poison or a host copy, which no bias command holds, so that a write takes
place at once and changes the bytes written and nothing else of the memory (25 R323, R324; 31 R362, R366). -/
abbrev PlainLine (s : State) (l : Nat) : Prop :=
  mapGet 0 s.lineKey l = 0 ∧ s.poison.contains l = false ∧ (homeAt s l).mesi = .i ∧ biasHeld s l = false

/-- At most the bytes [a, a + n) of memory differ. -/
def MemOnly (s t : State) (a n : Nat) : Prop := ∀ x, x < a ∨ a + n ≤ x → readByte t.mem x = readByte s.mem x

/-- A group among the state's whose registers are those of `g`, and whose ACT lanes stand at the fall-through. -/
def Retired (i : Instr) (t : State) (cu : Cursor) (g : Group) (f : Effect) : Prop :=
  ∃ g', getGroup t cu.gid = some g' ∧ RegsAre g (landAll g') (active i g cu) f ∧
    ∀ l, l < g.lanes.length → (actLanes g cu).getLsbD l = true → (laneAt g' l).pc = fallThrough i g cu

/-- A system-space store none of whose lanes has a cause, where `ok` holds, is performed at once: of all of memory only the bytes the lanes store to
change, the last lane's bytes are there, and no register changes (13 R152; 15 R186; 31 R358). -/
def StoresAtOnce (i : Instr) (rs : State → Cursor → Group → Ctx × List (Nat × Cause) × List Req) (a : BitVec 4) (n : Nat)
    (ok : State → Group → Prop) (val : Group → Nat → Nat) : Prop :=
  ∀ s cu g, Runs i s cu g → ok s g → active i g cu ≠ 0 → (rs s cu g).2.1 = [] → isSys (getA g a.toNat) = true →
    (∀ q ∈ (rs s cu g).2.2, ∃ pa, q.place = .mem pa ∧ inRegs pa = false ∧ pa + n ≤ Config.rootBase ∧ PlainLine s (lineOf pa)) →
    ∃ t, exec i s = .next t ∧ Retired i t cu g {} ∧ t.vault = s.vault ∧ t.accs = s.accs ∧ t.cbuf = s.cbuf ∧ t.regs = s.regs ∧
      (∀ x, (∀ q ∈ (rs s cu g).2.2, ∀ pa, q.place = .mem pa → x < pa ∨ pa + n ≤ x) → readByte t.mem x = readByte s.mem x) ∧
      ∀ q pa, (rs s cu g).2.2.getLast? = some q → q.place = .mem pa → readN t.mem pa n = val g q.lane % 2 ^ (8 * n)

/-- The accesses of a prefetch (15 R188). -/
def prefetches (i : Instr) (s : State) (cu : Cursor) (g : Group) (lvl : PrfLevel) (a : BitVec 4) (off : Group → Nat → Int) :
    List Acc :=
  (checked i s cu g a off 1 .prefetch).2.2.filterMap fun q =>
    match q.place with
    | .mem pa => if isSys (getA g a.toNat) then none else
        some (newAcc (checked i s cu g a off 1 .prefetch).1 q 0 1 (match lvl with | .l1 => .pfL1 | .l2 => .pfL2) 0 false false false
          (wantsRenewal (checked i s cu g a off 1 .prefetch).1.s g.core pa g.lt))
    | _ => none

/-- A prefetch that meets no cause from a register sends its accesses and goes on (15 R188). -/
def Prefetches (i : Instr) (lvl : PrfLevel) (a : BitVec 4) (off : Group → Nat → Int) : Prop :=
  ∀ s cu g, Runs i s cu g → (∀ x ∈ (checked i s cu g a off 1 .prefetch).2.1, 6 < x.2.rank) →
    ∃ t g', exec i s = .next t ∧ StoreFrame i s t cu g g' ∧ t.accs = s.accs ++ prefetches i s cu g lvl a off

/-- A barrier operand names the vault key `key`, none of its causes holds, and no earlier access of the core to the object is left to
perform (13 R156; 15 R196). -/
abbrev BarAt (c : Ctx) (a : BitVec 4) (need : Nat) (valid : Bool) (key : Nat) : Prop :=
  c.on ≠ 0 ∧ barBusy c (getA c.g a.toNat) = false ∧ barCauses c (getA c.g a.toNat) need valid (fun _ => false) = [] ∧
    barKey c (getA c.g a.toNat) = some key

/-- A barrier at a key with its 64 bytes replaced, and nothing else of the vaults (15 R194). -/
def withBarAt (s : State) (key : Nat) (b : Bar) : State := { s with vault := writeN s.vault key 64 (barVal b) }

/-- Context and number that a chime operand names (21 R292). -/
def chimeSel (c : Ctx) (a : BitVec 6) : BitVec 20 × Nat :=
  (if c.g.sys then BitVec.ofNat 20 ((getS c.g a.toNat).toNat / 4096) else c.g.pasid, (getS c.g a.toNat).toNat % 4096)

/-- The operand may name its chime: any context with a descriptor in system mode, one's own in user mode (21 R292). -/
def ChimeOk (c : Ctx) (a : BitVec 6) : Prop :=
  c.on ≠ 0 ∧ if c.g.sys then ctxValid c.s (chimeSel c a).1 = true else (getS c.g a.toNat).toNat / 4096 = 0

/-- The operand may name its chime, which no bias command holds (25 R324). -/
abbrev ChimeReads (c : Ctx) (a : BitVec 6) : Prop := ChimeOk c a ∧ chimeHeld c.s (chimeSel c a).1 (chimeSel c a).2 = false

/-- A chime instruction that updates, on a core that is drained: VALUE becomes `v`, CS takes the group's lt (21 R292, R293). -/
def ChimeUpdates (i : Instr) (a : BitVec 6) (v : Ctx → Nat → Nat) : Prop :=
  ∀ s cu g, Runs i s cu g → ChimeOk (runCtx i s cu g) a → Drained s g →
    let k := chimeSel (runCtx i s cu g) a
    let x := chimeAddr s k.1 k.2
    x % 16 = 0 → x + 16 ≤ Config.rootBase → PlainLine s (lineOf x) →
    (∀ y ∈ s.groups, tracing s y.core y.pasid = false) →
    ∃ t, exec i s = .next t ∧ Retired i t cu g {} ∧ readN t.mem x 8 = v (runCtx i s cu g) (chimeValue s k.1 k.2) ∧
      readN t.mem (x + 8) 8 = max (chimeCs s k.1 k.2) g.lt % 2 ^ 48 ∧ MemOnly s t x 16

/-- No group waits at QDONE (21 R272). -/
def NoQdone (s : State) : Prop :=
  ∀ g ∈ s.groups, waitsOf g (fun w => match w with | .qdone .. => true | _ => false) = []

/-- A record of `n` bytes that an address register names lies in a vault at `key` and can be read, no earlier access of the core to it
being left to perform (13 R156; 21 R276). -/
def RecordAt (c : Ctx) (a : BitVec 4) (n key : Nat) : Prop :=
  c.on ≠ 0 ∧ (∃ l x, uniAccess c (getA c.g a.toNat) 0 n .rd = (c, [], [⟨l, x, .vault key⟩])) ∧
    placeBusy c.s c.g (.vault key) n = false ∧ ∀ j < n, c.s.vpoison.contains ((key + j) / 128) = false

/-! ## Traps -/

/-- An entry of a live group stands at an instruction, on a core whose trace and sampling are off for its context. -/
structure Stands (s : State) (cu : Cursor) (g : Group) : Prop where
  cursor : s.cur = some cu
  group : getGroup s cu.gid = some g
  alive : liveMask g &&& actLanes g cu ≠ 0
  entry : cu.ent < g.ents.length
  untraced : tracing s g.core g.pasid = false
  unsampled : mapGet 0 s.tags (16 * g.gid + cu.ent) = 0

/-- TAKING A TRAP (17 R210, R213): a frame with the record, the ACT lanes, their PC and MEET; those lanes go on at the handler with
MEET NONE; no register changes. -/
structure Trapped (s : State) (cu : Cursor) (g g' : Group) (w1 : W32) (code info : BitVec 16) (lanes addr : W64) : Prop where
  frame : ∃ f, g'.frames = g.frames ++ [f] ∧ f.h = actLanes g cu ∧ f.pc = pcOf g cu ∧ f.meet = (entAt g cu.ent).meet ∧
    f.fr.pc = pcOf g cu ∧ f.fr.lanes = lanes ∧ f.fr.code = code ∧ f.fr.info = info ∧ f.fr.addr = addr ∧ f.fr.opc0 = cu.w0 ∧
    f.fr.opc1 = w1 ∧ f.fr.form = formL g ∧ f.fr.entry = BitVec.ofNat 4 cu.ent ∧ f.fr.core = BitVec.ofNat 6 g.core ∧
    f.fr.dtime = dtime s (dieOf g.core) ∧ f.fr.res = resumeKind code ∧
    f.fr.lane = BitVec.ofNat 6 ((lowestLane 64 lanes).getD 0)
  rest : OnlyRegs g g'
  regs : RegsAre g g' 0 {}
  lane : ∀ h, handlerAddr s g = some h → ∀ l, l < g.lanes.length →
    (laneAt g' l).stack = (laneAt g l).stack ∧ (laneAt g' l).exited = (laneAt g l).exited ∧
    (laneAt g' l).pc = (if (actLanes g cu).getLsbD l then h else (laneAt g l).pc) ∧
    ((laneAt g l).held = false → (laneAt g' l).meet = if (actLanes g cu).getLsbD l then Config.none64 else (laneAt g l).meet)

/-- The handler is in place and a frame is free (17 R213). -/
def CanTrap (s : State) (g : Group) : Prop := (handlerAddr s g).isSome ∧ g.frames.length < 4

/-- An instruction that can issue takes a trap, where `P` holds. -/
def TrapsWith (i : Instr) (P : Ctx → Prop) (code info : BitVec 16) (lanes : Ctx → W64) (addr : Ctx → W64) : Prop :=
  ∀ s cu g, Runs i s cu g → Stands s cu g → CanTrap s g → P (runCtx i s cu g) → ∃ g', exec i s = .next (after s g') ∧
    Trapped s cu g g' (if twoWords i then cu.w1 else 0) code info (lanes (runCtx i s cu g)) (addr (runCtx i s cu g))

/-- An instruction whose guard is true for no lane retires without any other effect (05 R65). -/
def Idle (i : Instr) : Prop := RetiresWith i (fun c => c.on = 0) (·.s)

/-- The lanes a group has, among those of a mask. -/
def within (g : Group) (m : W64) : W64 := m &&& fullMask g.w

/-- Every ACT lane waits at the instruction for `x`, in a state where only `t` differs. -/
def AllWait (t : State) (cu : Cursor) (g : Group) (x : Wait) : Prop :=
  ∃ g', getGroup t cu.gid = some g' ∧ RegsAre g g' 0 {} ∧ ∀ l, l < g.lanes.length → (laneAt g' l).pc = (laneAt g l).pc ∧
    ((actLanes g cu).getLsbD l = true → (laneAt g' l).park = .waiting x)

/-- The kernel of the launch record `x` is `ker` once `s1` has read it for a group (21 R275, R276). -/
def SubmitsFrom (s : State) (g : Group) (x : Nat) (s1 : State) (g1 : Group) (ker : Kernel) : Prop :=
  let l := launchOf x
  kernelRead (setGroup s g) g l.pasid (launchKernel l) l.entryD l.entryL = (s1, .ok ker) ∧ getGroup s1 g.gid = some g1

/-- The encoding of an instruction is one the group cannot run (05 R74), at an entry that stands. -/
def Illegal (i : Instr) (s : State) (cu : Cursor) (g : Group) : Prop :=
  Stands s cu g ∧ CanTrap s g ∧ encOk g i (pcOf g cu) = false

/-- A memory instruction none of whose causes is PAGE traps with the first of its causes, in the lanes that have it (17 R209). -/
def TrapsOnCauses (i : Instr) (rs : State → Cursor → Group → Ctx × List (Nat × Cause) × List Req) : Prop :=
  ∀ s cu g, Runs i s cu g → Stands s cu g → (rs s cu g).2.1 ≠ [] → (∀ x ∈ (rs s cu g).2.1, x.2.rank ≠ 7) → CanTrap (rs s cu g).1.s g →
    ∃ x ∈ (rs s cu g).2.1, (∀ y ∈ (rs s cu g).2.1, x.2.rank < y.2.rank ∨ (x.2.rank = y.2.rank ∧ x.1 ≤ y.1)) ∧
      ((x.2.code ≠ 0x0401 ∨ debugStops s g.pasid = false) → ∃ g' lanes, exec i s = .next (setGroup (rs s cu g).1.s g') ∧
        (∀ l < 64, lanes.getLsbD l = true ↔ ∃ y ∈ (rs s cu g).2.1, y.1 = l ∧ y.2.rank = x.2.rank) ∧
        Trapped (rs s cu g).1.s cu g g' (if twoWords i then cu.w1 else 0) x.2.code x.2.info lanes x.2.addr)

/-! ## Operations of the engines and the matrix unit -/

/-- A layout record of 64 bytes that an address register names for the active lanes lies in a vault at `key` (15 R198, R199). -/
def LayoutAt (c : Ctx) (a : BitVec 4) (key : Nat) : Prop :=
  let ar := getA c.g a.toNat
  ar.space = 1 ∧ recCauses c ar = [] ∧ placeBusy c.s c.g (.vault key) 64 = false ∧
    (∃ lo q x, lowestLane c.g.w c.on = some lo ∧ gather c (BitVec.twoPow 64 lo) ar (fun _ => 0) 64 .rd = (c, [], [⟨q, x, .vault key⟩])) ∧
    ∀ j < 64, c.s.vpoison.contains ((key + j) / 128) = false

/-- An engine instruction forks its operations, each of its lanes, on a barrier and in a pool with room, on a drained core, with the
group's lt (13 R179; 15 R198); `b` is its group once it has read its record. -/
def Forks (i : Instr) (bar : BitVec 4) (P : Ctx → Prop) (b : Ctx → Group) (ks : Ctx → List (W64 × OpKind)) : Prop :=
  ∀ key, Retires i
    (fun c => BarAt c bar 3 true key ∧ DrainedFork c.s c.g ∧ (readBar c.s key).ops + (ks c).length ≤ 65535 ∧
      (c.s.ops.filter fun o => dieOf o.core == dieOf c.g.core).length + (ks c).length ≤ Config.copyRequests ∧ P c)
    (fun c => (ks c).foldl (fun s k => newOp c s key (getA c.g bar.toNat).ptr k c.g.lt) c.s) b fun _ => {}

/-- An address register that an engine reads or writes: one of the spaces, with E (15 R201 to R204). -/
abbrev EngineReg (c : Ctx) (a : BitVec 4) (spaces : List Nat) : Prop :=
  (getA c.g a.toNat).perm.getLsbD 3 = true ∧ (getA c.g a.toNat).space.toNat ∈ spaces ∧ (getA c.g a.toNat).space ≠ 2

/-- Where a copy writes the packed side in a lane lies on this device (15 R201). -/
abbrev OwnDevice (c : Ctx) (a : BitVec 4) (p : Int) : Prop := (getA c.g a.toNat).space = 0 → p < 2 ^ 63

/-- A queue with one more operation (19 R248). -/
def queued (c : Ctx) (k : MatKind) (bar : Option (Nat × W64)) : State :=
  setQueue { c.s with nextId := c.s.nextId + 1 } c.g.core
    (queueOf c.s c.g.core ++ [newMat c c.s.nextId k bar c.g.lt])

/-- A collective matrix instruction enters its queue (19 R248, R252). -/
def Queues (i : Instr) (P : Ctx → Prop) (k : Ctx → MatKind) : Prop :=
  RetiresWith i (fun c => c.on = fullMask c.g.w ∧ (queueOf c.s c.g.core).length < 32 ∧ P c) fun c => queued c (k c) none

/-- A collective matrix instruction with a barrier enters its queue, and the barrier counts it (13 R179; 15 R195; 19 R250). -/
def QueuesFor (i : Instr) (bar : BitVec 4) (P : Ctx → Prop) (k : Ctx → MatKind) : Prop :=
  ∀ key, RetiresWith i
    (fun c => c.on = fullMask c.g.w ∧ (queueOf c.s c.g.core).length < 32 ∧ BarAt c bar 3 true key ∧ DrainedFork c.s c.g ∧
      (readBar c.s key).ops + 1 ≤ 65535 ∧ P c)
    fun c => barOpIssue (queued c (k c) (some (key, (getA c.g bar.toNat).ptr))) key

/-- A tile of the team and a run of its rows (19 R242, R243). -/
abbrev TileRows (c : Ctx) (tile t row rows : Nat) : Prop := physTile c.s c.g tile = some t ∧ row + rows ≤ 64

/-- The operands of MMA and MMAS meet the checks of 19 R254, the vault ownership of its slices among them. -/
def MmaOk (c : Ctx) (ty : MTy) (a : BitVec 4) (b : BitVec 6) (m : Nat) (sp : Option Sparsity) : Prop :=
  let ar := getA c.g a.toNat
  let x := ar.ptr.toNat
  let o := fun j => (getS c.g (b.toNat + j)).toNat
  let k := kOf ty sp
  let near := fun (y n : Nat) => engRange c ar y n = [] ∧ vkeyOf c ar y / Config.vaultSize = c.g.core
  let slices := fun (off n : Nat) => off + n ≤ Config.sliceSize ∧
    ∀ j < 256, c.g.sys = true ∨ vaultOwned c.s c.g.pasid c.g.core (j * Config.sliceSize + off) n = true
  ar.space = 1 ∧ ar.perm.getLsbD 3 = true ∧ x % 64 = 0 ∧ ar.base.toNat ≤ x ∧ x + m * rowBytes sp ≤ ar.limit.toNat ∧
    near x (m * rowBytes sp) ∧ o 0 % 64 = 0 ∧ slices (o 0) 512 ∧
    (sp.isSome = true → o 1 % 16 = 0 ∧ slices (o 1) (k / 8)) ∧
    (ty = .fp4 → x + o 3 + m * (k / 32) ≤ ar.limit.toNat ∧ near (x + o 3) (m * (k / 32)) ∧ slices (o 2) (k / 32))

/-- An access answered with a value, its stamps and whether the access succeeded. -/
def doneAs (a : Acc) (v : W64) (ws le : Nat) (ok : Bool) : Acc := { a with st := .done v ws le ok }

/-- The value a finished access gave. -/
def answer (a : Acc) : W64 := match a.st with | .done v _ _ _ => v | _ => 0

/-! ## Fault reports -/

/-- The bytes [a, a + n) of device memory lie below the root region, in plain lines. -/
def PlainRange (s : State) (a n : Nat) : Prop := a + n ≤ Config.rootBase ∧ ∀ x, a ≤ x → x < a + n → PlainLine s (lineOf x)

/-- Two ranges of bytes share none. -/
def Apart (a n b m : Nat) : Prop := a + n ≤ b ∨ b + m ≤ a

/-- Address of the fault-ring descriptor of a C-die (17 R225). -/
def ringDesc (s : State) (die : Nat) : Nat := 64 * regField s (offFring die) 63 6

/-- Address of the chime that the ring's descriptor names (17 R225; 21 R292). -/
def ringChime (s : State) (die : Nat) : Nat :=
  chimeAddr s (BitVec.ofNat 20 (ringWord s die 5)) (bits (ringWord s die 5) 31 20)

/-- The context of that chime has a descriptor. -/
def ringChimes (s : State) (die : Nat) : Bool := ctxValid s (BitVec.ofNat 20 (ringWord s die 5))

/-- The ring of a C-die, its descriptor, its chime and the descriptor of the chime's context share no byte, all that is written lies
in plain lines, and no trace runs. -/
structure RingPlace (s : State) (die : Nat) : Prop where
  ring : PlainRange s (ringWord s die 7) (32 * bits (ringWord s die 6) 63 32)
  desc : PlainRange s (ringDesc s die) 64
  chime : ringChimes s die = true → ringChime s die % 16 = 0 ∧ PlainRange s (ringChime s die) 16 ∧
    Apart (ringChime s die) 16 (ringWord s die 7) (32 * bits (ringWord s die 6) 63 32) ∧
    Apart (ringChime s die) 16 (ringDesc s die) 64
  apart : Apart (ringDesc s die) 64 (ringWord s die 7) (32 * bits (ringWord s die 6) 63 32)
  context : ∀ a n, (a, n) ∈ [(ringWord s die 7, 32 * bits (ringWord s die 6) 63 32), (ringDesc s die, 64)] →
    Apart (ctxAddr s (BitVec.ofNat 20 (ringWord s die 5)) 0) 64 a n
  untraced : ∀ y ∈ s.groups, tracing s y.core y.pasid = false

/-- The closed batch `es` of a C-die has been written (17 R225 to R229): its entries stand at the ring's tail, TAIL has advanced past them,
the chime has gained one, and the batch opens anew with the entries held; no other byte of memory differs. -/
structure BatchWritten (s t : State) (die : Nat) (es : List Report) : Prop where
  opened : batchAt t die = { batch0 with entries := (batchAt s die).held, since := s.now }
  others : ∀ d, d ≠ die → batchAt t d = batchAt s d
  entries : ∀ k < es.length, ∀ j < 4,
    readN t.mem (ringWord s die 7 + 32 * ((bits (ringWord s die 5) 63 32 + k) % bits (ringWord s die 6) 63 32) + 8 * j) 8 =
      (reportWords (es.getD k (report0 0))).getD j 0
  tail : readN t.mem (ringDesc s die + 44) 4 = (bits (ringWord s die 5) 63 32 + es.length) % 2 ^ 32
  chime : ringChimes s die = true →
    readN t.mem (ringChime s die) 8 = min (readN s.mem (ringChime s die) 8 + 1) (2 ^ 64 - 1)
  rest : ∀ x, (∀ k < es.length,
      Apart x 1 (ringWord s die 7 + 32 * ((bits (ringWord s die 5) 63 32 + k) % bits (ringWord s die 6) 63 32)) 32) →
    Apart x 1 (ringDesc s die + 44) 4 → (ringChimes s die = true → Apart x 1 (ringChime s die) 16) →
    readByte t.mem x = readByte s.mem x

/-- A lane's fault is resolved by a GO of FRES_CMD: its page is in the range, no entry names it, or an earlier GO resolved it (17 R228,
R229). -/
def resolves (hit : PageFault → Bool) (f : PageFault) (d : Bool) : Bool := hit f || !f.recorded || d

/-- The lanes of a group after a GO of FRES_CMD (17 R228, R229): a fault that is resolved stays marked so, or its lane goes on where it
is, and takes the refusal if the GO denies its page; a resident group's lane that this GO resolves goes on if no fault of the group is
left unresolved. No other lane, no PC and no register changes. -/
def LanesResolved (g g' : Group) (hit : PageFault → Bool) (deny : Bool) : Prop :=
  RegsAre g g' 0 {} ∧ ∀ l < g.w, l < 64 → (laneAt g' l).pc = (laneAt g l).pc ∧
    match (laneAt g l).park with
    | .faulted f d =>
      (laneAt g' l).denied = (if hit f && deny && !d then some f else (laneAt g l).denied) ∧
      (if resolves hit f d then (laneAt g' l).park = .faulted f true ∨ (isResident g = true ∧ (laneAt g' l).park = .none)
        else (laneAt g' l).park = .faulted f d) ∧
      (isResident g = true → d = false → resolves hit f d = true →
        (∀ k < g.w, ∀ f' d', (laneAt g k).park = .faulted f' d' → resolves hit f' d' = true) →
        ∀ e < 16, (entAt g e).v = true → (ownMask g e).getLsbD l = true → (laneAt g' l).park = .none)
    | p => (laneAt g' l).park = p ∧ (laneAt g' l).denied = (laneAt g l).denied

/-- What a GO of FRES_CMD leaves of the page an operation is parked on, and of the page refused to it (17 R228, R229). -/
def opResolved (hit : PageFault → Bool) (deny : Bool) (park denied : Option PageFault) : Option PageFault × Option PageFault :=
  match park with
  | some f => if hit f then (none, if deny then some f else denied) else if f.recorded then (park, denied) else (none, denied)
  | none => (park, denied)

/-- A GO of FRES_CMD on every C-die (17 R228): lanes, copies and matrix operations parked on its pages. -/
structure PagesResolved (s t : State) (hit : PageFault → Bool) (deny : Bool) : Prop where
  groups : ∀ g ∈ s.groups, ∃ g' ∈ t.groups, g'.gid = g.gid ∧ LanesResolved g g' hit deny
  ops : t.ops = s.ops.map fun o =>
    { o with park := (opResolved hit deny o.park o.denied).1, denied := (opResolved hit deny o.park o.denied).2 }
  mq : t.mq = s.mq.map fun q => (q.1, q.2.map fun o =>
    { o with park := (opResolved hit deny o.park o.denied).1, denied := (opResolved hit deny o.park o.denied).2 })
  mem : (∀ g ∈ s.groups, tracing s g.core g.pasid = false) → t.mem = s.mem

/-! ## Steps -/

/-- The word at `va` is fetched for a group: mapped with X, without poison, and what the instruction cache gives (13 R178; 17 R234). -/
def Fetches (s : State) (g : Group) (act : W64) (va : Nat) (w : W32) (t : State) : Prop :=
  ∃ pa s1, fetchPlace s g va = (.ok pa, s1) ∧ (pa < Config.memSize → s1.poison.contains (lineOf pa) = false) ∧
    w = BitVec.ofNat 32 (memRead s1 (pasidKey s1 g.pasid) pa 4) ∧ cachedWord s1 g va w = (w, t) ∧ fetchDenied g act va = []

/-- An entry that issues now: a running group that its core's selector takes, READY, whose turn it is, with no budget trap pending and no
lane at its meeting address; `g` is the group after the issue cycle of this turn, in state `t` (03 R33, R38, R42; 21 R280). -/
def Issues (s : State) (gid e : Nat) (t : State) (g : Group) : Prop :=
  ∃ g0, runningGroup s gid = some g0 ∧ entReady g0 e = true ∧ (entAt g0 e).busy = false ∧
    mayIssue s g0 e = true ∧ selected s g0 = true ∧
    g = { setEnt (groupCycle g0) e { entAt (groupCycle g0) e with last := s.seq + 1 } with
      last := s.seq + 1, arriving := false, yielded := false } ∧
    t = setGroup (endYields { s with seq := s.seq + 1 } g.core) g ∧ g.budgetPend = false ∧ (holdLanes g e).lanes = g.lanes ∧
    inTokens (entAt g e).pc = false

/-- The state after a turn has been taken from the agenda. -/
def taken (s : State) (rest : List Turn) : State := { s with agenda := rest }

/-- A device step that takes its state to one where `Q` holds, where `P` holds. -/
def Steps (i : Instr) (P : State → Prop) (Q : State → State → Prop) : Prop := ∀ s, P s → ∃ t, exec i s = .next t ∧ Q s t

/-- Access `k` has been sent and may be performed, at a line of device memory of the service key with nothing buffered for it by its
core (13 R156, R163; 31 R362). -/
def AtHome (s : State) (k : Nat) (a : Acc) (pa : Nat) : Prop :=
  openAcc s k = some a ∧ a.place = .mem pa ∧ PlainLine s (lineOf pa) ∧ accKey s a = 0 ∧ pa % 128 + a.n ≤ 128 ∧ a.n ≤ 8 ∧
    pa + a.n ≤ Config.rootBase ∧ ∀ y ∈ s.cbuf, ¬(y.core = a.core ∧ y.line = lineOf pa)

/-- Memory and the vaults stand in their canonical form. -/
def Canonical (s : State) : Prop := Memory.wf s.mem = true ∧ Memory.wf s.vault = true

end Sys2Proof.Safety
end

