-- ==== Sys2Proof/Certificates/Slice0/Obligations.lean ====
section
/-! DEFINITION. The statements about this model. -/

open Sys2Proof Sys2Proof.Machine Sys2Proof.Safety

/-! ## Vector integer instructions -/

/-- 09 R113: ADD, SUB, MUL and MAD on 32-bit registers and 64-bit pairs, exact results wrapped or saturated, and ADD with an
immediate. -/
def Obligations.VectorArithmeticGivesExactResult : Prop :=
  ∀ (h : Hdr) (sat : Bool) (d a b imm : BitVec 6),
    RegOp (.add h sat false d a b) (fun g _ => lane32 d fun l => clip 32 sat ((rd32 g a l).toInt + (rd32 g b l).toInt)) ∧
    RegOp (.add h sat true d a b) (fun g _ => lane64 d fun l => clip 64 sat ((rd64 g a l).toInt + (rd64 g b l).toInt)) ∧
    RegOp (.addImm h false d a imm) (fun g _ => lane32 d fun l => clip 32 false ((rd32 g a l).toInt + imm.toInt)) ∧
    RegOp (.addImm h true d a imm) (fun g _ => lane64 d fun l => clip 64 false ((rd64 g a l).toInt + imm.toInt)) ∧
    RegOp (.sub h sat false d a b) (fun g _ => lane32 d fun l => clip 32 sat ((rd32 g a l).toInt - (rd32 g b l).toInt)) ∧
    RegOp (.sub h sat true d a b) (fun g _ => lane64 d fun l => clip 64 sat ((rd64 g a l).toInt - (rd64 g b l).toInt)) ∧
    RegOp (.mul h sat false d a b) (fun g _ => lane32 d fun l => clip 32 sat ((rd32 g a l).toInt * (rd32 g b l).toInt)) ∧
    RegOp (.mul h sat true d a b) (fun g _ => lane64 d fun l => clip 64 sat ((rd64 g a l).toInt * (rd64 g b l).toInt)) ∧
    RegOp (.mad h sat false d a b) (fun g _ => lane32 d fun l =>
      clip 32 sat ((rd32 g a l).toInt * (rd32 g b l).toInt + (rd32 g d l).toInt)) ∧
    RegOp (.mad h sat true d a b) (fun g _ => lane64 d fun l =>
      clip 64 sat ((rd64 g a l).toInt * (rd64 g b l).toInt + (rd64 g d l).toInt))

/-- 09 R114, R118: MULH, and IDIV and IREM, whose results may be outstanding and whose zero divisor gives all ones and the dividend;
MIN, MAX and ABS. -/
def Obligations.VectorMultiplyHighDivideMinMaxAbs : Prop :=
  (∀ (h : Hdr) (uns : Bool) (d a b : BitVec 6),
     RegOp (.mulh h uns false d a b) (fun g _ => lane32 d fun l =>
       BitVec.ofInt 32 (num uns (rd32 g a l) * num uns (rd32 g b l) / 2 ^ 32)) ∧
     RegOp (.mulh h uns true d a b) (fun g _ => lane64 d fun l =>
       BitVec.ofInt 64 (num uns (rd64 g a l) * num uns (rd64 g b l) / 2 ^ 64)) ∧
     RegOp (.idiv h uns false d a b) (fun g _ => late32 d fun l =>
       if rd32 g b l = 0 then BitVec.allOnes 32 else BitVec.ofInt 32 ((num uns (rd32 g a l)).tdiv (num uns (rd32 g b l)))) ∧
     RegOp (.idiv h uns true d a b) (fun g _ => late64 d fun l =>
       if rd64 g b l = 0 then BitVec.allOnes 64 else BitVec.ofInt 64 ((num uns (rd64 g a l)).tdiv (num uns (rd64 g b l)))) ∧
     RegOp (.irem h uns false d a b) (fun g _ => late32 d fun l =>
       if rd32 g b l = 0 then rd32 g a l else
         BitVec.ofInt 32 (num uns (rd32 g a l) - (num uns (rd32 g a l)).tdiv (num uns (rd32 g b l)) * num uns (rd32 g b l))) ∧
     RegOp (.irem h uns true d a b) (fun g _ => late64 d fun l =>
       if rd64 g b l = 0 then rd64 g a l else
         BitVec.ofInt 64 (num uns (rd64 g a l) - (num uns (rd64 g a l)).tdiv (num uns (rd64 g b l)) * num uns (rd64 g b l)))) ∧
  (∀ (h : Hdr) (uns : Bool) (d a b : BitVec 6),
     RegOp (.min h uns false d a b) (fun g _ => lane32 d fun l =>
       BitVec.ofInt 32 (min (num uns (rd32 g a l)) (num uns (rd32 g b l)))) ∧
     RegOp (.min h uns true d a b) (fun g _ => lane64 d fun l =>
       BitVec.ofInt 64 (min (num uns (rd64 g a l)) (num uns (rd64 g b l)))) ∧
     RegOp (.max h uns false d a b) (fun g _ => lane32 d fun l =>
       BitVec.ofInt 32 (max (num uns (rd32 g a l)) (num uns (rd32 g b l)))) ∧
     RegOp (.max h uns true d a b) (fun g _ => lane64 d fun l =>
       BitVec.ofInt 64 (max (num uns (rd64 g a l)) (num uns (rd64 g b l)))) ∧
     RegOp (.abs h d a) (fun g _ => lane32 d fun l => clip 32 false ((rd32 g a l).toInt.natAbs : Int)) ∧
     RegOp (.absSat h d a) (fun g _ => lane32 d fun l => clip 32 true ((rd32 g a l).toInt.natAbs : Int)) ∧
     RegOp (.abs64 h d a) (fun g _ => lane64 d fun l => clip 64 false ((rd64 g a l).toInt.natAbs : Int)) ∧
     RegOp (.absSat64 h d a) (fun g _ => lane64 d fun l => clip 64 true ((rd64 g a l).toInt.natAbs : Int)))

/-- 09 R115, R118, R119: the bitwise instructions, SEL, the moves and the loads of an immediate. -/
def Obligations.VectorLogicAndMove : Prop :=
  ∀ (h : Hdr) (d a b : BitVec 6) (i12 : BitVec 12) (imm : W32),
    RegOp (.and h d a b) (fun g _ => lane32 d fun l => rd32 g a l &&& rd32 g b l) ∧
    RegOp (.or h d a b) (fun g _ => lane32 d fun l => rd32 g a l ||| rd32 g b l) ∧
    RegOp (.xor h d a b) (fun g _ => lane32 d fun l => rd32 g a l ^^^ rd32 g b l) ∧
    RegOp (.andn h d a b) (fun g _ => lane32 d fun l => rd32 g a l &&& ~~~ rd32 g b l) ∧
    RegOp (.sel h d a b) (fun g _ => lane32 d fun l => (rd32 g a l &&& rd32 g b l) ||| (rd32 g d l &&& ~~~ rd32 g b l)) ∧
    RegOp (.mov h d a) (fun g _ => lane32 d fun l => rd32 g a l) ∧
    RegOp (.mov64 h d a) (fun g _ => lane64 d fun l => rd64 g a l) ∧
    RegOp (.movi h d i12) (fun _ _ => lane32 d fun _ => BitVec.ofInt 32 i12.toInt) ∧
    RegOp (.ldi h d imm) (fun _ _ => lane32 d fun _ => imm)

/-- 09 R116: the shifts by a register and by an immediate, with the results of a shift by the width or more. -/
def Obligations.VectorShifts : Prop :=
  ∀ (h : Hdr) (d a b imm : BitVec 6),
    RegOp (.shl h false d a b) (fun g _ => lane32 d fun l => BitVec.ofNat 32 ((rd32 g a l).toNat * 2 ^ (rd32 g b l).toNat)) ∧
    RegOp (.shl h true d a b) (fun g _ => lane64 d fun l => BitVec.ofNat 64 ((rd64 g a l).toNat * 2 ^ (rd32 g b l).toNat)) ∧
    RegOp (.shr h false d a b) (fun g _ => lane32 d fun l => BitVec.ofNat 32 ((rd32 g a l).toNat / 2 ^ (rd32 g b l).toNat)) ∧
    RegOp (.shr h true d a b) (fun g _ => lane64 d fun l => BitVec.ofNat 64 ((rd64 g a l).toNat / 2 ^ (rd32 g b l).toNat)) ∧
    RegOp (.sar h false d a b) (fun g _ => lane32 d fun l => BitVec.ofInt 32 ((rd32 g a l).toInt / 2 ^ (rd32 g b l).toNat)) ∧
    RegOp (.sar h true d a b) (fun g _ => lane64 d fun l => BitVec.ofInt 64 ((rd64 g a l).toInt / 2 ^ (rd32 g b l).toNat)) ∧
    RegOp (.rol h d a b) (fun g _ => lane32 d fun l => (rd32 g a l).rotateLeft ((rd32 g b l).toNat % 32)) ∧
    RegOp (.shlImm h false d a imm) (fun g _ => lane32 d fun l => BitVec.ofNat 32 ((rd32 g a l).toNat * 2 ^ imm.toNat)) ∧
    RegOp (.shlImm h true d a imm) (fun g _ => lane64 d fun l => BitVec.ofNat 64 ((rd64 g a l).toNat * 2 ^ imm.toNat)) ∧
    RegOp (.shrImm h false d a imm) (fun g _ => lane32 d fun l => BitVec.ofNat 32 ((rd32 g a l).toNat / 2 ^ imm.toNat)) ∧
    RegOp (.shrImm h true d a imm) (fun g _ => lane64 d fun l => BitVec.ofNat 64 ((rd64 g a l).toNat / 2 ^ imm.toNat)) ∧
    RegOp (.sarImm h false d a imm) (fun g _ => lane32 d fun l => BitVec.ofInt 32 ((rd32 g a l).toInt / 2 ^ imm.toNat)) ∧
    RegOp (.sarImm h true d a imm) (fun g _ => lane64 d fun l => BitVec.ofInt 64 ((rd64 g a l).toInt / 2 ^ imm.toNat)) ∧
    RegOp (.rolImm h false d a imm) (fun g _ => lane32 d fun l => (rd32 g a l).rotateLeft (imm.toNat % 32)) ∧
    RegOp (.rolImm h true d a imm) (fun g _ => lane64 d fun l => (rd64 g a l).rotateLeft imm.toNat)

/-- 09 R117, R118: bit fields and bit counts. -/
def Obligations.VectorBitFieldsAndCounts : Prop :=
  ∀ (h : Hdr) (d a b : BitVec 6),
    RegOp (.bfxU h d a b) (fun g _ => lane32 d fun l =>
      BitVec.ofNat 32 ((rd32 g a l).toNat / 2 ^ ((rd32 g b l).toNat % 256) % 2 ^ fieldLen (rd32 g b l))) ∧
    RegOp (.bfx h d a b) (fun g _ => lane32 d fun l =>
      BitVec.ofInt 32 (BitVec.ofNat (fieldLen (rd32 g b l)) ((rd32 g a l).toNat / 2 ^ ((rd32 g b l).toNat % 256))).toInt) ∧
    RegOp (.bfi h d a b) (fun g _ => lane32 d fun l =>
      let m := fieldMask ((rd32 g b l).toNat % 256) (fieldLen (rd32 g b l))
      (rd32 g d l &&& ~~~ m) ||| ((rd32 g a l <<< ((rd32 g b l).toNat % 256)) &&& m)) ∧
    RegOp (.popc h d a) (fun g _ => lane32 d fun l =>
      BitVec.ofNat 32 ((List.range 32).countP fun k => (rd32 g a l).getLsbD k)) ∧
    RegOp (.popc64 h d a) (fun g _ => lane32 d fun l =>
      BitVec.ofNat 32 ((List.range 64).countP fun k => (rd64 g a l).getLsbD k)) ∧
    RegOp (.clz h d a) (fun g _ => lane32 d fun l =>
      BitVec.ofNat 32 (if rd32 g a l = 0 then 32 else 31 - Nat.log2 (rd32 g a l).toNat)) ∧
    RegOp (.clz64 h d a) (fun g _ => lane32 d fun l =>
      BitVec.ofNat 32 (if rd64 g a l = 0 then 64 else 63 - Nat.log2 (rd64 g a l).toNat)) ∧
    RegOp (.ctz h d a) (fun g _ => lane32 d fun l =>
      BitVec.ofNat 32 (((List.range 32).find? fun k => (rd32 g a l).getLsbD k).getD 32)) ∧
    RegOp (.ctz64 h d a) (fun g _ => lane32 d fun l =>
      BitVec.ofNat 32 (((List.range 64).find? fun k => (rd64 g a l).getLsbD k).getD 64)) ∧
    RegOp (.brev h d a) (fun g _ => lane32 d fun l => (rd32 g a l).reverse) ∧
    RegOp (.brev64 h d a) (fun g _ => lane64 d fun l => (rd64 g a l).reverse)

/-! ## Predicates -/

/-- 09 R110, R111: ISETP, the predicate logic and SELP; a write to pt is discarded. -/
def Obligations.LanePredicates : Prop :=
  ∀ (h : Hdr) (cc : IntCond) (d p q : BitVec 3) (e a b : BitVec 6),
    (∀ dec : ∀ n (x y : BitVec n), Decidable (holds cc x y),
      RegOp (.isetp h false cc d a b) (fun g _ => laneBool d fun l => @decide _ (dec _ (rd32 g a l) (rd32 g b l))) ∧
      RegOp (.isetp h true cc d a b) (fun g _ => laneBool d fun l => @decide _ (dec _ (rd64 g a l) (rd64 g b l)))) ∧
    RegOp (.pand h d p q) (fun g _ => laneBool d fun l => getPl g p.toNat l && getPl g q.toNat l) ∧
    RegOp (.por h d p q) (fun g _ => laneBool d fun l => getPl g p.toNat l || getPl g q.toNat l) ∧
    RegOp (.pxor h d p q) (fun g _ => laneBool d fun l => getPl g p.toNat l ^^ getPl g q.toNat l) ∧
    RegOp (.selp h e a q) (fun g _ => { v := fun l => if getPl g q.toNat l then [(e.toNat, rd32 g a l)] else [] })

/-! ## Uniform instructions -/

/-- 09 R112, R120, R121: the uniform instructions, once for the group when an active lane exists. -/
def Obligations.UniformInstructions : Prop :=
  ∀ (h : Hdr) (cc : IntCond) (q : BitVec 3) (d a b imm : BitVec 6) (i12 : BitVec 12) (x : W32),
    RegOp (.sadd h false d a b) (fun g _ => uni32 d (getS g a.toNat + getS g b.toNat)) ∧
    RegOp (.sadd h true d a b) (fun g _ => uni64 d (getS2 g a.toNat + getS2 g b.toNat)) ∧
    RegOp (.ssub h false d a b) (fun g _ => uni32 d (getS g a.toNat - getS g b.toNat)) ∧
    RegOp (.ssub h true d a b) (fun g _ => uni64 d (getS2 g a.toNat - getS2 g b.toNat)) ∧
    RegOp (.smul h false d a b) (fun g _ => uni32 d (getS g a.toNat * getS g b.toNat)) ∧
    RegOp (.smul h true d a b) (fun g _ => uni64 d (getS2 g a.toNat * getS2 g b.toNat)) ∧
    RegOp (.sand h false d a b) (fun g _ => uni32 d (getS g a.toNat &&& getS g b.toNat)) ∧
    RegOp (.sand h true d a b) (fun g _ => uni64 d (getS2 g a.toNat &&& getS2 g b.toNat)) ∧
    RegOp (.sor h false d a b) (fun g _ => uni32 d (getS g a.toNat ||| getS g b.toNat)) ∧
    RegOp (.sor h true d a b) (fun g _ => uni64 d (getS2 g a.toNat ||| getS2 g b.toNat)) ∧
    RegOp (.sxor h false d a b) (fun g _ => uni32 d (getS g a.toNat ^^^ getS g b.toNat)) ∧
    RegOp (.sxor h true d a b) (fun g _ => uni64 d (getS2 g a.toNat ^^^ getS2 g b.toNat)) ∧
    RegOp (.sshl h false d a b) (fun g _ => uni32 d (BitVec.ofNat 32 ((getS g a.toNat).toNat * 2 ^ (getS g b.toNat).toNat))) ∧
    RegOp (.sshl h true d a b) (fun g _ => uni64 d (BitVec.ofNat 64 ((getS2 g a.toNat).toNat * 2 ^ (getS g b.toNat).toNat))) ∧
    RegOp (.sshr h false d a b) (fun g _ => uni32 d (BitVec.ofNat 32 ((getS g a.toNat).toNat / 2 ^ (getS g b.toNat).toNat))) ∧
    RegOp (.sshr h true d a b) (fun g _ => uni64 d (BitVec.ofNat 64 ((getS2 g a.toNat).toNat / 2 ^ (getS g b.toNat).toNat))) ∧
    RegOp (.smov h false d a) (fun g _ => uni32 d (getS g a.toNat)) ∧
    RegOp (.smov h true d a) (fun g _ => uni64 d (getS2 g a.toNat)) ∧
    RegOp (.smovi h d i12) (fun _ _ => uni32 d (BitVec.ofInt 32 i12.toInt)) ∧
    RegOp (.smoviX h d x) (fun _ _ => uni32 d x) ∧
    RegOp (.saddImm h d a imm) (fun g _ => uni32 d (BitVec.ofInt 32 ((getS g a.toNat).toInt + imm.toInt))) ∧
    RegOp (.saddX h d a x) (fun g _ => uni32 d (getS g a.toNat + x)) ∧
    RegOp (.rdlane h d a b) (fun g _ => uni32 d
      (if (getS g b.toNat).toNat < g.w then rd32 g a (getS g b.toNat).toNat else 0)) ∧
    RegOp (.rdlaneImm h d a imm) (fun g _ => uni32 d (if imm.toNat < g.w then rd32 g a imm.toNat else 0)) ∧
    (∀ dec : ∀ x y : W32, Decidable (holds cc x y),
      RegOp (.ssetp h cc q a b) (fun g _ => { q := [(q.toNat, @decide _ (dec (getS g a.toNat) (getS g b.toNat)))] }))

/-! ## Address, index and state registers -/

/-- 09 R122 to R125, R127, R128: the address-register instructions, where no lane is active or no BOUNDS arises; the index registers,
and MOVX through them inside its window. -/
def Obligations.AddressAndIndexRegisters : Prop :=
  (∀ (h : Hdr) (d e msk : BitVec 4) (r a b imm : BitVec 6) (x : W32) (part : ArPart),
     RegOpWhen (.arSetGlobal h d a b) (fun _ g on => on = 0 ∨ getS2 g a.toNat ≤ getS2 g b.toNat)
       (fun _ g _ => areg d ⟨getS2 g a.toNat, getS2 g a.toNat, getS2 g b.toNat, 0, 15⟩) ∧
     RegOpWhen (.arSetVault h d a b) (fun _ g on => on = 0 ∨ getS2 g a.toNat ≤ getS2 g b.toNat)
       (fun _ g _ => areg d ⟨getS2 g a.toNat, getS2 g a.toNat, getS2 g b.toNat, 1, 15⟩) ∧
     RegOpWhen (.arSetSystem h d a b) (fun _ g on => on = 0 ∨ getS2 g a.toNat ≤ getS2 g b.toNat)
       (fun _ g _ => areg d ⟨getS2 g a.toNat, getS2 g a.toNat, getS2 g b.toNat, 2, 15⟩) ∧
     RegOpWhen (.arPtr h d a) (fun _ g on => on = 0 ∨ InRange (getA g d.toNat) (getS2 g a.toNat).toNat)
       (fun _ g _ => areg d { getA g d.toNat with ptr := getS2 g a.toNat }) ∧
     RegOpWhen (.arAdv h d a)
       (fun _ g on => on = 0 ∨ InRange (getA g d.toNat) ((getA g d.toNat).ptr.toNat + (getS g a.toNat).toInt))
       (fun _ g _ => areg d { getA g d.toNat with ptr := (getA g d.toNat).ptr + (getS g a.toNat).signExtend 64 }) ∧
     RegOpWhen (.arAdvImm h d imm)
       (fun _ g on => on = 0 ∨ InRange (getA g d.toNat) ((getA g d.toNat).ptr.toNat + imm.toInt))
       (fun _ g _ => areg d { getA g d.toNat with ptr := (getA g d.toNat).ptr + imm.signExtend 64 }) ∧
     RegOpWhen (.arAdvX h d x)
       (fun _ g on => on = 0 ∨ InRange (getA g d.toNat) ((getA g d.toNat).ptr.toNat + x.toInt))
       (fun _ g _ => areg d { getA g d.toNat with ptr := (getA g d.toNat).ptr + x.signExtend 64 }) ∧
     RegOp (.arRd h r e part) (fun g _ => uni64 r (
       match part with
       | .ptr => (getA g e.toNat).ptr
       | .base => (getA g e.toNat).base
       | .limit => (getA g e.toNat).limit
       | .attr => BitVec.ofNat 64 ((getA g e.toNat).perm.toNat + (getA g e.toNat).space.toNat * 2 ^ 12))) ∧
     RegOpWhen (.arNarrow h d a b)
       (fun _ g on => on = 0 ∨ ((getA g d.toNat).base ≤ getS2 g a.toNat ∧ getS2 g a.toNat ≤ getS2 g b.toNat ∧
         getS2 g b.toNat ≤ (getA g d.toNat).limit))
       (fun _ g _ => areg d { getA g d.toNat with
         base := getS2 g a.toNat, limit := getS2 g b.toNat,
         ptr := if getS2 g a.toNat ≤ (getA g d.toNat).ptr ∧ (getA g d.toNat).ptr ≤ getS2 g b.toNat then (getA g d.toNat).ptr
           else getS2 g a.toNat }) ∧
     RegOp (.arPerm h d msk) (fun g _ => areg d { getA g d.toNat with perm := (getA g d.toNat).perm &&& msk })) ∧
  (∀ (h : Hdr) (d : BitVec 2) (r elt imm : BitVec 6),
     RegOpWhen (.ixSet h d r elt) (fun _ g _ => r.toNat + (elt.toNat + 1) ≤ regsOf g)
       (fun _ _ _ => ireg d ⟨BitVec.ofNat 7 (elt.toNat + 1), r⟩) ∧
     RegOpWhen (.ixAdv h d imm)
       (fun _ g on => on = 0 ∨ (0 ≤ ((getI g d.toNat).base.toNat : Int) + imm.toInt ∧
         ((getI g d.toNat).base.toNat : Int) + imm.toInt + (getI g d.toNat).count.toNat ≤ regsOf g))
       (fun _ g _ => ireg d { getI g d.toNat with base := (getI g d.toNat).base + imm }) ∧
     RegOpWhen (.movxRead h r d elt) (fun _ g on => on = 0 ∨ elt.toNat < (getI g d.toNat).count.toNat)
       (fun _ g _ => lane32 r fun l => getV g ((getI g d.toNat).base.toNat + elt.toNat) l) ∧
     RegOpWhen (.movxWrite h d r elt) (fun _ g on => on = 0 ∨ elt.toNat < (getI g d.toNat).count.toNat)
       (fun _ g _ => { v := fun l => [((getI g d.toNat).base.toNat + elt.toNat, rd32 g r l)] }))

/-- 09 R129 to R131; 07 R90; 21 R290: SRD reads each state register, sr.lane per lane and every other once, and a time or an address takes a pair; a read of
sr.lt waits until every older access of the group has given its stamp; SWR
writes sr.rmode, sr.tbase and, of a limited slice, sr.budget: reserved bits are ignored, a budget of 0 raises BUDGET at the next
boundary (21 R290), and nothing else of the registers changes. The bits that are kept are those of 07 R90 and 09 R131. -/
def Obligations.StateRegisters : Prop :=
  (∀ (h : Hdr) (d : BitVec 6) (sr : SReg),
     RegOpWhen (.srd h d sr) (fun s g on => on = 0 ∨ sr ≠ .lt ∨ Joined s g) (fun s g _ =>
       match sr with
       | .lane => lane32 d fun l => BitVec.ofNat 32 l
       | .group => uni32 d (BitVec.ofNat 32 g.srGroup)
       | .team => uni32 d (BitVec.ofNat 32 g.srTeam)
       | .width => uni32 d (BitVec.ofNat 32 g.w)
       | .core => uni32 d (BitVec.ofNat 32 g.core)
       | .pair => uni32 d (BitVec.ofNat 32 (g.core / 2))
       | .die => uni32 d (BitVec.ofNat 32 (g.core / 16))
       | .lt => uni64 d (BitVec.ofNat 64 (g.lt % 2 ^ 48))
       | .dtime => uni64 d (dtime s (g.core / 16))
       | .rmode => uni32 d g.rmode
       | .tbase => uni32 d g.tbase
       | .tdepth => uni32 d (BitVec.ofNat 32 g.frames.length)
       | .deadline => uni64 d g.deadline
       | .budget => uni32 d g.budget)) ∧
  (∀ (h : Hdr) (d : BitVec 6), Stays (.srd h d .lt) fun c => c.on ≠ 0 ∧ ¬ Joined c.s c.g) ∧
  (∀ (h : Hdr) (d : BitVec 6) (sr : SReg) (s : State) (cu : Cursor) (g : Group), Runs (.swr h d sr) s cu g →
     ∃ g', exec (.swr h d sr) s = .next (after s g') ∧ GoesOn g g' (actLanes g cu) (fun _ => fallThrough (.swr h d sr) g cu) ∧
       FramesStay g g' ∧
       g' = { g with rmode := g'.rmode, tbase := g'.tbase, budget := g'.budget, budgetPend := g'.budgetPend, lanes := g'.lanes
                     ents := g'.ents, frames := g'.frames, retired := g'.retired, released := g'.released } ∧
       g'.rmode = (if active (.swr h d sr) g cu ≠ 0 ∧ sr = .rmode then getS g d.toNat &&& 0x1B else g.rmode) ∧
       g'.tbase = (if active (.swr h d sr) g cu ≠ 0 ∧ sr = .tbase then getS g d.toNat &&& 0x80000FFF else g.tbase) ∧
       (∀ x, active (.swr h d sr) g cu ≠ 0 → sr = .budget → g.slice = some x → x.limited = true →
         g'.budget = getS g d.toNat ∧ g'.budgetPend = (g.budgetPend || getS g d.toNat == 0)) ∧
       (active (.swr h d sr) g cu = 0 ∨ sr ≠ .budget ∨ (∀ x, g.slice = some x → x.limited = false) →
         g'.budget = g.budget ∧ g'.budgetPend = g.budgetPend))

/-! ## Floating point -/

/-- 11 R135, R136, R138: float arithmetic under the rounding mode and the flush bits; FFMA rounds as its code says. -/
def Obligations.FloatArithmetic : Prop :=
  ∀ (h : Hdr) (x : XHdr) (ty : FTy) (d a b c : BitVec 6) (rnd : Rnd),
    RegOp (.fadd h ty d a b) (fun g _ => fltD false ty d fun l => flt2 g ty (dynMode g) (addF (dynMode g)) a b l) ∧
    RegOp (.fsub h ty d a b) (fun g _ => fltD false ty d fun l =>
      flt2 g ty (dynMode g) (fun u v => addF (dynMode g) u (negF v)) a b l) ∧
    RegOp (.fmul h ty d a b) (fun g _ => fltD false ty d fun l => flt2 g ty (dynMode g) mulF a b l) ∧
    RegOp (.fmac h ty d a b) (fun g _ => fltD false ty d fun l =>
      flt3 g ty (dynMode g) (fun u v w => addF (dynMode g) (mulF u v) w) a b d l) ∧
    RegOp (.ffma x ty d a b c rnd) (fun g _ => fltD false ty d fun l =>
      flt3 g ty (codeMode (dynMode g) rnd) (fun u v w => addF (codeMode (dynMode g) rnd) (mulF u v) w) a b c l) ∧
    RegOp (.fmin h ty d a b) (fun g _ => fltD false ty d fun l => flt2 g ty .rn (minmaxF false) a b l) ∧
    RegOp (.fmax h ty d a b) (fun g _ => fltD false ty d fun l => flt2 g ty .rn (minmaxF true) a b l) ∧
    RegOp (.fscale h ty d a b) (fun g _ => fltD false ty d fun l =>
      flt2 g ty (dynMode g) (fun u _ => scaleF (rd32 g b l).toInt u) a a l)

/-- 11 R139, R140: float comparisons into a predicate, and FCLASS. -/
def Obligations.FloatCompareAndClass : Prop :=
  ∀ (h : Hdr) (cc : FltCond) (p : BitVec 3) (d a b : BitVec 6),
    RegOp (.fsetp h cc p a b) (fun g _ => laneBool p fun l =>
      fltCond cc (readF fp32 (ftyFlush g .f32) (rd32 g a l).toNat) (readF fp32 (ftyFlush g .f32) (rd32 g b l).toNat)) ∧
    RegOp (.fsetpF64 h cc p a b) (fun g _ => laneBool p fun l =>
      fltCond cc (decodeF fp64 (rd64 g a l).toNat) (decodeF fp64 (rd64 g b l).toNat)) ∧
    RegOp (.fclass h false d a) (fun g _ => lane32 d fun l => BitVec.ofNat 32 (classF fp32 (rd32 g a l).toNat)) ∧
    RegOp (.fclass h true d a) (fun g _ => lane32 d fun l => BitVec.ofNat 32 (classF fp64 (rd64 g a l).toNat))

/-- 11 R137: FDIV, FSQRT, the functions and FRND, whose results may be outstanding; a function's result is a free one within its
bound (07 R98; assumption 2). The model's choices, assumption 68: a value past the range of the format is rounded to nearest, so that it is
infinity, and the values within the bound have the sign of the exact result. -/
def Obligations.FloatFunctions : Prop :=
  ∀ (h : Hdr) (ty : FTy) (d a b : BitVec 6),
    RegOp (.fdiv h false d a b) (fun g _ => fltD true .f32 d fun l => flt2 g .f32 (dynMode g) divF a b l) ∧
    RegOp (.fdiv h true d a b) (fun g _ => fltD true .f64 d fun l => flt2 g .f64 (dynMode g) divF a b l) ∧
    RegOp (.fsqrt h ty d a) (fun g _ => fltD true ty d fun l => fltF g ty (dynMode g) (fun _ x => sqrtF x) a l) ∧
    RegOp (.frcp h .f32 d a) (fun g _ => fltD true .f32 d fun l => fltF g .f32 .rn (fun k x => rcpF fp32 k x) a l) ∧
    (ty ≠ .f32 → RegOp (.frcp h ty d a) (fun g _ => fltD true ty d fun l =>
      fltF g ty (dynMode g) (fun _ x => divF (.fin false 1 0) x) a l)) ∧
    RegOp (.frsq h ty d a) (fun g _ => fltD true ty d fun l => fltF g ty .rn (rsqF (ftyFmt ty) (bound2 ty)) a l) ∧
    RegOp (.fexp2 h ty d a) (fun g _ => fltD true ty d fun l => fltF g ty .rn (exp2F (ftyFmt ty) (bound2 ty)) a l) ∧
    RegOp (.flog2 h ty d a) (fun g _ => fltD true ty d fun l => fltF g ty .rn (log2F (ftyFmt ty) (bound2 ty)) a l) ∧
    RegOp (.ftanh h ty d a) (fun g _ => fltD true ty d fun l => fltF g ty .rn (tanhF (ftyFmt ty) (bound2 ty)) a l) ∧
    RegOp (.fsin h ty d a) (fun g _ => fltD true ty d fun l => fltF g ty .rn (sinF (ftyFmt ty) (bound2 ty)) a l) ∧
    RegOp (.fcos h ty d a) (fun g _ => fltD true ty d fun l => fltF g ty .rn (cosF (ftyFmt ty) (bound2 ty)) a l) ∧
    RegOp (.fsigm h ty d a) (fun g _ => fltD true ty d fun l => fltF g ty .rn (sigmF (ftyFmt ty) (bound2 ty)) a l) ∧
    RegOp (.frndRn h ty d a) (fun g _ => fltD true ty d fun l => fltF g ty .rn (fun _ x => rndIntF .rn x) a l) ∧
    RegOp (.frndRz h ty d a) (fun g _ => fltD true ty d fun l => fltF g ty .rn (fun _ x => rndIntF .rz x) a l) ∧
    RegOp (.frndRu h ty d a) (fun g _ => fltD true ty d fun l => fltF g ty .rn (fun _ x => rndIntF .ru x) a l) ∧
    RegOp (.frndRd h ty d a) (fun g _ => fltD true ty d fun l => fltF g ty .rn (fun _ x => rndIntF .rd x) a l)

/-- 11 R141, R142: the conversions between integers and floats, and between floats. -/
def Obligations.FloatConversions : Prop :=
  ∀ (h : Hdr) (rnd : Rnd) (d a : BitVec 6) (x : CvtIF) (y : CvtFI) (z : CvtFF),
    RegOp (.cvtI2F h rnd d a x) (fun g _ => fkindD x.dst d fun l =>
      roundF (fkindFmt x.dst) (codeMode .rn rnd) false (ofIntF (ityRead g x.src a.toNat l))) ∧
    RegOp (.cvtF2I h rnd d a y) (fun g _ => ityD y.dst d fun l =>
      toIntF (codeMode .rn rnd) (ityRange y.dst).1 (ityRange y.dst).2
        (decodeF (fkindFmt y.src) (fkindRead g y.src a.toNat l))) ∧
    RegOp (.cvtF2F h rnd d a z) (fun g _ => fkindD z.dst d fun l =>
      roundF (fkindFmt z.dst) (codeMode (dynMode g) rnd) (fkindFlush g z.dst)
        (decodeF (fkindFmt z.src) (fkindRead g z.src a.toNat l)))

/-- 11 R143 to R145: packing into and unpacking from narrow formats, block scales and RMIX. -/
def Obligations.PackScaleMix : Prop :=
  ∀ (h : Hdr) (d a b : BitVec 6) (k8 : PackCode) (k4 : Pack4Code) (f8 : Fp8) (kb : BlkCode),
    RegOp (.pack8 h d a k8) (fun g _ => lane32 d fun l => BitVec.ofNat 32 ((List.range 4).map fun i =>
      narrowF (fp8Fmt k8.fmt) k8.rnd (getV g (a.toNat + 4 + i) l).toNat (decodeF fp32 (getV g (a.toNat + i) l).toNat) *
        2 ^ (8 * i)).sum) ∧
    RegOp (.unpk8 h d a f8) (fun g _ => { v := fun l => (List.range 4).map fun i => (d.toNat + i,
      BitVec.ofNat 32 (roundF fp32 .rn false (decodeF (fp8Fmt f8) ((rd32 g a l).toNat / 2 ^ (8 * i) % 256)))) }) ∧
    RegOp (.pack4 h d a k4) (fun g _ => lane32 d fun l => BitVec.ofNat 32 ((List.range 8).map fun i =>
      narrowF fpE2m1 k4.rnd 0 (decodeF fp32 (getV g (a.toNat + i) l).toNat) * 2 ^ (4 * i)).sum) ∧
    RegOp (.unpk4 h d a) (fun g _ => { v := fun l => (List.range 8).map fun i => (d.toNat + i,
      BitVec.ofNat 32 (roundF fp32 .rn false (decodeF fpE2m1 ((rd32 g a l).toNat / 2 ^ (4 * i) % 16)))) }) ∧
    RegOp (.scaleBlk h d a kb) (fun g on => { v := fun l =>
      let e := if kb.sc then (getV g (d.toNat + 1) l).toNat % 256 else blockScale (blkFmt kb.fmt).2
        (((lanesOf g.w on).filter fun m => m / 32 == l / 32).map fun m => (rd32 g a m).toNat)
      [(d.toNat, BitVec.ofNat 32 (if e = 255 then 0 else narrowF (blkFmt kb.fmt).1 kb.rnd (getV g (a.toNat + 1) l).toNat
        (scaleF (127 - e) (decodeF fp32 (rd32 g a l).toNat)))), (d.toNat + 1, BitVec.ofNat 32 e)] }) ∧
    RegOp (.rmix h d a b) (fun g _ => lane64 d fun l => rmixOf (getS2 g b.toNat) (rd64 g a l))

/-! ## Cross-lane instructions -/

/-- 11 R147: the shuffles by register and by immediate; a lane whose source lane does not exist takes its own value. -/
def Obligations.Shuffles : Prop :=
  ∀ (h : Hdr) (d a b imm : BitVec 6),
    RegOp (.shflIdx h d a b) (fun g _ => lane32 d fun l => fromLane g a l (rd32 g b l).toNat) ∧
    RegOp (.shflUp h d a b) (fun g _ => lane32 d fun l => fromLane g a l ((l : Int) - (rd32 g b l).toNat)) ∧
    RegOp (.shflDown h d a b) (fun g _ => lane32 d fun l => fromLane g a l ((l : Int) + (rd32 g b l).toNat)) ∧
    RegOp (.shflXor h d a b) (fun g _ => lane32 d fun l => fromLane g a l ((l ^^^ (rd32 g b l).toNat : Nat) : Int)) ∧
    RegOp (.shflIdxImm h d a imm) (fun g _ => lane32 d fun l => fromLane g a l imm.toNat) ∧
    RegOp (.shflUpImm h d a imm) (fun g _ => lane32 d fun l => fromLane g a l ((l : Int) - imm.toNat)) ∧
    RegOp (.shflDownImm h d a imm) (fun g _ => lane32 d fun l => fromLane g a l ((l : Int) + imm.toNat)) ∧
    RegOp (.shflXorImm h d a imm) (fun g _ => lane32 d fun l => fromLane g a l ((l ^^^ imm.toNat : Nat) : Int))

/-- 11 R148 to R150: votes, MATCH, ELECT, RED and SCAN over the active lanes. The model's choice, assumption 68: a float RED or SCAN over
one contributing lane gives its value flushed and a NaN in canonical form (through `redIn`), where 07 R97 says 'one present: that one'. -/
def Obligations.VotesAndReductions : Prop :=
  ∀ (h : Hdr) (p q : BitVec 3) (d a : BitVec 6) (fn : RedFn) (k : ScanCode),
    RegOp (.voteAll h p q) (fun g on => laneBool p fun _ => decide (∀ m < g.w, on.getLsbD m = true → getPl g q.toNat m = true)) ∧
    RegOp (.voteAny h p q) (fun g on => laneBool p fun _ => decide (∃ m < g.w, on.getLsbD m = true ∧ getPl g q.toNat m = true)) ∧
    RegOp (.voteBal h d q) (fun g on => lane64 d fun _ => on &&& getP g q.toNat) ∧
    RegOp (.matchLanes h d a) (fun g on => lane64 d fun l =>
      maskWhere g.w fun m => on.getLsbD m && rd32 g a m == rd32 g a l) ∧
    RegOp (.elect h p) (fun _ on => laneBool p fun l => decide (∀ m < l, on.getLsbD m = false)) ∧
    RegOp (.red h d a fn) (fun g on => late32 d fun _ => overLanes g a fn fun m => on.getLsbD m) ∧
    RegOp (.scan h d a k) (fun g on => late32 d fun l => overLanes g a k.fn fun m =>
      on.getLsbD m && if k.excl then decide (m < l) else decide (m ≤ l))

/-! ## Control flow -/

/-- 09 R104, R105, R109: the branches, NOP, and YIELD outside a slice's BUDGET handler, after which the group is its core's last
candidate. -/
def Obligations.Branches : Prop :=
  ∀ (h : Hdr) (o : BitVec 18) (a : BitVec 6),
    BranchWhen (.bra h o) (fun _ _ => True) (fun g pc _ => offTarget g pc o) ∧
    BranchWhen (.bru h o) (fun _ _ => True) (fun g pc _ => offTarget g pc o) ∧
    BranchWhen (.brx h a) (fun g on => EachActive g on fun l => targetAligned g (rd64 g a l) = true) (fun g _ l => rd64 g a l) ∧
    RegOp (.nop h) (fun _ _ => {}) ∧
    Retires (.yield h) (fun c => c.on = 0 ∨ ∀ f, c.g.frames.getLast? = some f → f.fr.code = 0x0501 → c.g.slice = none) (·.s)
      (fun c => { c.g with yielded := c.g.yielded || c.on != 0 }) (fun _ => {})

/-- 09 R106; 03 R30: CALL and CALLX into a stack with room, and RET from a stack on the chip. -/
def Obligations.CallsAndReturns : Prop :=
  ∀ (h : Hdr) (o : BitVec 18) (a : BitVec 6),
    CallGoes (.call h o) (fun g pc _ => offTarget g pc o) ∧
    CallGoes (.callx h a) (fun g _ l => rd64 g a l) ∧
    ∀ s cu g, Runs (.ret h) s cu g →
      EachActive g (active (.ret h) g cu) (fun l =>
        ∃ x, (laneAt g l).stack.getLast? = some x ∧ targetAligned g x.ra = true) →
      ∃ g', exec (.ret h) s = .next (after s g') ∧ SameRegs g g' ∧ FramesStay g g' ∧ g'.lanes.length = g.lanes.length ∧
        ∀ l, l < g.lanes.length → l < g.w → (laneAt g' l).exited = (laneAt g l).exited ∧ (laneAt g' l).sd = (laneAt g l).sd ∧
          (laneAt g' l).park = (laneAt g l).park ∧
          if (active (.ret h) g cu).getLsbD l then
            (laneAt g' l).stack = (laneAt g l).stack.dropLast ∧
            ∀ x, (laneAt g l).stack.getLast? = some x →
              (laneAt g' l).pc = x.ra ∧ ((laneAt g l).held = false → (laneAt g' l).meet = x.meet)
          else
            (laneAt g' l).stack = (laneAt g l).stack ∧
            (laneAt g' l).pc = (if (actLanes g cu).getLsbD l then fallThrough (.ret h) g cu else (laneAt g l).pc) ∧
            ((laneAt g l).held = false → (laneAt g' l).meet = (laneAt g l).meet)

/-- 03 R32; 09 R107, R109; 13 R169: MEET, MEET.X and MEET.R; EXIT ends the active lanes, whose stacks and reservations are lost, and
memory and every register keep their values while a lane of the group lives on. -/
def Obligations.MeetingAddressesAndExit : Prop :=
  (∀ (h : Hdr) (o : BitVec 18) (a : BitVec 6),
     MeetGoes (.meet h o) (fun _ _ => True) (fun g pc _ => offTarget g pc o) ∧
     MeetGoes (.meetX h a) (fun g on => EachActive g on fun l => targetAligned g (rd64 g a l) = true) (fun g _ l => rd64 g a l) ∧
     MeetGoes (.meetR h) (fun _ _ => True) (fun _ _ _ => 0xFFFFFFFFFFFFFFFF)) ∧
  (∀ (h : Hdr) (s : State) (cu : Cursor) (g : Group), Runs (.exit h) s cu g →
     liveMask g &&& ~~~ active (.exit h) g cu ≠ 0 →
     (∀ l, l < g.w → ∀ w, (laneAt g l).park ≠ .waiting w) →
     (∀ x ∈ s.groups, x.gid ≠ cu.gid → x.team ≠ g.team) →
     ∃ g', exec (.exit h) s = .next { (after s g') with
         resv := s.resv.filter fun r => !(r.gid == cu.gid && (active (.exit h) g cu).getLsbD r.lane)
         scf := s.scf.filter fun r => !(r.gid == cu.gid && (active (.exit h) g cu).getLsbD r.lane) } ∧
       SameRegs g g' ∧ g'.lanes.length = g.lanes.length ∧
       ∀ l, l < g.lanes.length →
         if (active (.exit h) g cu).getLsbD l then (laneAt g' l).exited = true ∧ (laneAt g' l).stack = []
         else (laneAt g' l).exited = (laneAt g l).exited ∧ (laneAt g' l).stack = (laneAt g l).stack ∧
           (laneAt g' l).pc = if (actLanes g cu).getLsbD l then fallThrough (.exit h) g cu else (laneAt g l).pc)

/-! ## Loads, stores and atomics -/

/-- 13 R162; 15 R185 to R190; 09 R105: every load whose lanes have no cause sends its accesses and its entry waits. The model's choice,
assumption 13: the entry of the load waits for the replies, or is busy with the load on a D-core, and issues nothing else meanwhile. -/
def Obligations.LoadsSendTheirAccesses : Prop :=
  ∀ (h : Hdr) (x : XHdr) (sz : LdSize) (nsz : NtSize) (w64 : Bool) (d b imm : BitVec 6) (a : BitVec 4) (ord : Order) (sc : Scope),
    SendsLoads (.ldReg h sz d a b) a (fun g l => (rd32 g b l).toInt) (ldBytes sz) (fun _ _ => false) false false
      (reqDests d.toNat (ldRegs sz)) ∧
    SendsLoads (.ldImm h sz d a imm) a (fun _ _ => imm.toInt * ldBytes sz) (ldBytes sz) (fun _ _ => false) false false
      (reqDests d.toNat (ldRegs sz)) ∧
    SendsLoads (.ldNt h nsz d a b) a (fun g l => (rd32 g b l).toInt) (ntBytes nsz) (fun _ _ => false) true false
      (reqDests d.toNat (ntBytes nsz / 4)) ∧
    SendsLoads (.ldOrdered x d a b ord sc sz) a (fun g l => (rd32 g b l).toInt) (ldBytes sz) (fun s g => wideScope s g sc) false
      (isAcq ord) (reqDests d.toNat (ldRegs sz)) ∧
    SendsUni (.ldsImm h w64 d a imm) a (fun _ => imm.toInt * (if w64 then 8 else 4)) (if w64 then 8 else 4) (uniDests d w64) ∧
    SendsUni (.ldsReg h w64 d a b) a (fun g => (getS g b.toNat).toInt) (if w64 then 8 else 4) (uniDests d w64)

/-- 13 R165; 15 R187 to R190: a load whose accesses are answered writes its registers, sign- or zero-extended. The model's choices: the
waiting entry takes the values up in an issue of its own (assumption 13), and `rlt` takes what relaxed loads have read (assumption 70). -/
def Obligations.LoadsTakeUpTheirValues : Prop :=
  ∀ (h : Hdr) (x : XHdr) (sz : LdSize) (nsz : NtSize) (w64 : Bool) (d b imm : BitVec 6) (a : BitVec 4) (ord : Order) (sc : Scope),
    TakesUp (.ldReg h sz d a b) (fun _ _ => True) (laneDests d (ldRegs sz)) (fun _ as => wordsD d (ldRegs sz) fun l => extendLoad sz (accVal as l)) ∧
    TakesUp (.ldImm h sz d a imm) (fun _ _ => True) (laneDests d (ldRegs sz)) (fun _ as => wordsD d (ldRegs sz) fun l => extendLoad sz (accVal as l)) ∧
    TakesUp (.ldNt h nsz d a b) (fun _ _ => True) (laneDests d (ntBytes nsz / 4)) (fun _ as => wordsD d (ntBytes nsz / 4) fun l => accVal as l) ∧
    TakesUp (.ldOrdered x d a b ord sc sz) (fun _ _ => True) (laneDests d (ldRegs sz))
      (fun _ as => wordsD d (ldRegs sz) fun l => extendLoad sz (accVal as l)) ∧
    TakesUp (.ldsImm h w64 d a imm) (fun _ as => as ≠ []) (fun _ => uniDests d w64)
      (fun _ as => { s := uniWords d w64 (as.head?.elim 0 fun y => accVal as y.lane), late := true }) ∧
    TakesUp (.ldsReg h w64 d a b) (fun _ as => as ≠ []) (fun _ => uniDests d w64)
      (fun _ as => { s := uniWords d w64 (as.head?.elim 0 fun y => accVal as y.lane), late := true })

/-- 09 R105: JTB reads its table entries as a load, and its lanes go on at image start plus entry. The model's choices: the entry waits
for its reads (assumption 13), and `rlt` takes what relaxed loads have read (assumption 70). -/
def Obligations.TableBranch : Prop :=
  ∀ (h : Hdr) (a : BitVec 6) (b : BitVec 4),
    (∀ s cu g, Runs (.jtb h a b) s cu g →
      let r := checked (.jtb h a b) s cu g b (fun g l => 4 * ((rd32 g a l).toNat : Int)) 4 .rd
      r.2.1 = [] → (∃ q ∈ r.2.2, accOpen (loadAcc r.1 q 4 0 (isSys (getA g b.toNat)) false false false) = true) →
      ∃ t, exec (.jtb h a b) s = .next t ∧
        Waits (.jtb h a b) s t cu g (r.2.2.map fun q => loadAcc r.1 q 4 0 (isSys (getA g b.toNat)) false false false) []) ∧
    ∀ s cu g fl, Resumes (.jtb h a b) s cu g fl [] → fl.causes = [] → Answered g (mine s cu) → fl.on = maskOf ((mine s cu).map (·.lane)) →
      (∀ y ∈ mine s cu, targetAligned g (imageStart g + BitVec.ofNat 64 (accVal (mine s cu) y.lane)) = true) →
      ∃ g', exec (.jtb h a b) s = .next (after (without s cu) g') ∧ OnlyTaken cu g g' ∧ RegsAre g g' 0 {} ∧ g'.pend = [] ∧
        g'.lt = maxList g.lt ((mine s cu).map accStamp) ∧ g'.rlt = maxList g.rlt ((mine s cu).map (·.rst)) ∧
        GoesOn g g' (actLanes g cu) (fun l => if (mine s cu).any (fun y => y.lane == l) then
          imageStart g + BitVec.ofNat 64 (accVal (mine s cu) l) else fallThrough (.jtb h a b) g cu) ∧ FramesStay g g'

/-- 13 R156, R158, R172; 15 R186 to R190: every store outside system space, when no lane has a cause and it has nothing left to release,
posts its bytes and leaves memory, registers and other groups as they are. -/
def Obligations.StoresPostTheirBytes : Prop :=
  ∀ (h : Hdr) (x : XHdr) (sz : StSize) (nsz : NtSize) (w64 : Bool) (d b imm : BitVec 6) (a : BitVec 4) (ord : Order) (sc : Scope),
    PostsStores (.stReg h sz d a b) a (fun g l => (rd32 g b l).toInt) (stBytes sz) (fun _ _ => True)
      (fun g l => runVal g d.toNat l (stRegs sz) % 2 ^ (8 * stBytes sz)) ∧
    PostsStores (.stImm h sz d a imm) a (fun _ _ => imm.toInt * stBytes sz) (stBytes sz) (fun _ _ => True)
      (fun g l => runVal g d.toNat l (stRegs sz) % 2 ^ (8 * stBytes sz)) ∧
    PostsStores (.stNt h nsz d a b) a (fun g l => (rd32 g b l).toInt) (ntBytes nsz) (fun _ _ => True)
      (fun g l => runVal g d.toNat l (ntBytes nsz / 4)) ∧
    PostsStores (.stOrdered x d a b ord sc sz) a (fun g l => (rd32 g b l).toInt) (stBytes sz)
      (fun s g => isRel ord = true → Released s g sc)
      (fun g l => runVal g d.toNat l (stRegs sz) % 2 ^ (8 * stBytes sz)) ∧
    PostsUni (.stsImm h w64 d a imm) a (fun _ => imm.toInt * (if w64 then 8 else 4)) (if w64 then 8 else 4)
      (fun g => if w64 then (getS2 g d.toNat).toNat else (getS g d.toNat).toNat) ∧
    PostsUni (.stsReg h w64 d a b) a (fun g => (getS g b.toNat).toInt) (if w64 then 8 else 4)
      (fun g => if w64 then (getS2 g d.toNat).toNat else (getS g d.toNat).toNat)

/-- 13 R167, R168; 15 R190 to R192: AMO, LR and SC send one access a lane, and take up the old values or the successes; releases at a
scope wider than the core are left out. The model's choices: the entry waits and takes the answers up in an issue of its own
(assumption 13), and `rlt` takes what relaxed reads have given (assumption 70). -/
def Obligations.AtomicsSendAndTakeUp : Prop :=
  ∀ (x : XHdr) (sz : AmoSize) (op : AmoOp) (d b c : BitVec 6) (p : BitVec 3) (a : BitVec 4) (ord : Order) (sc : Scope),
    SendsRmw (.amo x d a b c ord sc sz op) a b (amoBytes sz) .amo (relScope ord sc) (fun g l => amoOperand g op sz c.toNat l)
      (reqDests d.toNat (amoBytes sz / 4)) ∧
    SendsRmw (.lr x d a b ord sc sz) a b (amoBytes sz) .lr none (fun _ _ => (.lr, 0)) (reqDests d.toNat (amoBytes sz / 4)) ∧
    SendsRmw (.sc x d a b p ord sc sz) a b (amoBytes sz) .sc (relScope ord sc)
      (fun g l => (.sc, BitVec.ofNat 64 (runVal g d.toNat l (amoRegs sz)))) (fun qs => qs.map fun q => .p p.toNat q.lane) ∧
    TakesUp (.amo x d a b c ord sc sz op) (fun _ _ => True) (laneDests d (amoBytes sz / 4)) (fun _ as => wordsD d (amoBytes sz / 4) fun l => accVal as l) ∧
    TakesUp (.lr x d a b ord sc sz) (fun _ _ => True) (laneDests d (amoBytes sz / 4)) (fun _ as => wordsD d (amoBytes sz / 4) fun l => accVal as l) ∧
    TakesUp (.sc x d a b p ord sc sz) (fun _ _ => True) (fun as => (accLanes as).map fun l => .p p.toNat l)
      (fun _ as => { p := fun l => [(p.toNat, accOk as l)], late := true })

/-- 13 R152; 15 R186 to R190; 31 R358: every store through a system-space register, when no lane has a cause and it has nothing left to
release, changes the stored bytes and no other byte of memory. -/
def Obligations.SystemStoresChangeTheirBytes : Prop :=
  ∀ (h : Hdr) (x : XHdr) (sz : StSize) (nsz : NtSize) (w64 : Bool) (d b imm : BitVec 6) (a : BitVec 4) (ord : Order) (sc : Scope),
    StoresAtOnce (.stReg h sz d a b) (fun s cu g => checked (.stReg h sz d a b) s cu g a (fun g l => (rd32 g b l).toInt) (stBytes sz) .store)
      a (stBytes sz) (fun _ _ => True) (fun g l => runVal g d.toNat l (stRegs sz)) ∧
    StoresAtOnce (.stImm h sz d a imm)
      (fun s cu g => checked (.stImm h sz d a imm) s cu g a (fun _ _ => imm.toInt * stBytes sz) (stBytes sz) .store)
      a (stBytes sz) (fun _ _ => True) (fun g l => runVal g d.toNat l (stRegs sz)) ∧
    StoresAtOnce (.stNt h nsz d a b)
      (fun s cu g => checked (.stNt h nsz d a b) s cu g a (fun g l => (rd32 g b l).toInt) (ntBytes nsz) .store)
      a (ntBytes nsz) (fun _ _ => True) (fun g l => runVal g d.toNat l (ntBytes nsz / 4)) ∧
    StoresAtOnce (.stOrdered x d a b ord sc sz)
      (fun s cu g => checked (.stOrdered x d a b ord sc sz) s cu g a (fun g l => (rd32 g b l).toInt) (stBytes sz) .store)
      a (stBytes sz) (fun s g => isRel ord = true → Released s g sc) (fun g l => runVal g d.toNat l (stRegs sz)) ∧
    StoresAtOnce (.stsImm h w64 d a imm)
      (fun s cu g => checkedUni (.stsImm h w64 d a imm) s cu g a (fun _ => imm.toInt * (if w64 then 8 else 4)) (if w64 then 8 else 4) .store)
      a (if w64 then 8 else 4) (fun _ _ => True) (fun g _ => if w64 then (getS2 g d.toNat).toNat else (getS g d.toNat).toNat) ∧
    StoresAtOnce (.stsReg h w64 d a b)
      (fun s cu g => checkedUni (.stsReg h w64 d a b) s cu g a (fun g => (getS g b.toNat).toInt) (if w64 then 8 else 4) .store)
      a (if w64 then 8 else 4) (fun _ _ => True) (fun g _ => if w64 then (getS2 g d.toNat).toNat else (getS g d.toNat).toNat)

/-- 15 R188, R193; 13 R173, R176, R178: PRF sends its prefetches; FENCE goes on once its predecessor classes are made, waits while they are
not, and with w among them at a wide scope leaves no store of the core buffered or at a vault; what its earlier loads have read, and with
cw or mw what its operations have written, joins the logical time (the model's choice, assumption 70). -/
def Obligations.PrefetchAndFence : Prop :=
  ∀ (h : Hdr) (lvl : PrfLevel) (a : BitVec 4) (b imm pred succ : BitVec 6) (sc : Scope),
    Prefetches (.prfReg h lvl a b) lvl a (fun g l => (rd32 g b l).toInt) ∧
    Prefetches (.prfImm h lvl a imm) lvl a (fun _ _ => imm.toInt * 128) ∧
    Retires (.fence h sc pred succ)
      (fun c => c.on = 0 ∨ fenceHeld c.s c.g c.on pred = false ∧ (pred.getLsbD 1 = true → wideScope c.s c.g sc = false)) (·.s)
      (fun c => { c.g with lt := (if c.on = 0 then c.g.lt else
        max (if pred.getLsbD 0 then max c.g.lt c.g.rlt else c.g.lt)
          (if pred.getLsbD 3 ∨ pred.getLsbD 5 then engineStamp c.s c.g else 0)) }) (fun _ => {}) ∧
    Stays (.fence h sc pred succ) (fun c => c.on ≠ 0 ∧ fenceHeld c.s c.g c.on pred = true) ∧
    ∀ s cu g, Runs (.fence h sc pred succ) s cu g → active (.fence h sc pred succ) g cu ≠ 0 →
      fenceHeld s g (active (.fence h sc pred succ) g cu) pred = false →
      pred.getLsbD 1 = true → wideScope s g sc = true → relHeld s g.core = false →
      (sc = .sys → remoteWaits s g.gid = false ∧ g.remFail = none) →
      ∃ t g', exec (.fence h sc pred succ) s = .next t ∧ Retired (.fence h sc pred succ) t cu g {} ∧
        (∀ y ∈ t.cbuf, y.core ≠ g.core) ∧
        (∀ x ∈ t.accs, x.core = g.core → x.op = .store → x.st = .sent → ∀ k, x.place ≠ .vault k) ∧
        getGroup t cu.gid = some g' ∧ max g.lt (if pred.getLsbD 0 = true then g.rlt else 0) ≤ g'.lt ∧
        (pred.getLsbD 3 = true ∨ pred.getLsbD 5 = true → engineStamp s g ≤ g'.lt)

/-! ## Barriers, chimes and queues -/

/-- 15 R194 to R197: the transaction barriers as instructions. BAR.ARR is stated of one active lane, whose arrival does or does not
complete the phase. -/
def Obligations.TransactionBarriers : Prop :=
  ∀ (h : Hdr) (a : BitVec 4) (b d : BitVec 6) (q : BitVec 3) (key : Nat),
    RetiresWith (.barInit h a b)
      (fun c => BarAt c a 1 false key ∧ c.s.vpoison.contains (key / 128) = false ∧
        ((readBar c.s key).valid = true → (readBar c.s key).ops = 0 ∧ barParked c.s key = false))
      (fun c => { withBarAt c.s key ⟨0, 0, 0, 0, (getS c.g b.toNat).toNat, (getS c.g b.toNat).toNat, [0, 0, 0, 0], 0, false, false,
        false, true⟩ with bars := key :: c.s.bars.filter (· != key) }) ∧
    RetiresWith (.barExp h d a b)
      (fun c => BarAt c a 1 true key ∧ c.s.vpoison.contains (key / 128) = false ∧ (getS c.g b.toNat).toNat < 64 ∧
        dieOf (getS c.g b.toNat).toNat = dieOf (key / Config.vaultSize) ∧ (readBar c.s key).pend ≠ 0)
      (fun c => withBarAt c.s key (barRem (readBar c.s key) (getS c.g b.toNat).toNat (getS c.g d.toNat).toNat)) ∧
    RetiresWith (.barArr h a)
      (fun c => BarAt c a 1 true key ∧ c.s.vpoison.contains (key / 128) = false ∧ Drained c.s c.g ∧
        (∃ l < c.g.w, c.on = BitVec.twoPow 64 l) ∧ 2 ≤ (readBar c.s key).pend)
      (fun c => withBarAt c.s key { readBar c.s key with
        cs := max (readBar c.s key).cs c.g.lt, pend := (readBar c.s key).pend - 1 }) ∧
    RetiresWith (.barArr h a)
      (fun c => BarAt c a 1 true key ∧ c.s.vpoison.contains (key / 128) = false ∧ Drained c.s c.g ∧
        (∃ l < c.g.w, c.on = BitVec.twoPow 64 l) ∧ (readBar c.s key).pend = 1 ∧ (readBar c.s key).fail = false ∧
        (∀ x ∈ (readBar c.s key).slots, slotV x = true → slotRem x = 0) ∧ barParked c.s key = false)
      (fun c => withBarAt c.s key { readBar c.s key with
        cs := max (readBar c.s key).cs c.g.lt, lerr := false, fcode := (readBar c.s key).pcode, fail := false, pcode := 0
        pend := (readBar c.s key).init, slots := [0, 0, 0, 0], phase := !(readBar c.s key).phase }) ∧
    Parks (.barWait h d a q) (fun c => BarAt c a 0 true key ∧ (readBar c.s key).phase = (getS c.g d.toNat).getLsbD 16)
      (fun c => c.act) (fun c => .bar key ((getS c.g d.toNat).getLsbD 16) d q c.tok) ∧
    Retires (.barWait h d a q) (fun c => BarAt c a 0 true key ∧ (readBar c.s key).phase ≠ (getS c.g d.toNat).getLsbD 16) (·.s)
      (fun c => { c.g with lt := max c.g.lt (readBar c.s key).cs })
      (fun c => { s := [(d.toNat, barStatus (readBar c.s key))], q := [(q.toNat, !(readBar c.s key).lerr)], late := true }) ∧
    Retires (.barTest h d a q) (fun c => BarAt c a 0 true key ∧ (readBar c.s key).phase = (getS c.g d.toNat).getLsbD 16) (·.s) (·.g)
      (fun _ => { q := [(q.toNat, false)], late := true }) ∧
    Retires (.barTest h d a q) (fun c => BarAt c a 0 true key ∧ (readBar c.s key).phase ≠ (getS c.g d.toNat).getLsbD 16) (·.s)
      (fun c => { c.g with lt := max c.g.lt (readBar c.s key).cs })
      (fun c => { s := [(d.toNat, barStatus (readBar c.s key))], q := [(q.toNat, true)], late := true }) ∧
    RetiresWith (.barInv h a)
      (fun c => BarAt c a 1 true key ∧ c.s.vpoison.contains (key / 128) = false ∧ (readBar c.s key).ops = 0 ∧
        barParked c.s key = false)
      (fun c => { withBarAt c.s key { readBar c.s key with valid := false } with bars := c.s.bars.filter (· != key) })

/-- 15 R206; 13 R180: TBAR parks the active lanes while a group of the team has lanes that have not arrived; the only group of a
team, with all its lanes, departs at once. -/
def Obligations.TeamBarrier : Prop :=
  ∀ (h : Hdr) (n : BitVec 4),
    Parks (.tbar h n)
      (fun c => c.on ≠ 0 ∧ wideScope c.s c.g .team = false ∧
        ∃ x ∈ c.s.groups, x.gid ≠ c.g.gid ∧ x.team = c.g.team ∧ liveMask x &&& ~~~ tbarArrived x n.toNat ≠ 0)
      (fun c => c.on) (fun _ => .tbar n.toNat) ∧
    ∀ s cu g, Runs (.tbar h n) s cu g → isResident g = true → g.stopped = none → wideScope s g .team = false →
      s.groups.filter (fun x => x.team == g.team) = [g] → g.lanes.length = g.w →
      liveMask g &&& ~~~ active (.tbar h n) g cu = 0 → active (.tbar h n) g cu ≠ 0 →
      ∃ g', exec (.tbar h n) s = .next (after s g') ∧ OnlyRegs g g' ∧ RegsAre g g' 0 {} ∧
        ∀ l, l < g.w → (active (.tbar h n) g cu).getLsbD l = true →
          (laneAt g' l).park = .none ∧ (laneAt g' l).pc = nextPc g (laneAt g l).pc false false

/-- 21 R292, R293: the chime instructions: an update of VALUE and CS, a wait that is or is not satisfied, a read. -/
def Obligations.Chimes : Prop :=
  ∀ (h : Hdr) (d a : BitVec 6),
    ChimeUpdates (.chimeAdd h d a) a (fun c v => min (v + (getS2 c.g d.toNat).toNat) (2 ^ 64 - 1)) ∧
    ChimeUpdates (.chimeSet h d a) a (fun c _ => (getS2 c.g d.toNat).toNat) ∧
    Parks (.chimeWait h d a)
      (fun c => ChimeReads c a ∧ chimeValue c.s (chimeSel c a).1 (chimeSel c a).2 < (getS2 c.g d.toNat).toNat)
      (fun c => c.act) (fun c => .chime (chimeSel c a).1.toNat (chimeSel c a).2 (getS2 c.g d.toNat)) ∧
    Retires (.chimeWait h d a)
      (fun c => ChimeReads c a ∧ (getS2 c.g d.toNat).toNat ≤ chimeValue c.s (chimeSel c a).1 (chimeSel c a).2) (·.s)
      (fun c => { c.g with lt := max c.g.lt (chimeCs c.s (chimeSel c a).1 (chimeSel c a).2) }) (fun _ => {}) ∧
    Retires (.chimeRd h d a) (fun c => ChimeReads c a) (·.s)
      (fun c => { c.g with lt := max c.g.lt (chimeCs c.s (chimeSel c a).1 (chimeSel c a).2) })
      (fun c => { uni64 d (BitVec.ofNat 64 (chimeValue c.s (chimeSel c a).1 (chimeSel c a).2)) with late := true })

/-- 21 R269 to R273; 25 R320, R325: QPOP on empty rings, with and without wait, and with a packet, which it stores; QDONE on a disabled
interface, with room in its ring and without; IRQ while the table is off, through an entry that is not valid, one that is masked and one
that is not. The model's choices: a packet for system space is stored at once (assumption 20), and a parked QPOP keeps the place it was
checked for (assumption 22). -/
def Obligations.QueueInstructions : Prop :=
  ∀ (h : Hdr) (d b : BitVec 6) (a : BitVec 4),
    let ready := fun (c : Ctx) => c.on ≠ 0 ∧ DrainedFork c.s c.g ∧ (getS c.g b.toNat).toNat < 256 ∧
      (getS c.g (d.toNat + 1)).toNat / 2 ^ 18 = 0 ∧ (getS c.g (d.toNat + 1)).toNat / 2 ^ 16 ≠ 3
    let vector := fun (c : Ctx) => c.on ≠ 0 ∧ DrainedFork c.s c.g ∧ (getS c.g b.toNat).toNat < 8192
    let entry := fun (c : Ctx) =>
      regField c.s offIrtbase 63 12 * 4096 + 16 * (32 * ((getS c.g b.toNat).toNat % 256) + (getS c.g b.toNat).toNat / 256)
    let kept := fun (c : Ctx) => (Config.memSize ≤ entry c ∨ (homeAt c.s (lineOf (entry c))).mesi ≠ .e) ∧
      wordsHeld c.s (entry c) 2 = false
    let free := fun (c : Ctx) (p : Place) => packetHeld c.s p (isSys (getA c.g a.toNat)) = false
    Retires (.qpop h d a false)
      (fun c => c.on ≠ 0 ∧ (uniAccess c (getA c.g a.toNat) 0 64 .wr).2.1 = [] ∧
        (∃ q, (uniAccess c (getA c.g a.toNat) 0 64 .wr).2.2 = [q] ∧ free c q.place) ∧ popSet c.s (dieOf c.g.core) = [] ∧ NoQdone c.s)
      (fun c => (uniAccess c (getA c.g a.toNat) 0 64 .wr).1.s) (·.g) (fun _ => { s := [(d.toNat, 0)], late := true }) ∧
    (∀ l x p, Parks (.qpop h d a true)
      (fun c => c.on ≠ 0 ∧ uniAccess c (getA c.g a.toNat) 0 64 .wr = (c, [], [⟨l, x, p⟩]) ∧ free c p ∧ popSet c.s (dieOf c.g.core) = [] ∧
        NoQdone c.s)
      (fun c => c.act) (fun c => .qpop l x p (isSys (getA c.g a.toNat)) d c.tok)) ∧
    (∀ s cu g i ws lt s1 q w, Runs (.qpop h d a w) s cu g → active (.qpop h d a w) g cu ≠ 0 → NoQdone s →
      isSys (getA g a.toNat) = false → (checkedUni (.qpop h d a w) s cu g a (fun _ => 0) 64 .wr).2 = ([], [q]) →
      popStep (checkedUni (.qpop h d a w) s cu g a (fun _ => 0) 64 .wr).1.s (dieOf g.core) = (s1, .packet i ws lt) →
      ∃ t, exec (.qpop h d a w) s = .next t ∧
        Retired (.qpop h d a w) t cu g { s := [(d.toNat, BitVec.ofNat 32 (2 ^ 31 + i))], late := true } ∧ t.mem = s1.mem ∧
        (qif t i).rhead = ((qif s i).rhead + 1) % 2 ^ 32 ∧ (∀ j, j ≠ i → qif t j = qif s j) ∧
        AllPosted s1 t cu g 8 ((List.range 8).map fun k => (placeAdd q.place (8 * k), ws.getD k 0))) ∧
    (∀ s cu g i ws lt s1 q w pa, Runs (.qpop h d a w) s cu g → active (.qpop h d a w) g cu ≠ 0 → NoQdone s →
      isSys (getA g a.toNat) = true → (checkedUni (.qpop h d a w) s cu g a (fun _ => 0) 64 .wr).2 = ([], [q]) →
      q.place = .mem pa → pa % 64 = 0 → pa + 64 ≤ Config.rootBase →
      popStep (checkedUni (.qpop h d a w) s cu g a (fun _ => 0) 64 .wr).1.s (dieOf g.core) = (s1, .packet i ws lt) →
      PlainLine s1 (lineOf pa) →
      ∃ t, exec (.qpop h d a w) s = .next t ∧
        Retired (.qpop h d a w) t cu g { s := [(d.toNat, BitVec.ofNat 32 (2 ^ 31 + i))], late := true } ∧ MemOnly s1 t pa 64 ∧
        (qif t i).rhead = ((qif s i).rhead + 1) % 2 ^ 32 ∧ (∀ j, j ≠ i → qif t j = qif s j) ∧
        ∀ k < 8, readN t.mem (pa + 8 * k) 8 = ws.getD k 0 % 2 ^ 64) ∧
    RetiresWith (.qdone h d b) (fun c => ready c ∧ qifLive c.s (getS c.g b.toNat).toNat = false) (·.s) ∧
    Parks (.qdone h d b)
      (fun c => ready c ∧ qifLive c.s (getS c.g b.toNat).toNat = true ∧ complRoom c.s (getS c.g b.toNat).toNat = false)
      (fun c => c.act) (fun c => .qdone (getS c.g b.toNat).toNat (getS c.g d.toNat)
        (BitVec.ofNat 16 (getS c.g (d.toNat + 1)).toNat) (BitVec.ofNat 2 ((getS c.g (d.toNat + 1)).toNat / 2 ^ 16))) ∧
    (∀ s cu g, Runs (.qdone h d b) s cu g → ready (runCtx (.qdone h d b) s cu g) → NoQdone s →
      let i := (getS g b.toNat).toNat
      let x := (getS g (d.toNat + 1)).toNat
      let pa := (qif s i).cbase + 16 * ((qif s i).ctail % 2 ^ (qif s i).csize)
      qifLive s i = true → complRoom s i = true → (∀ r ∈ s.compl, r.intf ≠ i) →
      regField s (offFs2root (qif s i).func) 0 0 = 0 → pa % 16 = 0 → pa + 16 ≤ Config.rootBase → PlainLine s (lineOf pa) →
      ∃ t, exec (.qdone h d b) s = .next t ∧ Retired (.qdone h d b) t cu g {} ∧ MemOnly s t pa 16 ∧
        readN t.mem pa 8 = (getS g d.toNat).toNat + i * 2 ^ 32 + x / 2 ^ 16 * 2 ^ 40 + x % 2 ^ 16 * 2 ^ 48 ∧
        readN t.mem (pa + 8) 8 = (dtime s (dieOf g.core)).toNat ∧ (qif t i).ctail = ((qif s i).ctail + 1) % 2 ^ 32) ∧
    RetiresWith (.irq h b)
      (fun c => vector c ∧ (regField c.s offIrtbase 0 0 = 0 ∨ kept c ∧ (memRead c.s 0 (entry c + 8) 8).testBit 33 = false)) (·.s) ∧
    (∀ s cu g, Runs (.irq h b) s cu g → let c := runCtx (.irq h b) s cu g
      vector c → regField s offIrtbase 0 0 = 1 → (qif s ((getS g b.toNat).toNat % 256)).func ≤ 3 →
      entry c + 16 ≤ Config.rootBase → PlainLine s (lineOf (entry c)) →
      (memRead s 0 (entry c + 8) 8).testBit 33 = true → (memRead s 0 (entry c + 8) 8).testBit 34 = true →
      ∃ t, exec (.irq h b) s = .next t ∧ Retired (.irq h b) t cu g {} ∧ t.outbox = s.outbox ∧ MemOnly s t (entry c + 8) 8 ∧
        readN t.mem (entry c + 8) 8 = memRead s 0 (entry c + 8) 8 ||| 2 ^ 35) ∧
    RetiresWith (.irq h b)
      (fun c => vector c ∧ regField c.s offIrtbase 0 0 = 1 ∧ (qif c.s ((getS c.g b.toNat).toNat % 256)).func ≤ 3 ∧ kept c ∧
        (memRead c.s 0 (entry c + 8) 8).testBit 33 = true ∧ (memRead c.s 0 (entry c + 8) 8).testBit 34 = false ∧
          (memRead c.s 0 (entry c + 8) 8).testBit 35 = false)
      (fun c => { c.s with outbox := c.s.outbox ++ [.msi ((qif c.s ((getS c.g b.toNat).toNat % 256)).func / 2)
          (BitVec.ofNat 64 (memRead c.s 0 (entry c) 8 / 4 * 4)) (BitVec.ofNat 32 (memRead c.s 0 (entry c + 8) 8))] })

/-! ## Instructions without an active lane -/

/-- 05 R65: an instruction whose guard is true for no lane retires, its ACT lanes go on at the fall-through, and nothing else
changes. -/
def Obligations.FalseGuardHasNoEffect : Prop :=
  ∀ (h : Hdr) (x : XHdr) (a b c e : BitVec 4) (d r u : BitVec 6) (p q : BitVec 3) (n : BitVec 12) (sz : LdSize) (st : StSize)
    (nt : NtSize) (w : Bool) (idx : BitVec 8) (ty : XredTy),
    (Idle (.barInit h a r) ∧ Idle (.barExp h d a r) ∧ Idle (.barArr h a) ∧ Idle (.barWait h d a p) ∧ Idle (.barTest h d a p) ∧
      Idle (.barInv h a) ∧ Idle (.tbar h b) ∧ Idle (.fence h .sys d r)) ∧
    (Idle (.chimeAdd h d r) ∧ Idle (.chimeSet h d r) ∧ Idle (.chimeWait h d r) ∧ Idle (.chimeRd h d r) ∧ Idle (.qpop h d a w) ∧
      Idle (.qdone h d r) ∧ Idle (.irq h r) ∧ Idle (.preempt h d r u) ∧ Idle (.resume h q r)) ∧
    (Idle (.launch h a) ∧ Idle (.rodCfg h r a) ∧ Idle (.rodStrike h r) ∧ Idle (.spawn h p d r) ∧ Idle (.gangPrep h d a) ∧
      Idle (.gangCommit h d r)) ∧
    (Idle (.migr h) ∧ Idle (.trap h n) ∧ Idle (.bkpt h n) ∧ Idle (.tret h) ∧ Idle (.halt h) ∧ Idle (.rgnEnter h n) ∧
      Idle (.rgnLeave h n) ∧ Idle (.traceMark h d)) ∧
    (Idle (.xcpIn x d a b c e) ∧ Idle (.xcpOut x d a b c e) ∧ Idle (.xcpV x d a b e) ∧ Idle (.xgath x d a b c e) ∧
      Idle (.xred x d a b c e ty) ∧ Idle (.trd x d a r w idx) ∧ Idle (.twr x b d r w idx)) ∧
    (Idle (.ldReg h sz d a r) ∧ Idle (.ldImm h sz d a r) ∧ Idle (.ldNt h nt d a r) ∧ Idle (.stReg h st d a r) ∧
      Idle (.stImm h st d a r) ∧ Idle (.stNt h nt d a r) ∧ Idle (.ldsImm h w d a r) ∧ Idle (.ldsReg h w d a r) ∧
      Idle (.stsImm h w d a r) ∧ Idle (.stsReg h w d a r))

/-! ## Rods, launches and gangs -/

/-- 21 R284 to R286, R291: SPAWN of one lane into a rod with room, and where no rod takes the key; ROD.CFG with EN = 0, and with EN = 1
once its kernel is read and bead storage is free; ROD.STRIKE: BOUNDS, PERM, no effect, or the rod becomes READY. The model's choice,
assumption 70: the read of ROD.CFG's record notes the stamps it has read beside lt (`noted`). -/
def Obligations.RodInstructions : Prop :=
  (∀ (h : Hdr) (d : BitVec 3) (a b : BitVec 6) (e : BitVec 4) (l r key : Nat),
     Retires (.spawn h d a b)
       (fun c => Drained c.s c.g ∧ l < c.g.w ∧ l < 64 ∧ c.on = BitVec.twoPow 64 l ∧
         rodFind c.s (pairOf c.g.core) (getS2 c.g a.toNat) c.g.pasid = some r ∧ (getRod c.s (pairOf c.g.core) r).st ≠ .draining ∧
         (getRod c.s (pairOf c.g.core) r).beads.length < 1024)
       (fun c =>
         let x := getRod c.s (pairOf c.g.core) r
         let bead : Bead := ⟨(List.range 8).map fun i => getV c.g (b.toNat + i) l, getS2 c.g a.toNat,
           beadDeadline (dtime c.s (dieOf c.g.core)) c.g.deadline x.cfg.rel, c.g.lt, c.g.pasid, c.g.core⟩
         putRod c.s (pairOf c.g.core) r (appended c.s (pairOf c.g.core) { x with beads := insBead bead x.beads }))
       (·.g) (fun _ => { p := fun _ => [(d.toNat, true)] }) ∧
     RegOpWhen (.spawn h d a b) (fun s g _ => relHeld s g.core = false ∧ rodFind s (pairOf g.core) (getS2 g a.toNat) g.pasid = none)
       (fun _ _ _ => { p := fun _ => [(d.toNat, false)] }) ∧
     Retires (.rodCfg h a e)
       (fun c => RecordAt c e 64 key ∧ rodCfgBad c.s c.g.core (getS c.g a.toNat).toNat (vaultRead c.s key 64) = false ∧
         bit (vaultRead c.s key 64) 0 = false)
       (fun c =>
         let p := bits (getS c.g a.toNat).toNat 10 6
         let r := bits (getS c.g a.toNat).toNat 5 0
         putRod c.s p r (rodDisable (getRod c.s p r)))
       (fun c => noted c.s c.g key 64) (fun _ => {}) ∧
     ∀ s cu g s1 g1 ker, Runs (.rodCfg h a e) s cu g → RecordAt (runCtx (.rodCfg h a e) s cu g) e 64 key →
       let x := vaultRead s key 64
       let sel := (getS g a.toNat).toNat
       let cfg := rodCfgOf x
       rodCfgBad s g.core sel x = false → bit x 0 = true →
       kernelRead (setGroup { s with cur := none } (noted s g key 64)) (noted s g key 64) cfg.pasid (rodKernel cfg) (if cfg.kindL then 0 else cfg.key)
         (if cfg.kindL then cfg.key else 0) = (s1, .ok ker) → getGroup s1 g.gid = some g1 →
       (taskSystem s1 (bits sel 10 6) = true ∨ beadsHeld s1 (bits sel 10 6) = false) →
       ∃ t, exec (.rodCfg h a e) s = .next t ∧ Retired (.rodCfg h a e) t cu g {} ∧
         getRod t (bits sel 10 6) (bits sel 5 0) = rodEnable s1 (bits sel 10 6) cfg ker (getRod s1 (bits sel 10 6) (bits sel 5 0))) ∧
  (decode 0x3E000602 0 = .ok (.rodStrike ⟨0, 7⟩ 3) ∧
   ∀ (h : Hdr) (a : BitVec 6), guardOf (.rodStrike h a) = (h.g, true) ∧ privileged (.rodStrike h a) = false ∧
     TrapsWith (.rodStrike h a) (fun c => c.on ≠ 0 ∧ 63 < (getS c.g a.toNat).toNat) 0x0302 0 (fun c => within c.g c.act)
       (fun _ => 0) ∧
     TrapsWith (.rodStrike h a)
       (fun c => c.on ≠ 0 ∧ (getS c.g a.toNat).toNat ≤ 63 ∧
         (getRod c.s (pairOf c.g.core) (getS c.g a.toNat).toNat).st ≠ .off ∧
         (getRod c.s (pairOf c.g.core) (getS c.g a.toNat).toNat).cfg.pasid ≠ c.g.pasid)
       0x0304 0 (fun c => within c.g c.act) (fun _ => 0) ∧
     RetiresWith (.rodStrike h a)
       (fun c => c.on ≠ 0 ∧ (getS c.g a.toNat).toNat ≤ 63 ∧
         let x := getRod c.s (pairOf c.g.core) (getS c.g a.toNat).toNat
         (x.st = .off ∨ x.cfg.pasid = c.g.pasid) ∧ ((x.st ≠ .empty ∧ x.st ≠ .filling) ∨ x.beads = []))
       (·.s) ∧
     RetiresWith (.rodStrike h a)
       (fun c => c.on ≠ 0 ∧ (getS c.g a.toNat).toNat ≤ 63 ∧
         let x := getRod c.s (pairOf c.g.core) (getS c.g a.toNat).toNat
         x.cfg.pasid = c.g.pasid ∧ (x.st = .empty ∨ x.st = .filling) ∧ x.beads ≠ [])
       (fun c => setRod c.s (pairOf c.g.core) (getS c.g a.toNat).toNat
         { getRod c.s (pairOf c.g.core) (getS c.g a.toNat).toNat with
           st := .ready, readyAt := (dtime c.s (dieOf (2 * pairOf c.g.core))).toNat, candAt := none }))

/-- 21 R275, R276, R296, R297: LAUNCH submits one grid; GANG.PREP holds one, reserves its placement and asks every member; GANG.COMMIT
releases it and tells every member, or closes a gang whose TIMEOUT has passed with GANG_BROKEN. Records that lie outside a vault are left
out. The model's choices: the records of GANG.PREP lie in the space of its register and a gang takes the lowest free handle
(assumption 23), the pairs reserved (assumption 72), and the stamps that reading a record notes (assumption 70). -/
def Obligations.LaunchAndGangs : Prop :=
  ∀ (h : Hdr) (a : BitVec 4) (d b : BitVec 6) (key : Nat) (s : State) (cu : Cursor) (g : Group),
    (∀ s1 g1 ker, Runs (.launch h a) s cu g → RecordAt (runCtx (.launch h a) s cu g) a 128 key →
      launchCause s (vaultRead s key 128) = none →
      SubmitsFrom { s with cur := none } (noted s g key 128) (vaultRead s key 128) s1 g1 ker → Drained s1 g1 →
      ∃ t, exec (.launch h a) s = .next t ∧ Retired (.launch h a) t cu g {} ∧ t.mem = s1.mem ∧
        t.grids = s1.grids ++ [⟨s1.nextId, launchOf (vaultRead s key 128), ker, g1.lt, (dtime s1 (dieOf g.core)).toNat, s1.now,
          0, 0, 0, false, none⟩]) ∧
    (∀ s1 g1 ker key2 l2 x2 c3 ms, Runs (.gangPrep h d a) s cu g → RecordAt (runCtx (.gangPrep h d a) s cu g) a 64 key →
      let c := runCtx (.gangPrep h d a) s cu g
      let x := vaultRead s key 64
      bits x 299 0 = 0 → (fld 32 351 320 x : W32) ≠ 0 → bits x 319 300 ≠ 0 → (gangsOf s (dieOf g.core)).length < 16 →
      let c1 := { c with g := noted s g key 64 }
      let c2 := { c with g := noted s (noted s g key 64) key2 128 }
      uniAccess c1 (gangReg c a (fld 64 511 448 x)) 0 128 .rd = (c1, [], [⟨l2, x2, .vault key2⟩]) →
      placeBusy s g (.vault key2) 128 = false → (∀ j < 128, s.vpoison.contains ((key2 + j) / 128) = false) →
      launchCause s (vaultRead s key2 128) = none →
      readMembers c2 (gangReg c a (fld 64 447 384 x)) 0 (bits x 319 300) = (c3, .ok ms) →
      SubmitsFrom c3.s c3.g (vaultRead s key2 128) s1 g1 ker → gangPairs s1 (launchOf (vaultRead s key2 128)) ≠ [] →
      ∃ t, exec (.gangPrep h d a) s = .next t ∧ AllWait t cu g (.gangPrep (freeHandle s1 (dieOf g.core)) d g.last) ∧
        t.grids = s1.grids ++ [⟨s1.nextId, launchOf (vaultRead s key2 128), ker, g1.lt, 0, s1.now, 0, 0, 0, true,
          leaderGbar s1 (fld 32 383 352 x)⟩] ∧
        t.gangs = s1.gangs ++ [⟨freeHandle s1 (dieOf g.core), dieOf g.core, fld 32 383 352 x, fld 32 351 320 x, s1.nextId, ms, [],
          false, false, s1.now, false⟩] ∧
        (∀ p ∈ gangPairs s1 (launchOf (vaultRead s key2 128)), (p, s1.nextId) ∈ t.resvd) ∧
        t.outbox = s1.outbox ++ ms.map fun m => .gang 0 m (fld 32 383 352 x) (fld 32 351 320 x)) ∧
    (∀ x, Retires (.gangCommit h d b)
      (fun c => c.on ≠ 0 ∧ x.broken = true ∧
        (gangsOf c.s (dieOf c.g.core)).find? (fun x => x.handle == (getS c.g b.toNat).toNat && x.prepared && !x.committing) = some x)
      (fun c => closeGang c.s x) (·.g) fun _ => { s := [(d.toNat, 0x0604)], late := true }) ∧
    ∀ x, Runs (.gangCommit h d b) s cu g → x.broken = false → active (.gangCommit h d b) g cu ≠ 0 → Drained s g →
      (gangsOf s (dieOf g.core)).find? (fun x => x.handle == (getS g b.toNat).toNat && x.prepared && !x.committing) = some x →
      ∃ t, exec (.gangCommit h d b) s = .next t ∧ AllWait t cu g (.gangCommit (getS g b.toNat).toNat d g.last) ∧
        (∀ y ∈ t.grids, y.id = x.grid → y.held = false ∧ y.lt = g.lt) ∧
        t.outbox = s.outbox ++ x.members.map fun m => .gang 1 m x.gid x.timeout

/-! ## Pre-emption and migration -/

/-- 21 R290, R294, R295: PREEMPT of a context that still runs; RESUME of one that is not pre-empted, and of one without saved groups;
YIELD in the BUDGET handler of a slice when the save pool is full. -/
def Obligations.PreemptResumeAndYield : Prop :=
  ∀ (h : Hdr) (d a b : BitVec 6) (q : BitVec 3) (sl : SliceInfo),
    RetiresWith (.preempt h d a b)
      (fun c =>
        let x := (getS c.g a.toNat).toNat
        let y := (getS c.g b.toNat).toNat
        c.on ≠ 0 ∧ 0 < x ∧ x < 2 ^ 20 ∧ y < 2 ^ 14 ∧ c.s.preempts = [] ∧ ctxState c.s (fld 20 19 0 x) = 0 ∧
          (getS2 c.g d.toNat).toNat ≠ 0 ∧
          if bit y 0 then ∃ t ∈ c.s.teams, t.pasid = fld 20 19 0 x
          else ∃ z ∈ c.s.groups, z.pasid = fld 20 19 0 x ∧ isResident z = true)
      (fun c =>
        let x := (getS c.g a.toNat).toNat
        let y := (getS c.g b.toNat).toNat
        { setCtxState c.s (fld 20 19 0 x) 1 with
          preempts := [⟨fld 20 19 0 x, bit y 0, c.s.now + (getS2 c.g d.toNat).toNat, if bit y 1 then some (fld 12 13 2 y) else none⟩] }) ∧
    RegOpWhen (.resume h q a) (fun s g on => on ≠ 0 ∧ ctxState s (fld 20 19 0 (getS g a.toNat).toNat) ≠ 2)
      (fun _ _ _ => { q := [(q.toNat, false)] }) ∧
    Retires (.resume h q a)
      (fun c => c.on ≠ 0 ∧ ctxState c.s (fld 20 19 0 (getS c.g a.toNat).toNat) = 2 ∧
        ∀ z ∈ c.s.groups, z.pasid = fld 20 19 0 (getS c.g a.toNat).toNat → preempted z = false)
      (fun c => setCtxState c.s (fld 20 19 0 (getS c.g a.toNat).toNat) 0) (·.g) (fun _ => { q := [(q.toNat, true)] }) ∧
    Retires (.yield h) (fun c => c.on ≠ 0 ∧ budgetHandler c.g = some sl ∧ spFree c.s c.g.pasid = none) (·.s)
      (fun c => { c.g with
        budget := if (getRod c.s sl.pair sl.rod).cfg.budget = 0 then 0xFFFFFFFF else (getRod c.s sl.pair sl.rod).cfg.budget
        slice := some { sl with limited := (getRod c.s sl.pair sl.rod).cfg.budget != 0 } })
      (fun _ => {})

/-- 23 R307 to R313: EQP without a request sets the last equivalence point; with one it waits for its migration, or traps with
MIGR_FAIL and the request cleared; MIGR arms the request; a migration whose lists are empty takes the group past the point in
the other form. -/
def Obligations.EquivalencePointsAndMigration : Prop :=
  ∀ (h : Hdr) (idx : BitVec 12),
    Retires (.eqp h idx) (fun c => ¬(c.g.migReq = true ∧ c.g.frames = [] ∧ c.act = liveMask c.g)) (·.s)
      (fun c => { c.g with eqp := some idx }) (fun _ => {}) ∧
    (∀ s cu g, Runs (.eqp h idx) s cu g → g.migReq = true → g.frames = [] → actLanes g cu = liveMask g →
      migRefused { s with cur := none } g idx.toNat = false →
      ∃ t g', exec (.eqp h idx) s = .next t ∧ getGroup t cu.gid = some g' ∧ g'.migCore = some (migTarget g) ∧
        g'.lanes = g.lanes ∧ RegsAre g g' 0 {} ∧ g'.eqp = g.eqp ∧ (cu.ent < g.ents.length → (entAt g' cu.ent).st = .migrating)) ∧
    (∀ s cu g, Runs (.eqp h idx) s cu g → Stands s cu g → CanTrap s g → g.migReq = true → g.frames = [] →
      actLanes g cu = liveMask g → migRefused { s with cur := none } g idx.toNat = true →
      ∃ g', exec (.eqp h idx) s = .next (after s g') ∧
        Trapped s cu { g with migReq := false } g' 0 0x0503 0 (within g (actLanes g cu)) 0) ∧
    Retires (.migr h) (fun c => c.on ≠ 0) (·.s) (fun c => { c.g with migReq := true }) (fun _ => {}) ∧
    ∀ s gid g e p, getGroup s gid = some g → migEntry g = some e → migReady s g = true → gated s g.core = false →
      gated s (migTarget g) = false →
      migPlan s (landAll g) (bits g.migWord.toNat 14 3) = some p → p.src = [] → p.dst = [] →
      (∀ core < 64, ∀ pasid, tracing s core pasid = false) → g.core < 64 → g.w ≤ 64 →
      ∃ t g', exec (.migration gid) s = .next t ∧ getGroup t gid = some g' ∧ g'.core = migTarget g ∧
        g'.eqp = some (BitVec.ofNat 12 (bits g.migWord.toNat 14 3)) ∧ g'.migReq = false ∧ getA g' 15 = getA g 15 ∧
        liveMask g' = liveMask g ∧
        ∀ l < g.w, (laneAt g' l).pc = 4 + (if isLCore (migTarget g) then g.ker.ibL + BitVec.ofNat 64 p.point.laddr
          else g.ker.ibD + BitVec.ofNat 64 p.point.daddr)

/-! ## Traps -/

/-- 17 R215: TRAP. Its word, its class, SWTRAP with the active lanes and the code, and no effect without an active lane. -/
def Obligations.TrapRaisesSoftwareTrap : Prop :=
  (∀ code : BitVec 12, decode (BitVec.ofNat 32 (0x3E400004 + 8 * code.toNat)) 0 = .ok (.trap ⟨0, 7⟩ code)) ∧
  ∀ (h : Hdr) (code : BitVec 12), guardOf (.trap h code) = (h.g, false) ∧ privileged (.trap h code) = false ∧
    TrapsWith (.trap h code) (fun c => within c.g c.on ≠ 0) 0x0203 (code.setWidth 16) (fun c => within c.g c.on) (fun _ => 0) ∧
    RetiresWith (.trap h code) (fun c => c.on = 0) (·.s)

/-- 17 R216: FREC.RD. Its word, its class, the word it selects, and 0. -/
def Obligations.FaultRecordReadSelectsWord : Prop :=
  decode 0x3E4A0407 0 = .ok (.frecRd ⟨0, 7⟩ 20 2) ∧
  ∀ (h : Hdr) (d a : BitVec 6), guardOf (.frecRd h d a) = (h.g, true) ∧ privileged (.frecRd h d a) = false ∧
    RegOp (.frecRd h d a) (fun g _ =>
      let x := (getS g a.toNat).toNat
      uni64 d (BitVec.ofNat 64 (
        if x / 32 ≠ 0 ∨ g.frames.length ≤ x / 8 % 4 then 0
        else ((g.frames[g.frames.length - 1 - x / 8 % 4]?).map fun f => (recWords f.fr).getD (x % 8) 0).getD 0)))

/-- 05 R72, R74; 17 R209 to R213; 19 R252; 29 R346: PRIV and ENC_ILLEGAL of every instruction, the causes of loads and stores, CONV
of the collective instructions and of TRET, and BKPT without a debugger enter the handler. -/
def Obligations.TrapsEnterTheHandler : Prop :=
  (∀ i s cu g, privileged i = true → Stands s cu g → CanTrap s g → encOk g i (pcOf g cu) = true → g.sys = false →
    ∃ g', exec i s = .next (after s g') ∧
      Trapped s cu g g' (if twoWords i then cu.w1 else 0) 0x0102 0 (within g (actLanes g cu)) 0) ∧
  (∀ i s cu g, encode i ≠ none → Illegal i s cu g → ∃ g', exec i s = .next (after s g') ∧
    Trapped s cu g g' (if twoWords i then cu.w1 else 0) 0x0101 0 (within g (actLanes g cu)) 0) ∧
  ∀ (h : Hdr) (x : XHdr) (lsz : LdSize) (ssz : StSize) (d b c imm r : BitVec 6) (a e bar : BitVec 4) (n : BitVec 12) (z : Bool)
    (ty : MTy) (sp : Sparsity) (lf : TldFmt) (sf : TstFmt) (rnd : Rnd) (scl : TstScale) (mode : TScaleMode),
    TrapsOnCauses (.ldReg h lsz d a b)
      (fun s cu g => checked (.ldReg h lsz d a b) s cu g a (fun g l => (rd32 g b l).toInt) (ldBytes lsz) .load) ∧
    TrapsOnCauses (.ldImm h lsz d a imm)
      (fun s cu g => checked (.ldImm h lsz d a imm) s cu g a (fun _ _ => imm.toInt * ldBytes lsz) (ldBytes lsz) .load) ∧
    TrapsOnCauses (.stReg h ssz d a b)
      (fun s cu g => checked (.stReg h ssz d a b) s cu g a (fun g l => (rd32 g b l).toInt) (stBytes ssz) .store) ∧
    TrapsOnCauses (.stImm h ssz d a imm)
      (fun s cu g => checked (.stImm h ssz d a imm) s cu g a (fun _ _ => imm.toInt * stBytes ssz) (stBytes ssz) .store) ∧
    TrapsWith (.bkpt h n)
      (fun c => within c.g c.on ≠ 0 ∧ debugStops c.s c.g.pasid = false ∧ ∀ l < c.g.w, (laneAt c.g l).dbg = false)
      0x0402 (n.setWidth 16) (fun c => within c.g c.on) (fun _ => 0) ∧
    TrapsWith (.tret h) (fun c => c.on ≠ 0 ∧ c.g.frames = []) 0x0201 3 (fun c => within c.g c.act) (fun _ => 0) ∧
    TrapsWith (.tret h) (fun c => c.on ≠ 0 ∧ ∃ f, c.g.frames.getLast? = some f ∧ c.act ≠ f.h &&& liveMask c.g) 0x0201 2
      (fun c => within c.g c.act) (fun _ => 0) ∧
    TrapsWith (.mma x ty e a b c bar imm r z) (fun c => c.on ≠ fullMask c.g.w) 0x0201 1 (fun c => within c.g c.act) (fun _ => 0) ∧
    TrapsWith (.mmas x ty e a b c bar imm r z sp) (fun c => c.on ≠ fullMask c.g.w) 0x0201 1 (fun c => within c.g c.act)
      (fun _ => 0) ∧
    TrapsWith (.tld x e a b c bar imm r lf) (fun c => c.on ≠ fullMask c.g.w) 0x0201 1 (fun c => within c.g c.act) (fun _ => 0) ∧
    TrapsWith (.tst x e a b c bar imm r sf rnd scl) (fun c => c.on ≠ fullMask c.g.w) 0x0201 1 (fun c => within c.g c.act)
      (fun _ => 0) ∧
    TrapsWith (.tscale x e d a imm r c mode rnd) (fun c => c.on ≠ fullMask c.g.w) 0x0201 1 (fun c => within c.g c.act)
      (fun _ => 0) ∧
    TrapsWith (.tzero x e d imm r) (fun c => c.on ≠ fullMask c.g.w) 0x0201 1 (fun c => within c.g c.act) (fun _ => 0)

/-- 17 R214: TRET pops the top frame; its live lanes go on at the frame's PC, or past it, with the frame's MEET. -/
def Obligations.TrapReturnPopsTheFrame : Prop :=
  ∀ (h : Hdr) s cu g f fs, Runs (.tret h) s cu g → active (.tret h) g cu ≠ 0 → g.frames = fs ++ [f] →
    actLanes g cu = f.h &&& liveMask g →
    ∃ g', exec (.tret h) s = .next (after s g') ∧ OnlyRegs g g' ∧ RegsAre g g' 0 {} ∧ FramesStay { g with frames := fs } g' ∧
      ∀ l, l < g.lanes.length → (laneAt g' l).stack = (laneAt g l).stack ∧ (laneAt g' l).sd = (laneAt g l).sd ∧
        (laneAt g' l).exited = (laneAt g l).exited ∧ (laneAt g' l).park = (laneAt g l).park ∧
        (laneAt g' l).pc = (if (actLanes g cu).getLsbD l then (if f.fr.res = 1 then nextPc g f.pc false false else f.pc)
          else (laneAt g l).pc) ∧
        ((laneAt g l).held = false → (laneAt g' l).meet = if (actLanes g cu).getLsbD l then f.meet else (laneAt g l).meet) ∧
        ((actLanes g cu).getLsbD l = true → (laneAt g' l).dbg = (f.fr.res == 2))

/-- 17 R217, R226; 29 R343, R347, R348, R353: HALT reports and stops its group, once no load of it is left to answer; the region instructions push and pop; TRACE.MARK does
nothing without a trace, and with one leaves its record. -/
def Obligations.HaltRegionsAndMarks : Prop :=
  ∀ (h : Hdr) (n : BitVec 12) (d : BitVec 6),
    (∀ s cu g, Runs (.halt h) s cu g → active (.halt h) g cu ≠ 0 → debugSlot s g.pasid = none →
      ∃ t g', exec (.halt h) s = .next t ∧ getGroup t cu.gid = some g' ∧ (stopAwaits g = false → g'.stopped = some 2) ∧
        (g'.stopped = some 2 ∧ g'.stopReq = none ∧ g'.stopLanes = actLanes g cu ∨
          g'.stopped = g.stopped ∧ g'.stopReq = some ⟨2, none, actLanes g cu⟩) ∧ RegsAre g g' 0 {} ∧
        GoesOn g g' (actLanes g cu) (fun _ => fallThrough (.halt h) g cu) ∧ FramesStay g g' ∧
        let b := batchAt s (dieOf g.core)
        (b.closed = none → (b.entries.filter (·.kind == 1)).length < 32 → t.mem = s.mem ∧
          (batchAt t (dieOf g.core)).entries = b.entries ++ [{ report0 5 with
            a := pcOf g cu, b := teamGroup g.srTeam g.srGroup, pasid := g.pasid, core := BitVec.ofNat 6 g.core
            slot := BitVec.ofNat 6 (slotOf g), entry := BitVec.ofNat 4 cu.ent }])) ∧
    Retires (.rgnEnter h n) (fun c => c.on ≠ 0 ∧ c.g.halt = false) (·.s) (fun c => { c.g with rgn := (n :: c.g.rgn).take 8 })
      (fun _ => {}) ∧
    Retires (.rgnLeave h n) (fun c => c.on ≠ 0 ∧ c.g.halt = false) (·.s)
      (fun c => { c.g with rgn := if c.g.rgn.head? = some n then c.g.rgn.tail else c.g.rgn }) (fun _ => {}) ∧
    RetiresWith (.traceMark h d) (fun _ => True) (·.s) ∧
    ∀ s cu g, s.cur = some cu → getGroup s cu.gid = some g → encOk g (.traceMark h d) (pcOf g cu) = true →
      (entAt g cu.ent).busy = false → g.pend = [] →
      g.released = 0 → active (.traceMark h d) g cu ≠ 0 → tracing s g.core g.pasid = true →
      let c := runCtx (.traceMark h d) s cu g
      exec (.traceMark h d) s = .next (retireAt c (traceRec c.s g.core
        [5 + slotOf g * 2 ^ 8 + cu.ent * 2 ^ 16 + (getS g d.toNat).toNat * 2 ^ 32, (dtime c.s (dieOf g.core)).toNat]) g [])

/-! ## Engine copies and the matrix unit -/

/-- 13 R179; 15 R195, R198 to R204: the engine copies, when no lane has a cause, fork one operation for each active lane, XGATH one
for all of them. The model's choice, assumption 70: the read of a layout record notes the stamps it has read beside lt (`noted`). -/
def Obligations.EngineCopiesForkOperations : Prop :=
  ∀ (x : XHdr) (d : BitVec 6) (a b c bar : BitVec 4) (ty : XredTy) (k : Nat),
    let side := fun (z : Ctx) (r : BitVec 4) (off : Nat) =>
      sideOf z (getA z.g r.toNat) (((getA z.g r.toNat).ptr.toNat + off : Nat) : Int)
    let lanes := fun (z : Ctx) => lanesOf z.g.w z.on
    let at_ := fun (z : Ctx) (l : Nat) => packPtr z (getA z.g b.toNat) d.toNat l
    let bad := fun (l : Layout) => l.playout != 0 || esOf l != xredEs ty
    let lay := fun (z : Ctx) => layoutOf (vaultRead z.s k 64)
    let read := fun (z : Ctx) => noted z.s z.g k 64
    Forks (.xcpIn x d a b c bar) bar
      (fun z => LayoutAt z c k ∧ EngineReg z a [0] ∧ EngineReg z b [0, 1] ∧
        ∀ l ∈ lanes z, OwnDevice z b (at_ z l) ∧
          xcpPost z (getA z.g a.toNat) (getA z.g b.toNat) d.toNat true (fun _ => false) (vaultRead z.s k 64) l = [])
      read (fun z => (lanes z).map fun l => (BitVec.twoPow 64 l, .xcpIn (side z a 0) (side z b (packOff z.g d.toNat l))
        (packOff z.g d.toNat l) (lay z) (originOf z.g d.toNat l))) ∧
    Forks (.xcpOut x d a b c bar) bar
      (fun z => LayoutAt z c k ∧ EngineReg z a [0] ∧ EngineReg z b [1] ∧
        ∀ l ∈ lanes z,
          xcpPost z (getA z.g a.toNat) (getA z.g b.toNat) d.toNat false (fun _ => false) (vaultRead z.s k 64) l = [])
      read (fun z => (lanes z).map fun l => (BitVec.twoPow 64 l, .xcpOut (side z a 0) (side z b (packOff z.g d.toNat l))
        (packOff z.g d.toNat l) (lay z) (originOf z.g d.toNat l))) ∧
    Forks (.xred x d a b c bar ty) bar
      (fun z => LayoutAt z c k ∧ EngineReg z a [0, 1] ∧ EngineReg z b [1] ∧ (lay z).playout = 0 ∧ esOf (lay z) = xredEs ty ∧
        ∀ l ∈ lanes z, xcpPost z (getA z.g a.toNat) (getA z.g b.toNat) d.toNat false bad (vaultRead z.s k 64) l = [])
      read (fun z => (lanes z).map fun l => (BitVec.twoPow 64 l, .xred ty (side z a 0) (side z b (packOff z.g d.toNat l))
        (packOff z.g d.toNat l) (lay z) (originOf z.g d.toNat l))) ∧
    Forks (.xgath x d a b c bar) bar
      (fun z => LayoutAt z c k ∧ EngineReg z a [0] ∧ EngineReg z b [0, 1] ∧ OwnDevice z b (getA z.g b.toNat).ptr.toNat ∧
        ∀ l ∈ lanes z, xgathPost z (getA z.g a.toNat) (getA z.g b.toNat) (vaultRead z.s k 64) (rd32 z.g d l).toInt = [])
      read (fun z => [(z.on, .xgath (side z a 0) (side z b 0) (lay z) ((lanes z).map fun l => (rd32 z.g d l).toInt))]) ∧
    let src := fun (z : Ctx) l => ((getA z.g a.toNat).ptr.toNat : Int) + (rd32 z.g d l).toNat
    let dst := fun (z : Ctx) l => ((getA z.g b.toNat).ptr.toNat : Int) + (getV z.g (d.toNat + 1) l).toNat
    let len := fun (z : Ctx) l => (getV z.g (d.toNat + 2) l).toNat
    Forks (.xcpV x d a b bar) bar
      (fun z => EngineReg z a [1] ∧ EngineReg z b [1] ∧ ∀ l ∈ lanes z, src z l % 4 = 0 ∧ dst z l % 4 = 0 ∧ len z l % 4 = 0 ∧
        len z l ≤ 67108864 ∧ engRange z (getA z.g a.toNat) (src z l) (len z l) = [] ∧
        engRange z (getA z.g b.toNat) (dst z l) (len z l) = [])
      (·.g) (fun z => (lanes z).map fun l => (BitVec.twoPow 64 l,
        .xcpV (vkeyOf z (getA z.g a.toNat) (src z l)) (vkeyOf z (getA z.g b.toNat) (dst z l)) (len z l)))

/-- 19 R248 to R261; 03 R48: the matrix instructions enter their core's queue when none of their checks fails; the slice of TRD is
outstanding on a D-core in native code, and its entry waits for it and takes it up elsewhere. The model's choice, assumption 70: at TRD's
take-up `rlt` takes what relaxed reads have given, here nothing (R248 says only when TRD retires). -/
def Obligations.MatrixInstructionsEnterTheQueue : Prop :=
  ∀ (x : XHdr) (e a bar : BitVec 4) (b c d row imm srow : BitVec 6) (ty : MTy) (sp : Sparsity) (z col : Bool) (idx : BitVec 8)
    (lf : TldFmt) (sf : TstFmt) (rnd : Rnd) (scl : TstScale) (mode : TScaleMode) (t u : Nat),
    let rows := imm.toNat + 1
    let offs := fun (y : Ctx) j => (getS y.g (b.toNat + j)).toNat
    let at_ := fun (y : Ctx) (r : BitVec 6) => (getS y.g r.toNat).toNat + row.toNat
    let mk := fun (y : Ctx) (s : Option Sparsity) => MatKind.mma ty t (at_ y c) rows z
      (vkeyOf y (getA y.g a.toNat) (getA y.g a.toNat).ptr.toNat) (offs y 0) (offs y 1) (offs y 2)
      (if ty = .fp4 then vkeyOf y (getA y.g a.toNat) ((getA y.g a.toNat).ptr.toNat + offs y 3 : Nat) else 0) s
    let side := fun (y : Ctx) => sideOf y (getA y.g a.toNat) (((getA y.g a.toNat).ptr.toNat + (getS y.g c.toNat).toNat : Nat) : Int)
    let st := fun (y : Ctx) => (getS y.g (c.toNat + 1)).toInt
    let src := fun (y : Ctx) => (getS y.g (c.toNat + 2)).toNat
    QueuesFor (.mma x ty e a b c bar imm row z) bar (fun y => TileRows y e.toNat t (at_ y c) rows ∧ MmaOk y ty a b rows none)
      (fun y => mk y none) ∧
    QueuesFor (.mmas x ty e a b c bar imm row z sp) bar
      (fun y => TileRows y e.toNat t (at_ y c) rows ∧ MmaOk y ty a b rows (some sp)) (fun y => mk y (some sp)) ∧
    QueuesFor (.tld x e a b c bar imm row lf) bar
      (fun y => physTile y.s y.g e.toNat = some t ∧ tileMem y (getA y.g a.toNat) (getS y.g c.toNat).toNat (st y) (tldEs lf) rows
        e.toNat (at_ y b) = [])
      (fun y => .tld lf t (at_ y b) rows (side y) (getS y.g c.toNat).toNat (st y)) ∧
    QueuesFor (.tst x e a b c bar imm row sf rnd scl) bar
      (fun y => physTile y.s y.g e.toNat = some t ∧ tileMem y (getA y.g a.toNat) (getS y.g c.toNat).toNat (st y) (tstEs sf) rows
          e.toNat (at_ y b) = [] ∧
        (scl ≠ .none → (physTile y.s y.g (src y % 16)).isSome = true))
      (fun y => .tst sf t (at_ y b) rows (side y) (getS y.g c.toNat).toNat (st y) rnd scl
        ((physTile y.s y.g (src y % 16)).getD 0) (bits (src y) 13 8)) ∧
    Queues (.tzero x e d imm row) (fun y => TileRows y e.toNat t (at_ y d) rows) (fun y => .tzero t (at_ y d) rows) ∧
    Queues (.tscale x e d a imm row srow mode rnd)
      (fun y => TileRows y e.toNat t (at_ y d) rows ∧ TileRows y a.toNat u srow.toNat 1)
      (fun y => .tscale t (at_ y d) rows u srow.toNat mode rnd) ∧
    (let i := fun (y : Ctx) => (getS y.g b.toNat).toNat + idx.toNat
     let n := if col then 64 else 256
     RetiresWith (.twr x e d b col idx)
      (fun y => y.on ≠ 0 ∧ (queueOf y.s y.g.core).length < 32 ∧ physTile y.s y.g e.toNat = some t ∧
        i y < (if col then 256 else 64))
      (fun y => queued y (.twr t col (i y) ((List.range n).filterMap fun j =>
        if y.on.getLsbD (j % y.g.w) then some (j, getV y.g (d.toNat + j / y.g.w) (j % y.g.w)) else none)) none) ∧
     ∀ s cu g, Runs (.trd x d e b col idx) s cu g → active (.trd x d e b col idx) g cu ≠ 0 →
      let y := runCtx (.trd x d e b col idx) s cu g
      let s1 := queued y (.trd t col (i y) d.toNat y.on g.last) none
      (queueOf s g.core).length < 32 → physTile s g e.toNat = some t → i y < (if col then 256 else 64) →
      (latent g = true → ∃ g', exec (.trd x d e b col idx) s = .next (setGroup s1 g') ∧ OnlyRegs g g' ∧ RegsAre g g' 0 {} ∧
        g'.pend = opened g ((lanesOf g.w y.on).flatMap fun l => runDests d.toNat l (n / g.w)) ∧
        GoesOn g g' (actLanes g cu) (fun _ => fallThrough (.trd x d e b col idx) g cu) ∧ FramesStay g g') ∧
      (latent g = false → exec (.trd x d e b col idx) s = .next (setGroup s1 (waiting (.trd x d e b col idx) cu g [])))) ∧
    ∀ s cu g fl, Resumes (.trd x d e b col idx) s cu g fl [] → latent g = false → Answered g (mine s cu) →
      ((mine s cu).map fun y => (y.lane, y.part)).Nodup →
      (∀ o ∈ queueOf s g.core, o.gid = g.gid → o.ent = cu.ent → ∀ t col i r m k, o.kind ≠ .trd t col i r m k) →
      ∃ g', exec (.trd x d e b col idx) s = .next (after (without s cu) g') ∧
        OnlyRegs { g with flights := mapPut noFlight g.flights cu.ent noFlight } g' ∧
        RegsAre g (landAll g') (maskOf ((mine s cu).map (·.lane)))
          { v := fun l => ((mine s cu).filter (·.lane == l)).map fun y => (d.toNat + y.part, (answer y).setWidth 32), late := true } ∧
        GoesOn g g' (actLanes g cu) (fun _ => fallThrough (.trd x d e b col idx) g cu) ∧ FramesStay g g'

/-! ## Encoding, steps and the whole machine -/

/-- 05 R63, R65 to R69, R72, R73; 09 R104, R114, R121; 15, 17, 19, 21: sample words of the spec decode to their instructions. -/
def Obligations.SampleWordsDecode : Prop :=
  decode 0x3E40002C 0 = .ok (.trap ⟨0, 7⟩ 5) ∧ decode 0x3E400005 0 = .ok (.tret ⟨0, 7⟩) ∧
  decode 0x3E600028 0 = .ok (.bkpt ⟨0, 7⟩ 5) ∧ decode 0x3E618003 0 = .ok (.traceMark ⟨0, 7⟩ 3) ∧
  decode 0x3E2A0C03 0 = .ok (.gangPrep ⟨0, 7⟩ 20 6) ∧ decode 0x3E2B2A04 0 = .ok (.gangCommit ⟨0, 7⟩ 22 21) ∧
  decode 0x3E208807 0 = .ok (.resume ⟨0, 7⟩ 1 4) ∧ decode 0x3D800406 0 = .ok (.tbar ⟨0, 7⟩ 2) ∧
  decode 0x3D410203 0 = .ok (.fence ⟨0, 7⟩ .dev 2 1)

/-- 05 R63 to R73: for every well-formed instruction, decoding its words gives it back with every operand. -/
def Obligations.DecodeOfEncode : Prop :=
  ∀ i : Instr, i.WellFormed = true → ∃ w x, encode i = some (w, x) ∧ decode w (x.getD 0) = .ok i

/-- 05 R63 to R74: every word that decodes is the one its instruction encodes: no reserved bit is dropped. -/
def Obligations.EncodeOfDecode : Prop :=
  ∀ (w x : W32) (i : Instr), decode w x = .ok i →
    i.WellFormed = true ∧ encode i = some (w, if wide w then some x else none)

/-- 03 R42; 13 R178; 17 R234; 31 R372: an issue turn runs the instruction whose words stand at the entry's PC, a busy entry the one it
waits in, a device turn its step; without a turn nothing happens, and a device whose boot has failed runs nothing, takes a reset, lets time
pass and drops a write to its notify pages or its registers. -/
def Obligations.StepRunsDecodedInstruction : Prop :=
  (∀ s gid e rest t g w0 t0 i, s.agenda = .issue gid e :: rest → s.failed = false → Issues (taken s rest) gid e t g →
    let pc := (entAt g e).pc.toNat
    (entAt g e).busy = false → pc % 4 = 0 → pc < 2 ^ 57 → Fetches t g (entAt g e).act pc w0 t0 →
    (encOk g i (entAt g e).pc = true → uniHeld g i = false) →
    (wide w0 = false → decode w0 0 = .ok i → step s = exec i { reach t0 g e with cur := some ⟨gid, e, w0, 0⟩ }) ∧
    ∀ w1 t1, wide w0 = true → (formL g = true ∨ slotOfPc g (entAt g e).pc ≠ 2) → pc + 4 < 2 ^ 57 →
      Fetches t0 g (entAt g e).act (pc + 4) w1 t1 → decode w0 w1 = .ok i →
      step s = exec i { reach t1 g e with cur := some ⟨gid, e, w0, w1⟩ }) ∧
  (∀ s gid e rest g, s.agenda = .issue gid e :: rest → s.failed = false → runningGroup s gid = some g → busyReady g e = true →
    let f := mapGet noFlight g.flights e
    ∀ i, decode f.w0 f.w1 = .ok i →
      step s = exec i { taken s rest with seq := s.seq + 1, cur := some ⟨gid, e, f.w0, f.w1⟩ }) ∧
  (∀ s i rest, s.agenda = .event i :: rest → s.failed = false → step s = exec i (taken s rest)) ∧
  (∀ s b rest, s.agenda = .event (.deviceReset b) :: rest → step s = exec (.deviceReset b) (taken s rest)) ∧
  (∀ s, s.agenda = [] → step s = .next s) ∧
  (∀ s f off n val rest, s.agenda = .event (.notifyWrite f off n val) :: rest → s.failed = true → step s = .next (taken s rest)) ∧
  (∀ s t rest, s.agenda = t :: rest → s.failed = true → barDrops t = true → step s = .next (taken s rest)) ∧
  (∀ s n rest, s.agenda = .tick (.ns n) :: rest → step s = .next (tickGo (taken s rest) (.ns n))) ∧
  ∀ s gid e rest, s.agenda = .issue gid e :: rest → s.failed = true → step s = .fault .bootFailed

/-- No instruction and no device step ends the machine: each answers a next state. That an instruction without a cursor and a step
whose condition fails leave the state alone is the model's (assumption 1). -/
def Obligations.EveryInstructionAnswersNextState : Prop := ∀ i s, ∃ t, exec i s = .next t

/-- Every step keeps device memory, host memory and the vaults in their canonical form. -/
def Obligations.StepKeepsMemoryCanonical : Prop := ∀ s s', Canonical s → step s = .next s' → Canonical s'

/-- 17 R237; 21 R281; 25 R319, R324; 31 R361, R369, R370, R371: the machine as reset leaves it: memory canonical, the vaults zero,
no group, every rod OFF, DONE of each command 1, PLIMIT 2,000. That the rods are OFF is the model's choice (assumption 63). -/
def Obligations.ResetLeavesSpecifiedValues : Prop :=
  Canonical State.reset ∧ State.reset.groups = [] ∧ (∀ key n, vaultRead State.reset key n = 0) ∧
  (∀ p r, (getRod State.reset p r).st = .off) ∧ (∀ key, (readBar State.reset key).valid = false) ∧
  regRead State.reset offInvCmd = 2 ∧ regRead State.reset offRevoke = 2 ∧ regRead State.reset offBiascmd = 4 ∧
  regRead State.reset offMbox = 2 ∧ regRead State.reset offPlimit = 2000 ∧ regRead State.reset offPamap = 0 ∧
  ∀ n < 72, islCur State.reset n = 0 ∧ islReq State.reset n = 0

/-! ## Device steps -/

/-- 03 R37, R38, R48, R49; 13 R161; 17 R219; 21 R290; 27 R340: the steps of one group: holds that time out, rotation, results that
land once they have returned, in any order, ending the earlier ones of their register, a bound link token, the logical time, and BUDGET. -/
def Obligations.GroupDeviceSteps : Prop :=
  ∀ (s : State) (gid e : Nat) (g : Group), getGroup s gid = some g → tracing s g.core g.pasid = false →
    (runningGroup s gid = some g → (entAt g e).v = true → 4096 ≤ (entAt g e).hold →
      ∃ g', exec (.holdTimeout gid e) s = .next (setGroup s g') ∧ RegsAre g g' 0 {} ∧ ∀ l < g.lanes.length,
        (laneAt g' l).pc = (laneAt g l).pc ∧ (laneAt g' l).exited = (laneAt g l).exited ∧
        (l < g.w → (ownMask g e).getLsbD l = true →
          (laneAt g' l).held = false ∧ ((laneAt g l).held = true → (laneAt g' l).meet = Config.none64))) ∧
    (runningGroup s gid = some g → (entAt g e).v = true → (entAt g e).st = .ready → (entAt g e).busy = false →
      4096 ≤ (entAt g e).dcnt → exec (.deferredRotation gid e) s = .next (setGroup s (tidy (rotate g e))) ∧
      let m := deferredMask g e &&& liveMask g &&& laneWhere g canRun &&& frameSet g
      (m ≠ 0 → e < g.ents.length → (entAt (rotate g e) e).act = firstPc g m ∧ (entAt (rotate g e) e).dcnt = 0)) ∧
    (∀ k p, g.pend[k]? = some p → (p.val = none ∨ gated s g.core = true → exec (.variableLatencyResult gid k) s = .next s) ∧
      ∀ x, p.val = some x → gated s g.core = false →
        let ps := (g.pend.take k).filter (fun q => q.dst != p.dst) ++ g.pend.drop (k + 1)
        exec (.variableLatencyResult gid k) s =
          .next (setGroup s { setDest g p.dst x with pend := ps, spark := g.spark && !ps.isEmpty })) ∧
    (∀ va s1 g1 s2 g2 x, isResident g = true → g.stopped = none → entReady g e = true → (entAt g e).busy = false →
      inTokens (entAt g e).pc = true → mayIssue s g e = true →
      cellAddr { s with seq := s.seq + 1 } g (entAt g e).pc = (s1, .ok (some va)) → getGroup s1 gid = some g1 →
      (∀ l < g1.w, (laneAt g1 l).denied = none) → va % 32 = 0 → va + 32 ≤ 2 ^ 57 →
      ctxLoads s1 g1 g1.pasid va true 4 = (s2, .ok x) → getGroup s2 gid = some g2 →
      (∀ l < g2.w, (laneAt g2 l).denied = none) → liveMask g2 ≠ 0 → tracing s2 g2.core g2.pasid = false → bits x 1 0 = 2 →
      let target : W64 := BitVec.ofNat 64 (if formL g2 then bits x 191 128 else bits x 127 64)
      targetAligned g2 target = true →
      ∃ g', exec (.tokenResolution gid e) s = .next (setGroup s2 g') ∧ RegsAre g2 g' 0 {} ∧ ∀ l < g2.lanes.length,
        (laneAt g' l).pc = if (entAt g2 e).act.getLsbD l then target else (laneAt g2 l).pc) ∧
    (isResident g = true → g.lt + 1 < 2 ^ 48 → ∃ t, exec (.ltAdvance gid) s = .next t ∧
      getGroup t gid = some { g with lt := g.lt + 1 } ∧ ∀ k, k ≠ gid → getGroup t k = getGroup s k) ∧
    (g.budgetPend = true → g.frames = [] → isResident g = true → g.stopped = none → g.spark = false → entReady g e = true →
      (entAt g e).busy = false → mayIssue s g e = true → liveMask g ≠ 0 → e < g.ents.length → (handlerAddr s g).isSome = true →
      mapGet 0 s.tags (16 * g.gid + e) = 0 →
      ∃ g', exec (.budget gid e) s = .next (setGroup s g') ∧
        Trapped s ⟨gid, e, 0, 0⟩ { g with budgetPend := false } g' 0 0x0501 0 (entAt g e).act 0) ∧
    (∀ sl, g.slice = some sl → sl.limited = true → isResident g = true → gated s g.core = false → g.budget = 1 →
      exec (.budgetExhausted gid) s = .next (setGroup s { g with budget := 0, budgetPend := true }))

/-- 13 R156 to R170: accesses at homes and vaults: what a buffered store, a load, an atomic, LR, SC, a reply and a vault access do to
memory, to the line's stamps, to reservations and to the access itself; an atomic, LR or SC where no other access of its instruction
fails (03 R52). The model's choices: a vault load notes its line's stamp beside lt (`rst`, assumption 70), and an atomic's access waits for
those of its instruction that can still fail (assumption 76). -/
def Obligations.MemoryDeviceSteps : Prop :=
  ∀ (k core : Nat) (a : Acc) (pa : Nat) (y : BufLine),
    let alone := fun (s : State) => rmwStopped s a = false ∧ rmwWaits s a (fun _ => true) = false
    Steps (.coalescingBufferTimeout core k)
      (fun s => (coreBufs s core false)[k]? = some y ∧ ∀ z ∈ (coreBufs s core false).take k, z.line ≠ y.line)
      (fun s t => t.mem = s.mem ∧ t.accs = s.accs ∧ { y with left := true } ∈ t.cbuf ∧ t.cbuf.length = s.cbuf.length) ∧
    Steps (.storeAtHome core 0)
      (fun s => (coreBufs s core true).head? = some y ∧ biasHeld s y.line = false ∧ PlainLine s y.line ∧ pasidKey s y.pasid = 0)
      (fun s t => t.mem = writeMasked s.mem (128 * y.line) y.msk.toNat 128 y.data.toNat ∧ t.cbuf = s.cbuf.erase y ∧
        (homeAt t y.line).wts = max y.lt ((homeAt s y.line).rts + 1) ∧
        (homeAt t y.line).rts = max y.lt ((homeAt s y.line).rts + 1) ∧ ∀ r ∈ t.resv, r.line ≠ y.line) ∧
    Steps (.homeRead k) (fun s => AtHome s k a pa ∧ a.op = .load ∧ a.renew = false)
      (fun s t => t.mem = s.mem ∧ ∃ d b x, t.accs[k]? = some { a with rst := 0, st := x } ∧
        x = .replied (BitVec.ofNat 64 (lineBytes (clearLine s 0 (lineOf pa)) pa a.n)) (homeAt s (lineOf pa)).wts
          (max (homeAt s (lineOf pa)).rts (max (accLt s a) (homeAt s (lineOf pa)).wts + (homeAt s (lineOf pa)).pred)) d b) ∧
    (∀ v ws le d, Steps (.lineReply k)
      (fun s => s.accs[k]? = some a ∧ a.st = .replied v ws le d false ∧ a.place = .mem pa ∧ a.op ≠ .pfL1)
      (fun s t => t.accs[k]? = some (doneAs a v ws le true) ∧ t.l1 = s.l1 ∧ t.mem = s.mem)) ∧
    (∀ v ws le d, Steps (.lineReply k)
      (fun s => s.accs[k]? = some a ∧ a.st = .replied v ws le d true ∧ a.place = .mem pa ∧ a.op ≠ .pfL1 ∧
        l1Find s a.core (lineOf pa) = none ∧ ∀ y ∈ s.cbuf, y.core ≠ a.core)
      (fun s t => t.accs[k]? = some (doneAs a v ws le true) ∧ t.mem = s.mem ∧
        ∃ x ∈ t.l1, x.core = a.core ∧ x.line = lineOf pa ∧ x.data = d ∧ x.ws = ws ∧ x.le = le)) ∧
    (∀ key, Steps (.vaultAccess k)
      (fun s => openAcc s k = some a ∧ a.place = .vault key ∧ a.op = .store ∧ s.vpoison.contains (key / 128) = false)
      (fun s t => t.vault = writeN s.vault key a.n a.data.toNat ∧ t.accs = dropAt s.accs k ∧ t.mem = s.mem ∧
        vsAt t key = max (vsAt s key) a.lt)) ∧
    (∀ key, Steps (.vaultAccess k)
      (fun s => openAcc s k = some a ∧ a.place = .vault key ∧ a.op = .load ∧ s.vpoison.contains (key / 128) = false)
      (fun s t => t.vault = s.vault ∧ t.accs[k]? = some
        (doneAs { a with rst := vsAt s key } (BitVec.ofNat 64 (readN s.vault key a.n)) (if a.acq then vsAt s key else 0) (2 ^ 64)
          true))) ∧
    (∀ op x z v, Steps (.amoAtHome k)
      (fun s => AtHome s k a pa ∧ alone s ∧ a.op = .amo op x z ∧ amoNew op a.n (readN s.mem pa a.n) x.toNat z.toNat = some v)
      (fun s t => readN t.mem pa a.n = v % 2 ^ (8 * a.n) ∧ MemOnly s t pa a.n ∧ ∃ ws, t.accs[k]? =
        some (doneAs a (BitVec.ofNat 64 (readN s.mem pa a.n)) ws (2 ^ 64) true))) ∧
    Steps (.lrAtHome k)
      (fun s => AtHome s k a pa ∧ alone s ∧ a.op = .lr ∧ (∀ r ∈ s.scf, r.line = lineOf pa → r.window = false) ∧
        (resvOf s (lineOf pa)).length < 4096)
      (fun s t => t.mem = s.mem ∧ ⟨a.gid, a.lane, lineOf pa⟩ ∈ t.resv ∧ t.accs[k]? = some
        (doneAs a (BitVec.ofNat 64 (readN s.mem pa a.n)) (homeAt s (lineOf pa)).wts (2 ^ 64) true)) ∧
    Steps (.scAtHome k) (fun s => AtHome s k a pa ∧ alone s ∧ a.op = .sc ∧ ⟨a.gid, a.lane, lineOf pa⟩ ∈ s.resv)
      (fun s t => readN t.mem pa a.n = a.data.toNat % 2 ^ (8 * a.n) ∧ MemOnly s t pa a.n ∧
        (∀ r ∈ t.resv, r.line ≠ lineOf pa) ∧ ∃ ws, t.accs[k]? = some (doneAs a 0 ws (2 ^ 64) true)) ∧
    Steps (.scAtHome k) (fun s => AtHome s k a pa ∧ alone s ∧ a.op = .sc ∧ ⟨a.gid, a.lane, lineOf pa⟩ ∉ s.resv)
      (fun s t => t.mem = s.mem ∧ t.resv = s.resv ∧ t.accs[k]? = some (doneAs a 0 0 (2 ^ 64) false)) ∧
    Steps (.reservationTimeout k) (fun _ => True) (fun s t => t = { s with resv := dropAt s.resv k }) ∧
    ∀ r, Steps (.scPrecedenceExpiry k) (fun s => s.scf[k]? = some r)
      (fun s t => t.scf[k]? = some { r with window := false, fails := 0 } ∧ t.scf.length = s.scf.length ∧ t.mem = s.mem)

/-- 13 R169, R183; 25 R321 to R330; 31 R359: requests and answers over links, ports that fail, and host accesses, which wait while a bias
command runs on their page. The model's choices: a host's read for ownership ends the line's reservations (assumption 35), and a line with
an uncorrectable error answers another device with the error (assumption 87). -/
def Obligations.LinkAndHostDeviceSteps : Prop :=
  ∀ (k : Nat) (a : Acc) (q : RemoteReq) (port : BitVec 5) (p : Bool) (pa : W64) (msk : BitVec 128) (data : Line),
    let l := pa.toNat / 128
    let bias := fun (s : State) => hostBias s l
    Steps (.remoteRequestAtTarget q) (fun s => requestOk q = true ∧ q.incn.toNat ≠ incn s)
      (fun s t => t = { s with outbox := s.outbox ++ [.reply q.src .failed] }) ∧
    (∀ s1 v z, Steps (.remoteRequestAtTarget q)
      (fun s => requestOk q = true ∧ q.incn.toNat = incn s ∧ requestHeld s q = false ∧
        atTarget s q.win.toNat q.bytes q.win.toNat q.bytes q.lt.toNat q.op = (s1, .ok (v, z)))
      (fun _ t => t = { s1 with outbox := s1.outbox ++ [.reply q.src (.ok (BitVec.ofNat 128 v) (BitVec.ofNat 48 z))] })) ∧
    (∀ dev win v z, Steps (.remoteCompletion k (.ok v z))
      (fun s => openAcc s k = some a ∧ a.place = .remote dev win ∧ a.op = .load ∧ dev ≠ devid s)
      (fun s t => t.mem = s.mem ∧ t.accs[k]? =
        some (doneAs a (BitVec.ofNat 64 (v.toNat % 2 ^ (8 * a.n))) z.toNat (2 ^ 64) true))) ∧
    (∀ dev win, Steps (.remoteCompletion k .failed)
      (fun s => openAcc s k = some a ∧ a.place = .remote dev win ∧ a.op = .load ∧ dev ≠ devid s)
      (fun s t => t.mem = s.mem ∧ t.accs[k]? = some { a with st := .failed 0x0602 0 })) ∧
    (∀ dev win i, Steps (.remoteCompletion k (.ecc i))
      (fun s => openAcc s k = some a ∧ a.place = .remote dev win ∧ a.op = .load ∧ dev ≠ devid s)
      (fun s t => t.mem = s.mem ∧ t.accs[k]? = some { a with st := .failed 0x0601 (BitVec.ofNat 16 i.val) })) ∧
    Steps (.linkPortDown port)
      (fun s => port.toNat ≤ 17 ∧ s.portDown.contains port.toNat = false ∧
        ∀ x ∈ s.accs, ∀ d w, x.place = .remote d w → x.port ≠ port.toNat)
      (fun s t => t = { s with portDown := s.portDown ++ [port.toNat]
                               rerouted := s.rerouted.filter fun d => entryPort s d != port.toNat }) ∧
    (∀ dev win, Steps (.linkPortDown port)
      (fun s => port.toNat ≤ 17 ∧ s.accs = [a] ∧ a.place = .remote dev win ∧ a.op = .load ∧ a.st = .sent ∧ dev ≠ devid s ∧
        a.port = port.toNat)
      (fun s t => t.accs = [{ a with st := .failed 0x0602 0 }] ∧ t.mem = s.mem)) ∧
    Steps (.flitReplay port true) (fun _ => port.toNat ≤ 17)
      (fun s t => mapGet 0 t.replays port.toNat = 0 ∧ t.portDown = s.portDown) ∧
    Steps (.flitReplay port false) (fun s => port.toNat ≤ 17 ∧ mapGet 0 s.replays port.toNat + 1 < 16)
      (fun s t => mapGet 0 t.replays port.toNat = mapGet 0 s.replays port.toNat + 1 ∧ t.portDown = s.portDown) ∧
    Steps (.flitReplay port false) (fun s => port.toNat ≤ 17 ∧ mapGet 0 s.replays port.toNat = 15)
      (fun _ t => port.toNat ∈ t.portDown ∧ mapGet 0 t.replays port.toNat = 0) ∧
    Steps (.hostCxlRead p pa) (fun s => s.cxl.getLsbD (bitNat p) = true ∧ pa.toNat < Config.memSize ∧ inRoot pa.toNat = true ∧
        biasHeld s l = false)
      (fun s t => t = { s with outbox := s.outbox ++ [.line (bitNat p) (128 * l) (BitVec.allOnes 1024)] }) ∧
    Steps (.hostCxlRead p pa)
      (fun s => hostReach s p pa.toNat = true ∧ biasHeld s l = false ∧ (homeAt s l).mesi = .i ∧ bias s = false ∧
        s.poison.contains l = false)
      (fun s t => t.mem = s.mem ∧ t.outbox = s.outbox ++ [.line (bitNat p) (128 * l) (clearLine s (hostKey s p) l)] ∧
        portStamp t p = max (portStamp s p) (homeAt s l).wts ∧
        (homeAt t l).rts = max (homeAt s l).rts (max (portStamp s p) (homeAt s l).wts + (homeAt s l).pred)) ∧
    Steps (.hostCxlWrite p pa msk data)
      (fun s => hostReach s p pa.toNat = true ∧ biasHeld s l = false ∧ PlainLine s l ∧ hostKey s p = 0)
      (fun s t => t.mem = writeMasked s.mem (128 * l) msk.toNat 128 data.toNat ∧
        (homeAt t l).wts = max (portStamp s p) ((homeAt s l).rts + 1) ∧ portStamp t p = (homeAt t l).wts) ∧
    Steps (.hostReadForOwnership p pa)
      (fun s => hostReach s p pa.toNat = true ∧ biasHeld s l = false ∧ bias s = true ∧ (homeAt s l).mesi = .i ∧
        s.poison.contains l = false)
      (fun s t => t.mem = s.mem ∧ (homeAt t l).mesi = .e ∧ (homeAt t l).port = p ∧ (∀ r ∈ t.resv, r.line ≠ l) ∧
        t.outbox = s.outbox ++ [.line (bitNat p) (128 * l) (clearLine s (hostKey s p) l)]) ∧
    Steps (.hostWriteBack p pa data)
      (fun s => hostReach s p pa.toNat = true ∧ biasHeld s l = false ∧ (homeAt s l).mesi = .e ∧ (homeAt s l).port = p ∧
        mapGet 0 s.lineKey l = 0 ∧ s.poison.contains l = false ∧ hostKey s p = 0)
      (fun s t => readN t.mem (128 * l) 128 = data.toNat ∧ MemOnly s t (128 * l) 128 ∧ (homeAt t l).mesi = .i ∧
        (homeAt t l).wts = (homeAt s l).wts ∧ ∀ r ∈ t.resv, r.line ≠ l) ∧
    Steps (.hostCxlWrite p pa msk data) (fun s => biasHeld s l = true) (fun s t => t = s) ∧
    Steps (.hostCxlRead p pa) (fun s => biasHeld s l = true) (fun s t => t = s)

/-- 01 R26; 13 R178; 15 R195, R198, R202, R205; 19 R248 to R261: engine operations read and then write each element, deliver, fault and
complete; matrix operations start, work row by row, those of the array in ascending order, and complete; those of a gated core stand still. -/
def Obligations.OperationDeviceSteps : Prop :=
  ∀ (id el core k r : Nat) (o : Op) (m : MatOp),
    let moves := fun (s : State) src dst n =>
      opFind s id = some o ∧ o.kind = .xcpV src dst n ∧ o.park = none ∧ o.fault = none ∧ el ∉ o.moved ∧ el < n / 4
    (∀ src dst n, Steps (.engineBurst id el)
      (fun s => moves s src dst n ∧ (∀ x ∈ o.got, x.1 ≠ el) ∧ s.vpoison.contains ((src + 4 * el) / 128) = false)
      (fun s t => t.vault = s.vault ∧ t.mem = s.mem ∧
        opFind t id = some { o with got := o.got ++ [(el, readN s.vault (src + 4 * el) 4)] })) ∧
    (∀ src dst n, Steps (.engineBurst id el)
      (fun s => moves s src dst n ∧ (∀ x ∈ o.got, x.1 ≠ el) ∧ s.vpoison.contains ((src + 4 * el) / 128) = true)
      (fun s t => t.vault = s.vault ∧ t.mem = s.mem ∧ opFind t id = some { o with fault := some 0x0601 })) ∧
    (∀ src dst n v, Steps (.engineBurst id el)
      (fun s => moves s src dst n ∧ o.got.find? (fun x => x.1 == el) = some (el, v) ∧
        s.vpoison.contains ((dst + 4 * el) / 128) = false)
      (fun s t => t.vault = writeN s.vault (dst + 4 * el) 4 v ∧ t.mem = s.mem ∧
        ∃ o', opFind t id = some o' ∧ o'.moved = o.moved ++ [el] ∧ o'.got = o.got.filter (fun x => x.1 != el) ∧
          o'.undelivered = o.undelivered + 4)) ∧
    Steps (.engineDelivery id) (fun s => opFind s id = some o ∧ o.undelivered ≠ 0)
      (fun s t => opFind t id = some { o with undelivered := 0 } ∧
        t.vault = (barDeliver s o.bar o.core o.undelivered o.stamp).vault) ∧
    (∀ code, Steps (.engineFault id) (fun s => opFind s id = some o ∧ o.fault = some code ∧ o.charged = false)
      (fun s t => opFind t id = some { o with charged := true } ∧ t.vault = (barFault s o.bar code.toNat).vault)) ∧
    Steps (.engineOpComplete id)
      (fun s => opFind s id = some o ∧ opMoved o = true ∧ o.undelivered = 0 ∧ (o.fault = none ∨ o.charged = true))
      (fun s t => t.ops = s.ops.filter (fun x => x.id != id) ∧ t.vault = (barOpDone s o.bar).vault) ∧
    Steps (.matrixOpStart core k) (fun s => matReady (queueOf s core) k = true ∧ gated s core = false)
      (fun s t => queueOf t core = updAt (fun o => { o with started := true }) (queueOf s core) k ∧ t.tiles = s.tiles) ∧
    (∀ tile row n, Steps (.matrixRowWrite core k r)
      (fun s => (queueOf s core)[k]? = some m ∧ gated s core = false ∧ m.kind = .tzero tile row n ∧ m.started = true ∧ m.park = none ∧ m.bar = none ∧
        matMoved m = false ∧ r ∉ m.rows ∧ r < n ∧ row + r < 64 ∧ tile < 16)
      (fun s t => (∀ j < 256, tileGet t core tile (row + r) j = 0) ∧
        (∀ c' t' r' j', t' < 16 → r' < 64 → j' < 256 → ¬(c' = core ∧ t' = tile ∧ r' = row + r) →
          tileGet t c' t' r' j' = tileGet s c' t' r' j'))) ∧
    Steps (.matrixRowWrite core k r)
      (fun s => gated s core = true ∨ ∃ m, (queueOf s core)[k]? = some m ∧ inArray m.kind = true ∧ r ≠ m.rows.length)
      (fun s t => t = s) ∧
    Steps (.matrixOpComplete core k)
      (fun s => (queueOf s core)[k]? = some m ∧ gated s core = false ∧ m.started = true ∧ matMoved m = true)
      (fun s t => queueOf t core = dropAt (queueOf s core) k ∧ t.tiles = s.tiles ∧
        t.vault = match m.bar with | some key => (barOpDone s key).vault | none => s.vault)

/-- 17 R225 to R229: a fault batch with entries closes 2 µs after its first, and is written at once if its ring has room; a closed one is
written once there is room, and nothing happens before; FRES_CMD lets the parked accesses of a range of pages replay, or refuses them. The
model's choices, assumption 52: all entries held for a written batch open the next one, and the header bears the time of the write. -/
def Obligations.FaultReportSteps : Prop :=
  ∀ (die : Nat) (pasid : BitVec 20) (va : W64) (pages : BitVec 24),
    let hit := fun (f : PageFault) => inPages f pasid (va.toNat / 4096 * 4096) pages.toNat false
    let due := fun (s : State) =>
      (batchAt s die).closed = none ∧ (batchAt s die).entries ≠ [] ∧ (batchAt s die).since + 2000 ≤ s.now
    let es := fun (s : State) (code : BitVec 16) => batchEntries (batchAt s die) (dtime s die) code
    let room := fun (s : State) (code : BitVec 16) => ringRoom s die (es s code).length
    Steps (.pageFaultBatchTimer die) (fun s => due s ∧ room s 0 = true ∧ RingPlace s die)
      (fun s t => BatchWritten s t die (es s 0)) ∧
    Steps (.pageFaultBatchTimer die) (fun s => due s ∧ room s 0 = false)
      (fun s t => t = setBatch s die { batchAt s die with closed := some 0 }) ∧
    Steps (.pageFaultBatchTimer die) (fun s => ¬due s) (fun s t => t = s) ∧
    (∀ code, Steps (.faultBatchWrite die)
      (fun s => (batchAt s die).closed = some code ∧ room s code = true ∧ RingPlace s die)
      (fun s t => BatchWritten s t die (es s code))) ∧
    Steps (.faultBatchWrite die)
      (fun s => (batchAt s die).closed = none ∨ ∃ code, (batchAt s die).closed = some code ∧ room s code = false)
      (fun s t => t = s) ∧
    Steps (.fresRetry pasid va pages)
      (fun s => (regGet s offFresVa).toNat % 4096 = 0 ∧ (s.groups.map (·.gid)).Nodup)
      (fun s t => PagesResolved s t hit false) ∧
    Steps (.fresDeny pasid va pages)
      (fun s => (regGet s offFresVa).toNat % 4096 = 0 ∧ (s.groups.map (·.gid)).Nodup)
      (fun s t => PagesResolved s t hit true)

/-- 17 R237, R238; 25 R319: invalidation commands are queued, at most 16 at once; a translation unit, a core and a copy unit drop what
a command covers and acknowledge it, a core without a hit at once (13 R159), and it ends when all have; REVOKE clears its functions in
the map. The model's choice, assumption 60: a core's filter reads 0 once its L1 and its micro-TLB are both empty, where R159 says only when
it may be cleared. -/
def Obligations.InvalidationAndRevocationSteps : Prop :=
  ∀ (pasid : BitVec 20) (va : W64) (pages : BitVec 24) (s2 : Bool) (k party : Nat) (v : Inv) (m : BitVec 4),
    let free := fun (s : State) => s.invs.length < 16
    let kept := fun (s t : State) => t.tlb = s.tlb ∧ t.l1 = s.l1 ∧ t.mem = s.mem
    let asks := fun (s t : State) (kind : BitVec 2) (p : BitVec 20) (a n : Nat) (st2 : Bool) =>
      kept s t ∧ ∃ w ∈ t.invs, w.kind = kind ∧ w.pasid = p ∧ w.va = a ∧ w.pages = n ∧ w.s2 = st2 ∧
        ∀ q, q ∈ w.acks ↔ 4 ≤ q ∧ q < 68 ∧ invHit s { w with acks := [] } (q - 4) = false
    let due := fun (s : State) => s.invs[k]? = some v ∧ party ∉ v.acks ∧ s.accs = [] ∧ s.cbuf = []
    let acked := fun (t : State) => (∀ w ∈ t.invs, ∃ p < 72, p ∉ w.acks) ∧
      ((∃ p < 72, p ≠ party ∧ p ∉ v.acks) → { v with acks := v.acks ++ [party] } ∈ t.invs)
    Steps (.invRange pasid va pages s2) (fun s => free s ∧ (regGet s offInvVa).toNat % 4096 = 0)
      (fun s t => asks s t 0 pasid (va.toNat / 4096 * 4096) pages.toNat s2) ∧
    Steps (.invPasid pasid) free (fun s t => asks s t 1 pasid (regGet s offInvVa).toNat 0 false) ∧
    Steps .invAll free (fun s t => asks s t 2 0 (regGet s offInvVa).toNat 0 false) ∧
    Steps .invNone free (fun s t => kept s t ∧ t.invs = s.invs) ∧
    Steps (.invRange pasid va pages s2) (fun s => ¬ free s) (fun s t => t = s) ∧
    Steps (.invPasid pasid) (fun s => ¬ free s) (fun s t => t = s) ∧
    Steps .invAll (fun s => ¬ free s) (fun s t => t = s) ∧
    Steps .invNone (fun s => ¬ free s) (fun s t => t = s) ∧
    Steps (.invAck k party) (fun s => due s ∧ party < 4)
      (fun s t => (∀ y, y ∈ t.tlb ↔ y ∈ s.tlb ∧ ¬(y.die = party ∧ invCovers v y.pasid y.vpage y.s2pages = true)) ∧
        t.l1 = s.l1 ∧ t.mem = s.mem ∧ acked t) ∧
    Steps (.invAck k party) (fun s => due s ∧ 4 ≤ party ∧ party < 68)
      (fun s t => (∀ y, y ∈ t.l1 ↔ y ∈ s.l1 ∧
          ¬(y.core = party - 4 ∧ (v.s2 = true ∨ invCovers v y.pasid (y.vline / 32) [] = true))) ∧
        (∀ y, y ∈ t.micro ↔ y ∈ s.micro ∧ ¬(y.core = party - 4 ∧ (v.s2 = true ∨ invCovers v y.pasid y.vpage [] = true))) ∧
        ((∀ y ∈ t.l1, y.core ≠ party - 4) → (∀ y ∈ t.micro, y.core ≠ party - 4) → mapGet 0 t.filters (party - 4) = 0) ∧
        t.tlb = s.tlb ∧ t.mem = s.mem ∧ acked t) ∧
    Steps (.invAck k party) (fun s => due s ∧ 68 ≤ party ∧ party < 72) (fun s t => kept s t ∧ acked t) ∧
    Steps (.revoke pasid m) (fun s => s.revoking = none) (fun s t => t.revoking = some (pasid, m) ∧ t.mem = s.mem) ∧
    Steps (.revoke pasid m) (fun s => s.revoking ≠ none) (fun s t => t = s) ∧
    Steps .revokeEffect
      (fun s => s.revoking = some (pasid, m) ∧ s.accs = [] ∧
        let a := regField s offPamap 63 20 * 2 ^ 20 + pasid.toNat
        a < Config.memSize ∧ PlainLine s (lineOf a))
      (fun s t => let a := regField s offPamap 63 20 * 2 ^ 20 + pasid.toNat
        t.revoking = none ∧ readByte t.mem a = readByte s.mem a &&& ~~~(m.setWidth 8) ∧ MemOnly s t a 1) ∧
    Steps .revokeEffect (fun s => s.revoking = none) (fun s t => t = s)

/-- 17 R218, R221 to R224, R239, R240; 21 R294: a group is saved into a free slot of its pool for a pre-emption or because it only
waits on pages; it is restored from its frame; a pre-emption past its deadline, a tear-down and an error in register storage leave
nothing of the context. -/
def Obligations.SaveRestoreAndTeardownSteps : Prop :=
  ∀ (gid k core : Nat) (g : Group) (p : Preempt) (pasid : BitVec 20) (code : BitVec 16),
    let saved := fun (s t : State) (r : Residency) =>
      ∃ g', getGroup t gid = some g' ∧ g'.res = r ∧ g'.released = 0 ∧ (g.released = 0 → RegsAre g g' 0 {}) ∧
        g'.ents = g.ents ∧ g'.frames = g.frames ∧ (∀ y ∈ t.resv, ¬(y.gid = gid ∧ y.lane < 64)) ∧
        t.groups.map (·.gid) = s.groups.map (·.gid)
    let gone := fun (s t : State) (c : BitVec 20) =>
      t.groups.map (·.gid) = (s.groups.filter fun y => y.pasid != c).map (·.gid) ∧ (∀ y ∈ t.groups, y.pasid ≠ c) ∧
        (∀ y ∈ t.ops, y.pasid ≠ c) ∧ (∀ y ∈ t.teams, y.pasid ≠ c) ∧ (∀ y ∈ t.grids, y.lrec.pasid ≠ c) ∧
        (∀ y ∈ t.tlb, y.pasid ≠ c) ∧ ∀ y ∈ t.l1, y.pasid ≠ c
    Steps (.groupSave gid)
      (fun s => getGroup s gid = some g ∧ savable s g = true ∧ saveHeld s g = false ∧ preempting s g.pasid = true ∧
        spFree s g.pasid = some k)
      (fun s t => saved s t (.savedPreempt k)) ∧
    Steps (.groupSave gid)
      (fun s => getGroup s gid = some g ∧ savable s g = true ∧ saveHeld s g = false ∧ preempting s g.pasid = false ∧ faultIdle g = true ∧
        spFree s g.pasid = some k)
      (fun s t => saved s t (.savedFault k)) ∧
    Steps (.groupSave gid)
      (fun s => getGroup s gid = some g ∧ (savable s g = false ∨ saveHeld s g = true ∨ spFree s g.pasid = none)) (fun s t => t = s) ∧
    Steps (.groupRestore gid core)
      (fun s => getGroup s gid = some g ∧ (g.res = .savedPreempt k ∨ (g.res = .savedFault k ∧ couldIssue g = true)) ∧
        ctxState s g.pasid = 0 ∧ core = g.core ∧ restoreRoom s g core = true ∧ poolHeld s g.pasid k = false ∧ framePoisoned s (spSlot s g.pasid k) = false ∧
        g.halt = false ∧ ∀ l < g.w, ∀ w st stamp, (laneAt g l).park ≠ .satisfied w st stamp)
      (fun s t => let at_ := fun (o i : Nat) => memRead s (pasidKey s g.pasid) (spSlot s g.pasid k + 8 * (o / 8 + i)) 8
        ∃ g', getGroup t gid = some g' ∧ g'.res = .resident ((freeSlots s core).headD 0) ∧ g'.core = core ∧ g'.w = g.w ∧
          (∀ r < 64, getS g' r = half (at_ 1280) r) ∧ g'.rmode = half (at_ 0) 8 &&& rmodeMask ∧
          ∀ l < g.w, (laneAt g' l).pc = BitVec.ofNat 64 (at_ (2048 + 96 * l) 0)) ∧
    Steps (.preemptDeadline k)
      (fun s => s.preempts[k]? = some p ∧ p.deadline < s.now ∧ ctxState s p.pasid = 1 ∧ p.sig = none)
      (fun s t => t.preempts = dropAt s.preempts k ∧ gone s t p.pasid) ∧
    Steps (.preemptDeadline k) (fun s => s.preempts[k]? = some p ∧ s.now ≤ p.deadline) (fun s t => t = s) ∧
    Steps (.contextTeardown pasid 0x0605)
      (fun s => s.preempts[k]? = some p ∧ p.pasid = pasid ∧ p.deadline < s.now ∧ (∀ y ∈ s.preempts.take k, y.pasid = pasid → s.now ≤ y.deadline) ∧
        ctxState s pasid = 1 ∧ p.sig = none)
      (fun s t => t.preempts = dropAt s.preempts k ∧ gone s t pasid) ∧
    Steps (.contextTeardown pasid code)
      (fun s => code ≠ 0x0605 ∨ ∀ y ∈ s.preempts, y.pasid = pasid → s.now ≤ y.deadline) (fun s t => t = s) ∧
    Steps (.registerStorageError gid) (fun s => getGroup s gid = some g) (fun s t => gone s t g.pasid)

/-- 03 R45; 21 R268, R270, R277 to R279, R285, R287, R288; 25 R317, R320: a pair starts the team or the slice it has chosen, a team
reserves, a rod's timer runs out, beads are stolen, a notify write moves RTAIL or counts in NDROP, a completion record is written or
dropped, and an ended team gives back what it held. -/
def Obligations.SchedulingSteps : Prop :=
  ∀ (pair cand k team : Nat) (c : Cand) (x : Grid) (cores : List Nat) (vbase : Nat) (func : BitVec 2) (off : BitVec 20)
    (bytes : BitVec 4) (val : W64) (r : Compl) (tm : Team) (q vr tr rod : Nat),
    let i := off.toNat / 4096
    let tl := val.toNat % 2 ^ 32
    Steps (.placementChoice pair cand)
      (fun s => pair < 32 ∧ chosen s pair = some c ∧ c.code = cand ∧ c.cls = 1 ∧
        (s.grids.find? fun (y : Grid) => y.id == c.idx) = some x ∧ teamFit s pair x.lrec = some (cores, vbase))
      (fun s t => t.teams.map (·.id) = s.teams.map (·.id) ++ [s.nextId] ∧
        t.groups.map (·.gid) = s.groups.map (·.gid) ++ (List.range (teamGroups x.lrec)).map (s.nextId + 1 + ·) ∧
        (∃ y ∈ t.grids, y.id = x.id ∧ y.next = x.next + 1) ∧
        ∀ j < teamGroups x.lrec, ∃ g ∈ t.groups, g.gid = s.nextId + 1 + j ∧ g.team = s.nextId ∧ g.srTeam = x.next ∧
          g.srGroup = j ∧ g.pasid = x.lrec.pasid ∧ g.core = cores.getD j 0 ∧ g.w = x.lrec.w ∧ g.lt = x.lt) ∧
    Steps (.placementChoice pair cand)
      (fun s => pair < 32 ∧ chosen s pair = some c ∧ c.code = cand ∧ c.cls = 0)
      (fun s t => t.groups.map (·.gid) = s.groups.map (·.gid) ++ [s.nextId + 1] ∧
        t.teams.map (·.id) = s.teams.map (·.id) ++ [s.nextId]) ∧
    Steps (.placementChoice pair cand) (fun s => ∀ y, chosen s pair = some y → y.code ≠ cand) (fun s t => t = s) ∧
    Steps (.candidateReservation pair cand)
      (fun s => (s.grids.find? fun (y : Grid) => 64 + 2 * y.id == cand) = some x ∧ pair < 32 ∧ gridOpen s x = true ∧
        waitedLong s x = true ∧ couldFit s pair x.lrec = true ∧ (pair, x.id) ∉ s.resvd)
      (fun s t => t = { s with resvd := s.resvd ++ [(pair, x.id)] }) ∧
    Steps (.rodTimer pair rod)
      (fun s => let x := getRod s pair rod
        x.st = .filling ∧ (if x.cfg.timer = 0 then 2048 else x.cfg.timer) ≤ x.cycles)
      (fun s t => t.vault = s.vault ∧ getRod t pair rod =
        { getRod s pair rod with st := .ready, readyAt := (dtime s (dieOf (2 * pair))).toNat, candAt := none }) ∧
    Steps (.rodTimer pair rod)
      (fun s => let x := getRod s pair rod
        x.st ≠ .filling ∨ x.cycles < if x.cfg.timer = 0 then 2048 else x.cfg.timer)
      (fun s t => t = s) ∧
    Steps (.stealTick pair)
      (fun s => stealDue s pair = true ∧ (freeSlots s (2 * pair) ≠ [] ∨ freeSlots s (2 * pair + 1) ≠ []) ∧ chosen s pair = none ∧
        stealVictim s pair = some (q, vr, tr) ∧ (getRod s pair tr).beads.length < 1024)
      (fun s t => let n := min ((getRod s q vr).beads.length / 2) (1024 - (getRod s pair tr).beads.length)
        (getRod t q vr).beads = (getRod s q vr).beads.take ((getRod s q vr).beads.length - n) ∧
        (getRod t pair tr).beads.length = (getRod s pair tr).beads.length + n ∧ stealDue t pair = false) ∧
    Steps (.stealTick pair) (fun s => stealDue s pair = true ∧ stealVictim s pair = none)
      (fun s t => t.rods = s.rods ∧ stealDue t pair = false) ∧
    Steps (.stealTick pair) (fun s => stealDue s pair = false) (fun s t => t = s) ∧
    Steps (.notifyWrite func off bytes val)
      (fun s => NoQdone s ∧ (∀ g ∈ s.groups, waitsOf g (fun w => match w with | .qpop .. => true | _ => false) = []) ∧
        off.toNat % 4096 = 0 ∧ bytes = 8 ∧ bits val.toNat 63 40 = 0 ∧ bits val.toNat 39 32 = i ∧
        (qif s i).func = func.toNat ∧ qifLive s i = true ∧ (tl + 2 ^ 32 - (qif s i).rtail) % 2 ^ 32 ≤ 2 ^ (qif s i).rsize ∧
        (tl + 2 ^ 32 - (qif s i).rhead) % 2 ^ 32 ≤ 2 ^ (qif s i).rsize)
      (fun s t => (qif t i).rtail = tl ∧ (qif t i).rhead = (qif s i).rhead) ∧
    Steps (.notifyWrite func off bytes val)
      (fun s => off.toNat % 4096 ≠ 0 ∨ bytes ≠ 8 ∨ bits val.toNat 39 32 ≠ i ∨ (qif s i).func ≠ func.toNat ∨ qifLive s i = false)
      (fun s t => regField t (offFstat func.toNat) 63 32 = min (regField s (offFstat func.toNat) 63 32 + 1) (2 ^ 32 - 1) ∧
        t.mem = s.mem ∧ t.groups = s.groups ∧ ∀ o, o ≠ offFstat func.toNat → regGet t o = regGet s o) ∧
    Steps (.completionRecordWrite k)
      (fun s => NoQdone s ∧ s.compl[k]? = some r ∧ (∀ y ∈ s.compl.take k, y.intf ≠ r.intf) ∧ qifLive s r.intf = false)
      (fun s t => t = { s with compl := dropAt s.compl k }) ∧
    Steps (.completionRecordWrite k)
      (fun s => let a := (qif s r.intf).cbase + 16 * ((qif s r.intf).ctail % 2 ^ (qif s r.intf).csize)
        NoQdone s ∧ s.compl[k]? = some r ∧ (∀ y ∈ s.compl.take k, y.intf ≠ r.intf) ∧ qifLive s r.intf = true ∧
        complRoom s r.intf = true ∧ regField s (offFs2root (qif s r.intf).func) 0 0 = 0 ∧ r.intf < 256 ∧ a % 16 = 0 ∧
        a + 16 ≤ Config.rootBase ∧ PlainLine s (lineOf a))
      (fun s t => let a := (qif s r.intf).cbase + 16 * ((qif s r.intf).ctail % 2 ^ (qif s r.intf).csize)
        t.compl = dropAt s.compl k ∧ (qif t r.intf).ctail = ((qif s r.intf).ctail + 1) % 2 ^ 32 ∧
        readN t.mem a 8 = r.tag.toNat + r.intf * 2 ^ 32 + r.status.toNat * 2 ^ 40 + r.code.toNat * 2 ^ 48 ∧
        readN t.mem (a + 8) 8 = (dtime s (qif s r.intf).front).toNat ∧ MemOnly s t a 16) ∧
    Steps (.completionRecordWrite k)
      (fun s => NoQdone s ∧ s.compl[k]? = some r ∧ qifLive s r.intf = true ∧ complRoom s r.intf = false) (fun s t => t = s) ∧
    Steps (.teamResourceRelease team)
      (fun s => getTeam s team = some tm ∧ tm.ended = true ∧ teamIdle s team = true ∧
        (tm.grid = none ∨ ∀ core ∈ tm.cores, relHeld s core = false))
      (fun s t => t.teams.map (·.id) = (s.teams.filter fun y => y.id != team).map (·.id)) ∧
    Steps (.teamResourceRelease team)
      (fun s => getTeam s team = some tm ∧ (tm.ended = false ∨ teamIdle s team = false ∨
        tm.grid.isSome = true ∧ ∃ core ∈ tm.cores, relHeld s core = true))
      (fun s t => t = s)

/-- 21 R297; 25 R331, R332: PREPARE, COMMIT, CLOSE and BREAK at a member, its timeout and the loss of its leader's route; answers and
timeouts at a leader. The model's choices: the pairs a member reserves and its NAK where there is none (assumption 72), a member that goes
on with the record's entries when its kernel object cannot be read (assumption 24), and lt 0 of its grid (assumption 23). -/
def Obligations.GangSteps : Prop :=
  ∀ (gid : W32) (leader dev : BitVec 20) (timeout : W32) (k j : Nat) (m : Member) (x : Gang) (ack : Bool),
    let found := fun (s : State) => memberFind s gid leader = some k
    let sends := fun (s t : State) (kind : Nat) (tmo : W32) => t = { s with outbox := s.outbox ++ [.gang kind leader gid tmo] }
    let mine := fun (s : State) => s.gangs.find? fun y =>
      y.gid == gid && !y.broken && y.members.contains dev && (!y.prepared || y.committing) && !y.acks.contains dev
    let closed := fun (t : State) => ∀ y ∈ t.gangs, ¬(y.die = x.die ∧ y.handle = x.handle)
    let told := fun (s t : State) (kind : Nat) => t.outbox = s.outbox ++ x.members.map fun y => .gang kind y x.gid x.timeout
    let good := fun (s : State) => let a := memberWord s k 3
      a % 128 = 0 ∧ targetOk a = true ∧ launchCause s (physRecord s a) = none ∧
        64 * memberGbar s k + 64 ≤ 64 * (launchOf (physRecord s a)).vault64 ∧ gangPairs s (launchOf (physRecord s a)) ≠ []
    let plain := fun (s : State) => wordsHeld s (memberWord s k 3) 16 = false ∧ (Config.memSize ≤ memberWord s k 3 ∨ (homeAt s (lineOf (memberWord s k 3))).mesi ≠ .e)
    Steps (.gangPrepareMsg gid leader timeout) (fun s => memberFind s gid leader = none) (fun s t => sends s t 5 timeout) ∧
    Steps (.gangPrepareMsg gid leader timeout)
      (fun s => found s ∧ ((memberState s k ≠ 0 ∧ memberState s k ≠ 3) ∨ (plain s ∧ ¬ good s))) (fun s t => sends s t 5 timeout) ∧
    (∀ s1 r, Steps (.gangPrepareMsg gid leader timeout)
      (fun s => let l := launchOf (physRecord s (memberWord s k 3))
        found s ∧ (memberState s k = 0 ∨ memberState s k = 3) ∧ plain s ∧ good s ∧ r ≠ .error .wait ∧
        kernelRead s (memberGroup s) l.pasid (launchKernel l) l.entryD l.entryL = (s1, r))
      (fun s t => let l := launchOf (physRecord s (memberWord s k 3))
        memberState t k = 1 ∧ t.outbox = s1.outbox ++ [.gang 4 leader gid timeout] ∧ ∃ y ∈ t.grids, y.held = true ∧
        y.lrec = l ∧ y.gbar = some (64 * memberGbar s k) ∧ ⟨k, y.id, s.now + timeout.toNat⟩ ∈ t.members ∧
        t.resvd = s1.resvd ++ (gangPairs s1 l).map fun p => (p, y.id))) ∧
    Steps (.gangCommitMsg gid leader) (fun s => memberFind s gid leader = none) (fun s t => sends s t 5 0) ∧
    Steps (.gangCommitMsg gid leader) (fun s => found s ∧ memberState s k ≠ 1) (fun s t => sends s t 5 0) ∧
    Steps (.gangCommitMsg gid leader) (fun s => found s ∧ memberState s k = 1)
      (fun s t => memberState t k = 2 ∧ t.outbox = s.outbox ++ [.gang 4 leader gid 0] ∧
        ∀ y ∈ s.members, y.slot = k → ∀ z ∈ t.grids, z.id = y.grid → z.held = false) ∧
    Steps (.gangCloseMsg gid leader) (fun s => found s ∧ 2 ≤ memberState s k)
      (fun s t => memberState t k = 0 ∧ t.mem = s.mem ∧ t.groups = s.groups) ∧
    Steps (.gangCloseMsg gid leader) (fun s => memberFind s gid leader = none ∨ (found s ∧ memberState s k < 2))
      (fun s t => t = s) ∧
    Steps (.gangBreakMsg gid leader) (fun s => found s ∧ memberState s k = 1)
      (fun s t => memberState t k = 0 ∧ t.mem = s.mem ∧
        ∀ y ∈ s.members, y.slot = k → ∀ z ∈ t.grids, ¬(z.id = y.grid ∧ z.held = true)) ∧
    Steps (.gangBreakMsg gid leader) (fun s => found s ∧ memberState s k = 2) (fun _ t => memberState t k = 3) ∧
    Steps (.gangBreakMsg gid leader)
      (fun s => memberFind s gid leader = none ∨ (found s ∧ (memberState s k = 0 ∨ memberState s k = 3))) (fun s t => t = s) ∧
    Steps (.gangMemberTimeout j) (fun s => s.members[j]? = some m ∧ m.deadline < s.now ∧ memberState s m.slot = 1)
      (fun _ t => memberState t m.slot = 0 ∧ ∀ y ∈ t.members, y.slot ≠ m.slot) ∧
    Steps (.gangMemberTimeout j) (fun s => s.members[j]? = some m ∧ (s.now ≤ m.deadline ∨ memberState s m.slot ≠ 1))
      (fun s t => t = s) ∧
    Steps (.gangRouteFail dev) (fun _ => True)
      (fun s t => ∀ y < 16, bit (memberWord s y 0) 0 = true → bits (memberWord s y 2) 31 12 = dev.toNat →
        memberState t y = if memberState s y = 1 then 0 else if memberState s y = 2 then 3 else memberState s y) ∧
    Steps (.gangRouteFail dev)
      (fun s => ∀ y < 16, bit (memberWord s y 0) 0 = true → bits (memberWord s y 2) 31 12 ≠ dev.toNat) (fun s t => t = s) ∧
    Steps (.gangReply gid dev ack) (fun s => mine s = none) (fun s t => t = s) ∧
    Steps (.gangReply gid dev false) (fun s => mine s = some x) (fun s t => closed t ∧ told s t 3) ∧
    Steps (.gangReply gid dev true) (fun s => mine s = some x ∧ ∃ y ∈ x.members, y ∉ x.acks ++ [dev])
      (fun s t => { x with acks := x.acks ++ [dev] } ∈ t.gangs ∧ t.outbox = s.outbox ∧ t.groups = s.groups) ∧
    Steps (.gangReply gid dev true)
      (fun s => mine s = some x ∧ (∀ y ∈ x.members, y ∈ x.acks ++ [dev]) ∧ x.committing = false)
      (fun s t => { x with acks := x.acks ++ [dev], prepared := true } ∈ t.gangs ∧ t.outbox = s.outbox) ∧
    Steps (.gangReply gid dev true)
      (fun s => mine s = some x ∧ (∀ y ∈ x.members, y ∈ x.acks ++ [dev]) ∧ x.committing = true)
      (fun s t => closed t ∧ told s t 2) ∧
    Steps (.gangLeaderTimeout j) (fun s => s.gangs[j]? = some x ∧ (x.broken = true ∨ s.now ≤ x.since + x.timeout.toNat))
      (fun s t => t = s) ∧
    Steps (.gangLeaderTimeout j)
      (fun s => s.gangs[j]? = some x ∧ x.broken = false ∧ x.since + x.timeout.toNat < s.now ∧ x.prepared = true ∧
        x.committing = false)
      (fun s t => { x with broken := true } ∈ t.gangs ∧ told s t 3 ∧ (∀ z ∈ t.grids, ¬(z.id = x.grid ∧ z.held = true)) ∧
        t.resvd = s.resvd.filter (fun y => y.2 != x.grid) ∧ t.groups = s.groups) ∧
    Steps (.gangLeaderTimeout j)
      (fun s => s.gangs[j]? = some x ∧ x.broken = false ∧ x.since + x.timeout.toNat < s.now ∧
        (x.prepared = false ∨ x.committing = true))
      (fun s t => closed t ∧ told s t 3)

/-- 00 R9; 25 R322, R324, R325; 29 R344, R347, R350, R351; 31 R360 to R363, R369, R370: writes of registers, and the commands of the
bias flip, IRTSYNC, the mailbox, the debugger and the trace. The model's choices: the bias bits are written and the copies go at GO, and
what a running command holds (assumption 16); a command changes no page while no port is CXL (assumption 17); KEYNEW fills the lowest free
slot and KEYFREE counts a descriptor whatever its V bit (assumption 25); HALT acts whether or not the slot is enabled, and a halt wanted
stays through Resume (assumption 58). -/
def Obligations.RegisterAndCommandSteps : Prop :=
  ∀ (off : BitVec 24) (val sel lo hi pa req : W64) (c : BitVec 2) (core : BitVec 6) (intf : BitVec 8) (vec : BitVec 5)
    (pages : BitVec 24) (n j : Nat) (g g' : Group) (v : W64),
    let stored := fun (s t : State) (o : Nat) (x m : W64) => regGet t o = (regGet s o &&& ~~~m) ||| (x &&& m)
    let plain := [offAsd, offCtxtab, offPamap, offBias, offRoute, offExport, offIrtbase, offFresVa, offInvVa, offBiaspa, offRasring]
    let page := pa.toNat / 4096 + j
    let inDev := j < pages.toNat ∧ page < Config.memSize / 4096
    let entry := fun (s : State) => regField s offIrtbase 63 12 * 4096 + 16 * (32 * intf.toNat + vec.toNat)
    let unheld := fun (s : State) => wordsHeld s (entry s) 2 = false ∧ (Config.memSize ≤ entry s ∨ (homeAt s (lineOf (entry s))).mesi ≠ .e)
    let asked := fun (s : State) (cmd : Nat) => mboxReq s = some req.toNat ∧ memRead s 0 req.toNat 1 = cmd ∧ s.accs = [] ∧
      PlainLine s (lineOf req.toNat) ∧ wordsHeld s req.toNat 40 = false ∧ req.toNat + 320 ≤ Config.rootBase
    let answered := fun (t : State) (st : Nat) => mboxReq t = none ∧ readN t.mem (req.toNat + 2) 2 = st
    let img := fun (s : State) => memReadWords s 0 (req.toNat + 8) 4 ++ memReadWords s 0 (req.toNat + 64) 4
    let kind := bits sel.toNat 51 48
    let lane := bits sel.toNat 47 42
    let num := bits sel.toNat 41 30
    let names := fun (s : State) => daccGroup s sel.toNat = some g
    let ok := fun (t : State) => regField t offDacc 3 3 = 0
    let refused := fun (s t : State) => regField t offDacc 3 3 = 1 ∧ t.groups = s.groups ∧ t.mem = s.mem
    Steps (.registerWrite off val) (fun _ => off.toNat ∈ plain)
      (fun s t => stored s t off.toNat val (regMask off.toNat) ∧ (∀ o, o ≠ off.toNat → regGet t o = regGet s o) ∧ t.mem = s.mem) ∧
    Steps (.registerWrite off val) (fun _ => off.toNat = offFstat c.toNat)
      (fun s t => (regGet t off.toNat).getLsbD 0 = ((regGet s off.toNat).getLsbD 0 && !val.getLsbD 0)) ∧
    Steps (.registerWrite off val) (fun _ => off.toNat % 8 ≠ 0) (fun s t => t = s) ∧
    Steps (.fringWrite c val) (fun s => (batchAt s c.toNat).closed = none)
      (fun s t => stored s t (offFring c.toNat) val (span 63 6 ||| 1) ∧ t.mem = s.mem) ∧
    Steps (.biasToHost pa pages) (fun s => s.biasRun = none ∧ s.cxl ≠ 0 ∧ (regGet s offBias).toNat ≠ 0)
      (fun _ t => inDev → biasHeld t (32 * page) = true ∧ hostBias t (32 * page) = true ∧ ∀ y ∈ t.l1, y.line / 32 ≠ page) ∧
    Steps (.biasToDevice pa pages) (fun s => s.biasRun = none ∧ s.cxl ≠ 0 ∧ (regGet s offBias).toNat ≠ 0)
      (fun _ t => inDev → biasHeld t (32 * page) = true ∧ hostBias t (32 * page) = false ∧
        ∀ l, l / 32 = page → (homeAt t l).mesi = .i) ∧
    Steps (.biasToHost pa pages) (fun s => s.biasRun = none ∧ s.cxl = 0)
      (fun s t => t.biasRun = some (0, 0, false) ∧ t.mem = s.mem ∧ t.home = s.home) ∧
    Steps (.biasToDevice pa pages) (fun s => s.biasRun = none ∧ s.cxl = 0)
      (fun s t => t.biasRun = some (0, 0, false) ∧ t.mem = s.mem ∧ t.home = s.home) ∧
    Steps (.biasToHost pa pages) (fun s => s.biasRun.isSome = true) (fun s t => t = s) ∧
    Steps (.biasToDevice pa pages) (fun s => s.biasRun.isSome = true) (fun s t => t = s) ∧
    Steps .biasCommandComplete
      (fun s => s.biasRun.isSome = true ∧ s.accs = [] ∧ s.biasQ = [] ∧ NoQdone s ∧
        (∀ y ∈ s.groups, waitsOf y (fun w => match w with | .qpop .. => true | _ => false) = []) ∧
        ∀ d < 4, (batchAt s d).closed = none)
      (fun s t => t = { s with biasRun := none }) ∧
    Steps .biasCommandComplete (fun s => s.biasRun = none) (fun s t => t = s) ∧
    Steps (.irtsync intf vec)
      (fun s => unheld s ∧ regField s offIrtbase 0 0 = 1 ∧ (qif s intf.toNat).func ≤ 3 ∧
        bit (memRead s 0 (entry s + 8) 8) 33 = true ∧
        bit (memRead s 0 (entry s + 8) 8) 34 = false ∧ bit (memRead s 0 (entry s + 8) 8) 35 = true)
      (fun s t => t.outbox = s.outbox ++ [.msi ((qif s intf.toNat).func / 2)
        (BitVec.ofNat 64 (memRead s 0 (entry s) 8 / 4 * 4)) (BitVec.ofNat 32 (memRead s 0 (entry s + 8) 8))]) ∧
    Steps (.irtsync intf vec)
      (fun s => regField s offIrtbase 0 0 = 0 ∨ (unheld s ∧ bit (memRead s 0 (entry s + 8) 8) 35 = false))
      (fun s t => t.outbox = s.outbox ∧ t.mem = s.mem) ∧
    Steps (.keynew req)
      (fun s => asked s 1 ∧ ((List.range 8191).find? fun y => mapGet 0 s.keyGen (y + 1) = 0) = some n)
      (fun s t => answered t 0 ∧ t.keys = s.keys + 1 ∧ mapGet 0 t.keyGen (n + 1) = s.keys + 1 ∧
        mapGet 0 t.keyOwner (n + 1) = mboxPasid s req.toNat ∧ readN t.mem (req.toNat + 40) 8 = n + 1) ∧
    Steps (.keyfree req)
      (fun s => asked s 2 ∧ memRead s 0 (req.toNat + 8) 8 = n ∧ n ≠ 0 ∧ n ≤ 8191 ∧ slotNamed s n = false)
      (fun s t => answered t 0 ∧ mapGet 0 t.keyGen n = 0 ∧ mapGet 0 t.keyOwner n = 0 ∧
        ∀ y, y ≠ n → mapGet 0 t.keyGen y = mapGet 0 s.keyGen y) ∧
    Steps (.keyfree req) (fun s => asked s 2 ∧ memRead s 0 (req.toNat + 8) 8 = n ∧ slotNamed s n = true)
      (fun s t => answered t 1 ∧ t.keyGen = s.keyGen ∧ t.keyOwner = s.keyOwner) ∧
    Steps (.asdset req)
      (fun s => let k := bits ((img s).getD 0 0) 45 33
        asked s 3 ∧ (k = 0 ∨ (mapGet 0 s.keyGen k ≠ 0 ∧ mapGet 0 s.keyOwner k = mboxPasid s req.toNat)) ∧
        inRoot ((img s).getD 7 0) = false ∧ asdAddr s (mboxPasid s req.toNat) % 64 = 0 ∧
        asdAddr s (mboxPasid s req.toNat) + 64 ≤ Config.memSize ∧ PlainLine s (lineOf (asdAddr s (mboxPasid s req.toNat))) ∧
        (asdAddr s (mboxPasid s req.toNat) + 64 ≤ req.toNat ∨ req.toNat + 128 ≤ asdAddr s (mboxPasid s req.toNat)))
      (fun s t => answered t 0 ∧ ∀ w < 8, asdWord t (mboxPasid s req.toNat) w = (img s).getD w 0) ∧
    Steps (.attest req) (fun s => asked s 4 ∧ ∀ l ≤ 3, PlainLine s (lineOf req.toNat + l))
      (fun s t => let body := attestBody s (wordsVal (memReadWords s 0 (req.toNat + 8) 4))
        answered t 0 ∧ readN t.mem (req.toNat + 64) 192 = body ∧
        readN t.mem (req.toNat + 256) 64 = (Config.sign (Config.sha512 (bytesOf 192 body))).toNat) ∧
    Steps (.asyncHalt c) (fun _ => True)
      (fun s t => t.mem = s.mem ∧ ∀ y ∈ s.groups,
        (if y.pasid.toNat = regField s (offDbgatt c.toNat) 63 44 then
            { y with halt := true, haltCyc := if y.halt then y.haltCyc else 0 } else y) ∈ t.groups) ∧
    Steps (.daccRead sel) (fun s => names s ∧ kind ≠ 15 ∧ daccReadReg s g kind lane num = some v)
      (fun s t => ok t ∧ regGet t offDdata = v ∧ t.groups = s.groups ∧ t.mem = s.mem) ∧
    Steps (.daccWrite sel val) (fun s => names s ∧ kind ≠ 15 ∧ daccWriteReg g kind lane num val = some g')
      (fun _ t => ok t ∧ getGroup t g.gid = some g') ∧
    Steps (.daccResume sel val) names
      (fun _ t => ok t ∧ ∃ y, getGroup t g.gid = some y ∧ y.stopped = none ∧ y.halt = g.halt ∧ RegsAre g y 0 {}) ∧
    Steps (.daccEnd sel) names (fun _ t => ok t ∧ ∀ y ∈ t.groups, y.gid ≠ g.gid) ∧
    Steps (.daccRead sel) (fun s => daccGroup s sel.toNat = none) refused ∧
    Steps (.daccWrite sel val) (fun s => daccGroup s sel.toNat = none) refused ∧
    Steps (.daccResume sel val) (fun s => daccGroup s sel.toNat = none) refused ∧
    Steps (.daccEnd sel) (fun s => daccGroup s sel.toNat = none) refused ∧
    Steps (.traceEnable core lo hi) (fun _ => lo.getLsbD 0 = false)
      (fun s t => stored s t (offTrctl core.toNat) lo (span 63 40 ||| span 1 0) ∧ regGet t (offTrctl core.toNat + 8) = hi ∧
        t.mem = s.mem) ∧
    Steps (.traceEnable core lo hi) (fun _ => lo.getLsbD 0 = true ∧ lo.getLsbD 1 = true)
      (fun _ t => regField t (offTrctl core.toNat) 1 0 = 3 ∧ regGet t (offTrctl core.toNat + 8) = hi) ∧
    Steps (.plimitWrite val) (fun _ => True)
      (fun s t => plimit t = max 1400 (min 2200 (val.toNat % 4096)) ∧ ∀ o, o ≠ offPlimit → regGet t o = regGet s o) ∧
    Steps (.islctlWrite n val) (fun _ => n < 72)
      (fun s t => islReq t n = min (val.toNat % 8) (if n < 64 then 4 else 2) ∧ islCur t n = islCur s n)

/-- 13 R166; 29 R347, R348, R354; 31 R364 to R372: a group that is to halt stops; a stop record leaves for its ring; the skew between
dies, operating points and the power limiter; scrubs, retirement and fences; reset and the boot codes; a rebase. The model's choices: the
limiter's count of low milliseconds starts again at each step of the points (assumption 39); the entry whose lanes a halted
group's stop names, and what its 10,000 cycles count (assumption 58); an uncorrectable error waits while an instruction has written part of
what it writes (assumption 76); the codes of an image with a malformed header (assumption 81). -/
def Obligations.PlatformSteps : Prop :=
  ∀ (gid n watts line row : Nat) (slot : BitVec 2) (g : Group) (r : StopReq) (q : Nat × StopRec)
      (b : BootInput),
    let k := slot.toNat
    let bank := 8 * Config.hbmBank row + row % 8
    let ends := fun (g : Group) (r : StopReq) => { landAll g with stopped := some r.kind, stopReq := none, stopLanes := r.lanes }
    let ready := fun (s : State) (g : Group) =>
      stopAwaits g = false ∧ debugSlot s g.pasid = none ∧ tracing s g.core g.pasid = false ∧ liveMask g ≠ 0
    let pin := fun (s : State) (i : Nat) => regField s (offIslctl i) 8 8
    let fails := fun (t : State) (code step : Nat) => t.failed = true ∧ t.bootCode = code ∧ t.bootStep = step ∧ t.groups = [] ∧ t.cxl = 0
    Steps (.groupStop gid)
      (fun s => runningGroup s gid = some g ∧ g.stopReq = none ∧ g.halt = true ∧ 10000 ≤ g.haltCyc ∧ migEntry g = none ∧ ready s g)
      (fun s t => let r : StopReq := ⟨3, none, (entAt g (stopEntry g)).act⟩
        t = setGroup s (ends { g with halt := false, stopReq := some r } r)) ∧
    Steps (.groupStop gid) (fun s => runningGroup s gid = some g ∧ g.stopReq = some r ∧ ready s g)
      (fun s t => t = setGroup s (ends g r)) ∧
    Steps (.groupStop gid)
      (fun s => runningGroup s gid = some g ∧ g.stopReq = none ∧ (g.halt = false ∨ g.haltCyc < 10000 ∨ migEntry g ≠ none))
      (fun s t => t = s) ∧
    Steps (.stopRecordWrite slot) (fun s => (s.stopQ.find? fun y => y.1 == k) = some q ∧ stopRoom s k = true)
      (fun s t => t.stopQ = s.stopQ.erase q ∧
        regField t (offDbgatt k) 31 24 = (regField s (offDbgatt k) 31 24 + 1) % 256) ∧
    Steps (.stopRecordWrite slot) (fun s => (∀ y ∈ s.stopQ, y.1 ≠ k) ∨ stopRoom s k = false) (fun s t => t = s) ∧
    Steps (.skewMeasurement n) (fun _ => 1 ≤ n ∧ n ≤ 8)
      (fun s t => t.skew = s.skew ∧ ∃ unc d, unc < 65536 ∧ d ≤ 2 * unc ∧ regGet t (offSkew n) = BitVec.ofNat 64
        ((mapGet 0 s.skew n + d + 2 ^ 32 - unc) % 2 ^ 32 * 2 ^ 32 + unc * 2 ^ 16 + 1)) ∧
    Steps (.skewMeasurement n) (fun _ => 16 ≤ n ∧ n < 34) (fun _ t => (regGet t (offPskew (n - 16))).getLsbD 0 = true) ∧
    Steps (.operatingPointChange n) (fun s => n < 72 ∧ regField s (offIslctl n) 3 3 = 1)
      (fun s t => islCur t n = islReq s n ∧ islReq t n = islReq s n ∧ regField t (offIslctl n) 3 3 = 0) ∧
    Steps (.operatingPointChange n) (fun s => 72 ≤ n ∨ regField s (offIslctl n) 3 3 = 0) (fun s t => t = s) ∧
    Steps (.powerLimiterTick watts) (fun s => plimit s < watts)
      (fun s t => t.limLow = 0 ∧ ∀ i < 64, islCur t i = if islCur s i < 3 ∧ pin s i = 0 then islCur s i + 1 else islCur s i) ∧
    Steps (.powerLimiterTick watts) (fun s => watts ≤ plimit s ∧ 95 * plimit s ≤ watts * 100)
      (fun s t => t = { s with limLow := 0 }) ∧
    Steps (.powerLimiterTick watts) (fun s => watts ≤ plimit s ∧ watts * 100 < 95 * plimit s ∧ s.limLow < 9)
      (fun s t => t = { s with limLow := s.limLow + 1 }) ∧
    Steps (.powerLimiterTick watts) (fun s => watts ≤ plimit s ∧ watts * 100 < 95 * plimit s ∧ 9 ≤ s.limLow)
      (fun s t => t.limLow = 0 ∧ ∀ i < 72, islCur t i = if islReq s i < islCur s i then islCur s i - 1 else islCur s i) ∧
    (∀ w, Steps (.scrub w line .uncorrectable) (fun s => rmwPartly s (inLine w line) = true) (fun s t => t = s)) ∧
    Steps (.scrub false line .uncorrectable)
      (fun s => line * 128 < Config.memSize ∧ line ∉ s.poison ∧ rmwPartly s (inLine false line) = false)
      (fun s t => t.poison = s.poison ++ [line] ∧ t.vpoison = s.vpoison ∧ t.vault = s.vault) ∧
    Steps (.scrub true line .uncorrectable)
      (fun s => line * 128 < 64 * Config.vaultSize ∧ line ∉ s.vpoison ∧ rmwPartly s (inLine true line) = false)
      (fun s t => t.vpoison = s.vpoison ++ [line] ∧ t.poison = s.poison ∧ t.vault = s.vault) ∧
    Steps (.scrub false line .corrected) (fun s => line * 128 < Config.memSize ∧ line ∉ s.poison)
      (fun s t => (mapGet [] t.rasRows (rowOf line)).getLast? = some s.now ∧ t.poison = s.poison ∧
        ((mapGet [] t.rasRows (rowOf line)).length = 3 → 2 * rowOf line ∈ t.rasPend)) ∧
    Steps (.scrub true line .corrected) (fun s => line * 128 < 64 * Config.vaultSize ∧ line ∉ s.vpoison)
      (fun s t => (mapGet [] t.rasLines line).getLast? = some s.now ∧ t.vpoison = s.vpoison ∧
        ((mapGet [] t.rasLines line).length = 2 → 2 * line + 1 ∈ t.rasPend)) ∧
    (∀ w, Steps (.scrub w line .clean) (fun _ => True) (fun s t => t = s)) ∧
    Steps (.rowRetirement row) (fun s => 2 * row ∈ s.rasPend ∧ mapGet 0 s.spareRows bank < 16)
      (fun s t => 2 * row ∉ t.rasPend ∧ mapGet 0 t.spareRows bank = mapGet 0 s.spareRows bank + 1 ∧
        mapGet [] t.rasRows row = [] ∧ t.poison = s.poison) ∧
    Steps (.rowRetirement row) (fun s => 2 * row ∈ s.rasPend ∧ 16 ≤ mapGet 0 s.spareRows bank)
      (fun s t => 2 * row ∉ t.rasPend ∧ t.spareRows = s.spareRows ∧ t.poison = s.poison) ∧
    Steps (.rowRetirement row) (fun s => 2 * row ∉ s.rasPend) (fun s t => t = s) ∧
    Steps (.lineFence line)
      (fun s => 2 * line + 1 ∈ s.rasPend ∧ rmwPartly s (inLine true line) = false ∧ mapGet 0 s.spareLines (line * 128 / Config.sliceSize) < 8)
      (fun s t => 2 * line + 1 ∉ t.rasPend ∧ mapGet [] t.rasLines line = [] ∧ t.vpoison = s.vpoison ∧
        mapGet 0 t.spareLines (line * 128 / Config.sliceSize) = mapGet 0 s.spareLines (line * 128 / Config.sliceSize) + 1) ∧
    Steps (.lineFence line)
      (fun s => 2 * line + 1 ∈ s.rasPend ∧ rmwPartly s (inLine true line) = false ∧ 8 ≤ mapGet 0 s.spareLines (line * 128 / Config.sliceSize))
      (fun s t => 2 * line + 1 ∉ t.rasPend ∧ t.vpoison = s.vpoison ++ [line] ∧ t.spareLines = s.spareLines) ∧
    Steps (.lineFence line) (fun s => 2 * line + 1 ∉ s.rasPend ∨ rmwPartly s (inLine true line) = true) (fun s t => t = s) ∧
    Steps (.deviceReset b) (fun _ => True) (fun s t =>
      if imgSigned false b.rootImg = false then fails t 1 1
      else if imgSv b.rootImg < s.rootSv then fails t 2 1
      else if b.failCode = 5 ∨ b.failCode = 6 then fails t b.failCode.toNat 2
      else if imgSigned true b.svcImg = false then fails t 3 3
      else if imgSv b.svcImg < s.svcSv then fails t 4 3
      else b.rootRegs = [] → t.failed = false ∧ t.bootStep = 5 ∧ t.bootCode = 0 ∧ devid t = b.devid.toNat ∧
        incn t = b.incn.toNat ∧ t.rootSv = imgSv b.rootImg ∧ t.svcSv = imgSv b.svcImg ∧ t.groups.length = 4 ∧ t.teams = [] ∧
        t.vault = [] ∧ ∀ d < 4, ∃ y ∈ t.groups, y.core = 16 * d ∧ y.sys = true ∧ y.front = true ∧ getS y 58 = BitVec.ofNat 32 d) ∧
    Steps .rebase (fun s => rebaseDue s = true ∧ inFlight s = false ∧ s.biasRun = none ∧ s.cbuf = [])
      (fun s t => t.epoch = s.epoch + 1 ∧ t.l1 = [] ∧ t.resv = [] ∧ ∀ y ∈ s.groups, ∃ y' ∈ t.groups, y'.gid = y.gid ∧
        y'.lt = (if isResident y then y.lt - 2 ^ 46 else y.lt) ∧ RegsAre y y' 0 {}) ∧
    Steps .rebase (fun s => rebaseDue s = false ∨ inFlight s = true ∨ s.biasRun.isSome = true) (fun s t => t = s)
end

