-- ==== Sys2Proof/Laws/Map.lean ====
section
/-! SUPPORT. Laws of finite maps and byte memories: what a write reads back, what it leaves, and that every write keeps the
canonical form. -/

namespace Sys2Proof.Machine

variable {α : Type}

theorem mapGet_mapDel (d : α) (m : Assoc α) (x y : Nat) :
    mapGet d (mapDel m x) y = if y = x then d else mapGet d m y := by
  induction m with
  | nil => simp [mapDel, mapGet]
  | cons e m ih =>
    obtain ⟨k, a⟩ := e
    by_cases hk : k = x
    · subst hk
      simp only [mapDel, if_true, ih, mapGet]
      split
      · rfl
      · rename_i h; rw [if_neg (fun h' => h h'.symm)]
    · simp only [mapDel, if_neg hk, mapGet, ih]
      by_cases hy : k = y
      · subst hy; simp [hk]
      · simp [hy]

theorem mapGet_mapIns (d : α) (m : Assoc α) (x y : Nat) (v : α) :
    mapGet d (mapIns m x v) y = if y = x then v else mapGet d m y := by
  induction m with
  | nil => simp [mapIns, mapGet, eq_comm]
  | cons e m ih =>
    obtain ⟨k, a⟩ := e
    simp only [mapIns]
    split
    · simp [mapGet, eq_comm]
    · split
      · rename_i h1 h2
        subst h2
        simp only [mapGet]
        by_cases hy : k = y
        · rw [if_pos hy, if_pos hy.symm]
        · rw [if_neg hy, if_neg (fun h => hy h.symm), if_neg hy]
      · rename_i h1 h2; simp only [mapGet, ih]
        by_cases hy : k = y
        · subst hy; simp [h2]
        · simp [hy]

variable [DecidableEq α]

/-- A map reads what was written last, and every other key as before. -/
theorem mapGet_mapPut (d : α) (m : Assoc α) (x y : Nat) (v : α) :
    mapGet d (mapPut d m x v) y = if y = x then v else mapGet d m y := by
  unfold mapPut
  split
  · rename_i h; rw [mapGet_mapDel, h]
  · exact mapGet_mapIns d m x y v

@[simp] theorem mapGet_mapPut_self (d : α) (m : Assoc α) (x : Nat) (v : α) : mapGet d (mapPut d m x v) x = v := by
  simp [mapGet_mapPut]

theorem mapGet_mapPut_ne (d : α) (m : Assoc α) {x y : Nat} (v : α) (h : y ≠ x) :
    mapGet d (mapPut d m x v) y = mapGet d m y := by
  simp [mapGet_mapPut, h]

/-- A bound below which a canonical map has no key may be lowered. -/
theorem mapWfAbove_weaken (d : α) {m : Assoc α} {j k : Nat} (h : mapWfAbove d (some k) m = true) (hj : j ≤ k) :
    mapWfAbove d (some j) m = true := by
  cases m with
  | nil => rfl
  | cons e m =>
    obtain ⟨x, a⟩ := e
    simp only [mapWfAbove, Bool.and_eq_true, decide_eq_true_eq, bne_iff_ne] at h ⊢
    exact ⟨⟨by omega, h.1.2⟩, h.2⟩

theorem mapWfAbove_none (d : α) {m : Assoc α} {k : Nat} (h : mapWfAbove d (some k) m = true) : mapWfAbove d none m = true := by
  cases m with
  | nil => rfl
  | cons e m =>
    obtain ⟨x, a⟩ := e
    simp only [mapWfAbove, Bool.and_eq_true, decide_eq_true_eq, bne_iff_ne, Bool.true_and] at h ⊢
    exact ⟨h.1.2, h.2⟩

theorem mapDel_above (d : α) (m : Assoc α) (x : Nat) (b : Option Nat) (h : mapWfAbove d b m = true) :
    mapWfAbove d b (mapDel m x) = true := by
  induction m generalizing b with
  | nil => exact h
  | cons e m ih =>
    obtain ⟨k, a⟩ := e
    simp only [mapWfAbove, Bool.and_eq_true] at h
    simp only [mapDel]
    split
    · have := ih _ h.2
      cases b with
      | none => exact mapWfAbove_none d this
      | some j =>
        have hj := h.1.1
        simp only [decide_eq_true_eq] at hj
        exact mapWfAbove_weaken d this (Nat.le_of_lt hj)
    · simp only [mapWfAbove, Bool.and_eq_true]
      exact ⟨h.1, ih _ h.2⟩

theorem mapIns_above (d : α) (m : Assoc α) (x : Nat) (v : α) (b : Option Nat) (hv : v ≠ d)
    (hb : ∀ j, b = some j → j < x) (h : mapWfAbove d b m = true) : mapWfAbove d b (mapIns m x v) = true := by
  induction m generalizing b with
  | nil =>
    cases b with
    | none => simp [mapIns, mapWfAbove, hv]
    | some j => simp [mapIns, mapWfAbove, hv, hb j rfl]
  | cons e m ih =>
    obtain ⟨k, a⟩ := e
    simp only [mapWfAbove, Bool.and_eq_true, bne_iff_ne, ne_eq] at h
    simp only [mapIns]
    split
    · rename_i hk
      simp only [mapWfAbove, Bool.and_eq_true, bne_iff_ne, ne_eq, decide_eq_true_eq]
      refine ⟨⟨?_, hv⟩, ⟨hk, h.1.2⟩, h.2⟩
      cases b with
      | none => rfl
      | some j => simpa using hb j rfl
    · split
      · rename_i h1 h2
        subst h2
        simp only [mapWfAbove, Bool.and_eq_true, bne_iff_ne, ne_eq]
        exact ⟨⟨h.1.1, hv⟩, h.2⟩
      · rename_i h1 h2
        simp only [mapWfAbove, Bool.and_eq_true, bne_iff_ne, ne_eq]
        refine ⟨h.1, ih _ (fun j hj => ?_) h.2⟩
        cases hj
        omega

/-- A write keeps the canonical form of a map. -/
theorem mapPut_wf (d : α) (m : Assoc α) (x : Nat) (v : α) (h : mapWf d m = true) : mapWf d (mapPut d m x v) = true := by
  unfold mapPut mapWf
  split
  · exact mapDel_above d m x none h
  · rename_i hv; exact mapIns_above d m x v none hv (by simp) h

theorem readByte_writeByte (m : List Host.Cell) (a b : Nat) (x : Byte) :
    readByte (writeByte m a x) b = if b = a then x else readByte m b := mapGet_mapPut 0 m a b x

/-- Storing a byte keeps the canonical form. -/
theorem writeByte_wf {m : List Host.Cell} (a : Nat) (b : Byte) (h : Memory.wf m = true) : Memory.wf (writeByte m a b) = true :=
  mapPut_wf 0 m a b h

/-- Storing bytes keeps the canonical form. -/
theorem writeN_wf (n : Nat) {m : List Host.Cell} (a v : Nat) (h : Memory.wf m = true) : Memory.wf (writeN m a n v) = true := by
  induction n generalizing m a v with
  | zero => exact h
  | succ n ih => exact ih _ _ (writeByte_wf a _ h)

/-- Storing a list of bytes keeps the canonical form. -/
theorem writeBytes_wf (bs : List Byte) {m : List Host.Cell} (a : Nat) (h : Memory.wf m = true) :
    Memory.wf (writeBytes m a bs) = true := by
  induction bs generalizing m a with
  | nil => exact h
  | cons b bs ih => exact ih _ (writeByte_wf a b h)

/-- A masked store keeps the canonical form. -/
theorem writeMasked_wf (n : Nat) {m : List Host.Cell} (a msk v : Nat) (h : Memory.wf m = true) :
    Memory.wf (writeMasked m a msk n v) = true := by
  induction n generalizing m a msk v with
  | zero => exact h
  | succ n ih =>
    unfold writeMasked
    split
    · exact ih _ _ _ (writeByte_wf a _ h)
    · exact ih _ _ _ h

/-- A store of `n` bytes changes only its own bytes, and those to the value's. -/
theorem readByte_writeN (n : Nat) (m : List Host.Cell) (a v b : Nat) :
    readByte (writeN m a n v) b =
      if a ≤ b ∧ b < a + n then BitVec.ofNat 8 (v / 256 ^ (b - a)) else readByte m b := by
  induction n generalizing m a v with
  | zero => rw [writeN, if_neg (by omega)]
  | succ n ih =>
    simp only [writeN, ih, readByte_writeByte]
    by_cases h : b = a
    · subst h
      rw [if_neg (by omega), if_pos rfl, if_pos (by omega)]
      simp
    · by_cases h2 : a + 1 ≤ b ∧ b < a + 1 + n
      · have h3 : a ≤ b ∧ b < a + (n + 1) := by omega
        rw [if_pos h2, if_pos h3, Nat.div_div_eq_div_mul]
        congr 2
        have : b - a = (b - (a + 1)) + 1 := by omega
        rw [this, Nat.pow_succ, Nat.mul_comm]
      · have h3 : ¬ (a ≤ b ∧ b < a + (n + 1)) := by omega
        rw [if_neg h2, if_neg h3, if_neg h]

/-- A masked store changes only the bytes its mask selects. -/
theorem readByte_writeMasked (n : Nat) (m : List Host.Cell) (a msk v b : Nat) :
    readByte (writeMasked m a msk n v) b =
      if (a ≤ b ∧ b < a + n) ∧ msk.testBit (b - a) = true then BitVec.ofNat 8 (v / 256 ^ (b - a)) else readByte m b := by
  induction n generalizing m a msk v with
  | zero =>
    rw [if_neg]
    · rfl
    · rintro ⟨h, -⟩; omega
  | succ n ih =>
    simp only [writeMasked, ih]
    by_cases h : b = a
    · subst h
      have h1 : ¬ (b + 1 ≤ b ∧ b < b + 1 + n) := by omega
      simp only [h1, false_and, if_false, Nat.sub_self, Nat.le_refl, Nat.testBit_zero, decide_eq_true_eq, Nat.pow_zero,
        Nat.div_one, true_and]
      by_cases hm : msk % 2 = 1
      · simp [hm, readByte_writeByte]
      · simp [hm]
    · have hb : readByte (if msk % 2 = 1 then writeByte m a (BitVec.ofNat 8 v) else m) b = readByte m b := by
        split
        · simp [readByte_writeByte, h]
        · rfl
      rw [hb]
      by_cases h2 : a + 1 ≤ b ∧ b < a + 1 + n
      · have h3 : a ≤ b ∧ b < a + (n + 1) := by omega
        have h4 : b - a = (b - (a + 1)) + 1 := by omega
        rw [h4, Nat.testBit_succ, Nat.div_div_eq_div_mul, Nat.pow_succ, Nat.mul_comm 256]
        simp only [h2, h3, true_and]
      · have h3 : ¬ (a ≤ b ∧ b < a + (n + 1)) := by omega
        simp only [h2, h3, false_and, if_false]

end Sys2Proof.Machine
end

