-- ==== Sys2Proof/Laws/State.lean ====
section
/-! SUPPORT. What each named update of the state and of a group leaves as it was, one lemma for each field. -/

namespace Sys2Proof.Machine

@[simp] theorem setGroup_agenda (s : State) (g : Group) : (setGroup s g).agenda = s.agenda := rfl
@[simp] theorem setGroup_cur (s : State) (g : Group) : (setGroup s g).cur = s.cur := rfl
@[simp] theorem setGroup_seq (s : State) (g : Group) : (setGroup s g).seq = s.seq := rfl
@[simp] theorem setGroup_bootStep (s : State) (g : Group) : (setGroup s g).bootStep = s.bootStep := rfl
@[simp] theorem setGroup_bootCode (s : State) (g : Group) : (setGroup s g).bootCode = s.bootCode := rfl
@[simp] theorem setGroup_failed (s : State) (g : Group) : (setGroup s g).failed = s.failed := rfl
@[simp] theorem setGroup_rootSv (s : State) (g : Group) : (setGroup s g).rootSv = s.rootSv := rfl
@[simp] theorem setGroup_svcSv (s : State) (g : Group) : (setGroup s g).svcSv = s.svcSv := rfl
@[simp] theorem setGroup_dbgSeen (s : State) (g : Group) : (setGroup s g).dbgSeen = s.dbgSeen := rfl
@[simp] theorem setGroup_rootHash (s : State) (g : Group) : (setGroup s g).rootHash = s.rootHash := rfl
@[simp] theorem setGroup_svcHash (s : State) (g : Group) : (setGroup s g).svcHash = s.svcHash := rfl
@[simp] theorem setGroup_cxl (s : State) (g : Group) : (setGroup s g).cxl = s.cxl := rfl
@[simp] theorem setGroup_now (s : State) (g : Group) : (setGroup s g).now = s.now := rfl
@[simp] theorem setGroup_skew (s : State) (g : Group) : (setGroup s g).skew = s.skew := rfl
@[simp] theorem setGroup_epoch (s : State) (g : Group) : (setGroup s g).epoch = s.epoch := rfl
@[simp] theorem setGroup_mem (s : State) (g : Group) : (setGroup s g).mem = s.mem := rfl
@[simp] theorem setGroup_vault (s : State) (g : Group) : (setGroup s g).vault = s.vault := rfl
@[simp] theorem setGroup_vs (s : State) (g : Group) : (setGroup s g).vs = s.vs := rfl
@[simp] theorem setGroup_hs (s : State) (g : Group) : (setGroup s g).hs = s.hs := rfl
@[simp] theorem setGroup_tiles (s : State) (g : Group) : (setGroup s g).tiles = s.tiles := rfl
@[simp] theorem setGroup_tileCtx (s : State) (g : Group) : (setGroup s g).tileCtx = s.tileCtx := rfl
@[simp] theorem setGroup_lineKey (s : State) (g : Group) : (setGroup s g).lineKey = s.lineKey := rfl
@[simp] theorem setGroup_keyOwner (s : State) (g : Group) : (setGroup s g).keyOwner = s.keyOwner := rfl
@[simp] theorem setGroup_keyGen (s : State) (g : Group) : (setGroup s g).keyGen = s.keyGen := rfl
@[simp] theorem setGroup_keys (s : State) (g : Group) : (setGroup s g).keys = s.keys := rfl
@[simp] theorem setGroup_poison (s : State) (g : Group) : (setGroup s g).poison = s.poison := rfl
@[simp] theorem setGroup_vpoison (s : State) (g : Group) : (setGroup s g).vpoison = s.vpoison := rfl
@[simp] theorem setGroup_l2bad (s : State) (g : Group) : (setGroup s g).l2bad = s.l2bad := rfl
@[simp] theorem setGroup_rasRows (s : State) (g : Group) : (setGroup s g).rasRows = s.rasRows := rfl
@[simp] theorem setGroup_rasLines (s : State) (g : Group) : (setGroup s g).rasLines = s.rasLines := rfl
@[simp] theorem setGroup_rasPend (s : State) (g : Group) : (setGroup s g).rasPend = s.rasPend := rfl
@[simp] theorem setGroup_spareRows (s : State) (g : Group) : (setGroup s g).spareRows = s.spareRows := rfl
@[simp] theorem setGroup_spareLines (s : State) (g : Group) : (setGroup s g).spareLines = s.spareLines := rfl
@[simp] theorem setGroup_regs (s : State) (g : Group) : (setGroup s g).regs = s.regs := rfl
@[simp] theorem setGroup_mt (s : State) (g : Group) : (setGroup s g).mt = s.mt := rfl
@[simp] theorem setGroup_home (s : State) (g : Group) : (setGroup s g).home = s.home := rfl
@[simp] theorem setGroup_l1 (s : State) (g : Group) : (setGroup s g).l1 = s.l1 := rfl
@[simp] theorem setGroup_cbuf (s : State) (g : Group) : (setGroup s g).cbuf = s.cbuf := rfl
@[simp] theorem setGroup_accs (s : State) (g : Group) : (setGroup s g).accs = s.accs := rfl
@[simp] theorem setGroup_bars (s : State) (g : Group) : (setGroup s g).bars = s.bars := rfl
@[simp] theorem setGroup_resv (s : State) (g : Group) : (setGroup s g).resv = s.resv := rfl
@[simp] theorem setGroup_scf (s : State) (g : Group) : (setGroup s g).scf = s.scf := rfl
@[simp] theorem setGroup_portLt (s : State) (g : Group) : (setGroup s g).portLt = s.portLt := rfl
@[simp] theorem setGroup_tlb (s : State) (g : Group) : (setGroup s g).tlb = s.tlb := rfl
@[simp] theorem setGroup_micro (s : State) (g : Group) : (setGroup s g).micro = s.micro := rfl
@[simp] theorem setGroup_filters (s : State) (g : Group) : (setGroup s g).filters = s.filters := rfl
@[simp] theorem setGroup_icode (s : State) (g : Group) : (setGroup s g).icode = s.icode := rfl
@[simp] theorem setGroup_invs (s : State) (g : Group) : (setGroup s g).invs = s.invs := rfl
@[simp] theorem setGroup_teams (s : State) (g : Group) : (setGroup s g).teams = s.teams := rfl
@[simp] theorem setGroup_pastSpace (s : State) (g : Group) : (setGroup s g).pastSpace = s.pastSpace := rfl
@[simp] theorem setGroup_grids (s : State) (g : Group) : (setGroup s g).grids = s.grids := rfl
@[simp] theorem setGroup_rods (s : State) (g : Group) : (setGroup s g).rods = s.rods := rfl
@[simp] theorem setGroup_stealCyc (s : State) (g : Group) : (setGroup s g).stealCyc = s.stealCyc := rfl
@[simp] theorem setGroup_stealDone (s : State) (g : Group) : (setGroup s g).stealDone = s.stealDone := rfl
@[simp] theorem setGroup_stealSeed (s : State) (g : Group) : (setGroup s g).stealSeed = s.stealSeed := rfl
@[simp] theorem setGroup_nextId (s : State) (g : Group) : (setGroup s g).nextId = s.nextId := rfl
@[simp] theorem setGroup_resvd (s : State) (g : Group) : (setGroup s g).resvd = s.resvd := rfl
@[simp] theorem setGroup_preempts (s : State) (g : Group) : (setGroup s g).preempts = s.preempts := rfl
@[simp] theorem setGroup_lastPop (s : State) (g : Group) : (setGroup s g).lastPop = s.lastPop := rfl
@[simp] theorem setGroup_announced (s : State) (g : Group) : (setGroup s g).announced = s.announced := rfl
@[simp] theorem setGroup_compl (s : State) (g : Group) : (setGroup s g).compl = s.compl := rfl
@[simp] theorem setGroup_gangs (s : State) (g : Group) : (setGroup s g).gangs = s.gangs := rfl
@[simp] theorem setGroup_members (s : State) (g : Group) : (setGroup s g).members = s.members := rfl
@[simp] theorem setGroup_ops (s : State) (g : Group) : (setGroup s g).ops = s.ops := rfl
@[simp] theorem setGroup_mq (s : State) (g : Group) : (setGroup s g).mq = s.mq := rfl
@[simp] theorem setGroup_batches (s : State) (g : Group) : (setGroup s g).batches = s.batches := rfl
@[simp] theorem setGroup_stopQ (s : State) (g : Group) : (setGroup s g).stopQ = s.stopQ := rfl
@[simp] theorem setGroup_biasRun (s : State) (g : Group) : (setGroup s g).biasRun = s.biasRun := rfl
@[simp] theorem setGroup_biasQ (s : State) (g : Group) : (setGroup s g).biasQ = s.biasQ := rfl
@[simp] theorem setGroup_revoking (s : State) (g : Group) : (setGroup s g).revoking = s.revoking := rfl
@[simp] theorem setGroup_portDown (s : State) (g : Group) : (setGroup s g).portDown = s.portDown := rfl
@[simp] theorem setGroup_rerouted (s : State) (g : Group) : (setGroup s g).rerouted = s.rerouted := rfl
@[simp] theorem setGroup_incns (s : State) (g : Group) : (setGroup s g).incns = s.incns := rfl
@[simp] theorem setGroup_replays (s : State) (g : Group) : (setGroup s g).replays = s.replays := rfl
@[simp] theorem setGroup_limLow (s : State) (g : Group) : (setGroup s g).limLow = s.limLow := rfl
@[simp] theorem setGroup_sampleCnt (s : State) (g : Group) : (setGroup s g).sampleCnt = s.sampleCnt := rfl
@[simp] theorem setGroup_samplePick (s : State) (g : Group) : (setGroup s g).samplePick = s.samplePick := rfl
@[simp] theorem setGroup_tags (s : State) (g : Group) : (setGroup s g).tags = s.tags := rfl
@[simp] theorem setGroup_outbox (s : State) (g : Group) : (setGroup s g).outbox = s.outbox := rfl

@[simp] theorem updGroup_agenda (s : State) (k : Nat) (f : Group → Group) : (updGroup s k f).agenda = s.agenda := rfl
@[simp] theorem updGroup_cur (s : State) (k : Nat) (f : Group → Group) : (updGroup s k f).cur = s.cur := rfl
@[simp] theorem updGroup_seq (s : State) (k : Nat) (f : Group → Group) : (updGroup s k f).seq = s.seq := rfl
@[simp] theorem updGroup_bootStep (s : State) (k : Nat) (f : Group → Group) : (updGroup s k f).bootStep = s.bootStep := rfl
@[simp] theorem updGroup_bootCode (s : State) (k : Nat) (f : Group → Group) : (updGroup s k f).bootCode = s.bootCode := rfl
@[simp] theorem updGroup_failed (s : State) (k : Nat) (f : Group → Group) : (updGroup s k f).failed = s.failed := rfl
@[simp] theorem updGroup_rootSv (s : State) (k : Nat) (f : Group → Group) : (updGroup s k f).rootSv = s.rootSv := rfl
@[simp] theorem updGroup_svcSv (s : State) (k : Nat) (f : Group → Group) : (updGroup s k f).svcSv = s.svcSv := rfl
@[simp] theorem updGroup_dbgSeen (s : State) (k : Nat) (f : Group → Group) : (updGroup s k f).dbgSeen = s.dbgSeen := rfl
@[simp] theorem updGroup_rootHash (s : State) (k : Nat) (f : Group → Group) : (updGroup s k f).rootHash = s.rootHash := rfl
@[simp] theorem updGroup_svcHash (s : State) (k : Nat) (f : Group → Group) : (updGroup s k f).svcHash = s.svcHash := rfl
@[simp] theorem updGroup_cxl (s : State) (k : Nat) (f : Group → Group) : (updGroup s k f).cxl = s.cxl := rfl
@[simp] theorem updGroup_now (s : State) (k : Nat) (f : Group → Group) : (updGroup s k f).now = s.now := rfl
@[simp] theorem updGroup_skew (s : State) (k : Nat) (f : Group → Group) : (updGroup s k f).skew = s.skew := rfl
@[simp] theorem updGroup_epoch (s : State) (k : Nat) (f : Group → Group) : (updGroup s k f).epoch = s.epoch := rfl
@[simp] theorem updGroup_mem (s : State) (k : Nat) (f : Group → Group) : (updGroup s k f).mem = s.mem := rfl
@[simp] theorem updGroup_vault (s : State) (k : Nat) (f : Group → Group) : (updGroup s k f).vault = s.vault := rfl
@[simp] theorem updGroup_vs (s : State) (k : Nat) (f : Group → Group) : (updGroup s k f).vs = s.vs := rfl
@[simp] theorem updGroup_hs (s : State) (k : Nat) (f : Group → Group) : (updGroup s k f).hs = s.hs := rfl
@[simp] theorem updGroup_tiles (s : State) (k : Nat) (f : Group → Group) : (updGroup s k f).tiles = s.tiles := rfl
@[simp] theorem updGroup_tileCtx (s : State) (k : Nat) (f : Group → Group) : (updGroup s k f).tileCtx = s.tileCtx := rfl
@[simp] theorem updGroup_lineKey (s : State) (k : Nat) (f : Group → Group) : (updGroup s k f).lineKey = s.lineKey := rfl
@[simp] theorem updGroup_keyOwner (s : State) (k : Nat) (f : Group → Group) : (updGroup s k f).keyOwner = s.keyOwner := rfl
@[simp] theorem updGroup_keyGen (s : State) (k : Nat) (f : Group → Group) : (updGroup s k f).keyGen = s.keyGen := rfl
@[simp] theorem updGroup_keys (s : State) (k : Nat) (f : Group → Group) : (updGroup s k f).keys = s.keys := rfl
@[simp] theorem updGroup_poison (s : State) (k : Nat) (f : Group → Group) : (updGroup s k f).poison = s.poison := rfl
@[simp] theorem updGroup_vpoison (s : State) (k : Nat) (f : Group → Group) : (updGroup s k f).vpoison = s.vpoison := rfl
@[simp] theorem updGroup_l2bad (s : State) (k : Nat) (f : Group → Group) : (updGroup s k f).l2bad = s.l2bad := rfl
@[simp] theorem updGroup_rasRows (s : State) (k : Nat) (f : Group → Group) : (updGroup s k f).rasRows = s.rasRows := rfl
@[simp] theorem updGroup_rasLines (s : State) (k : Nat) (f : Group → Group) : (updGroup s k f).rasLines = s.rasLines := rfl
@[simp] theorem updGroup_rasPend (s : State) (k : Nat) (f : Group → Group) : (updGroup s k f).rasPend = s.rasPend := rfl
@[simp] theorem updGroup_spareRows (s : State) (k : Nat) (f : Group → Group) : (updGroup s k f).spareRows = s.spareRows := rfl
@[simp] theorem updGroup_spareLines (s : State) (k : Nat) (f : Group → Group) : (updGroup s k f).spareLines = s.spareLines := rfl
@[simp] theorem updGroup_regs (s : State) (k : Nat) (f : Group → Group) : (updGroup s k f).regs = s.regs := rfl
@[simp] theorem updGroup_mt (s : State) (k : Nat) (f : Group → Group) : (updGroup s k f).mt = s.mt := rfl
@[simp] theorem updGroup_home (s : State) (k : Nat) (f : Group → Group) : (updGroup s k f).home = s.home := rfl
@[simp] theorem updGroup_l1 (s : State) (k : Nat) (f : Group → Group) : (updGroup s k f).l1 = s.l1 := rfl
@[simp] theorem updGroup_cbuf (s : State) (k : Nat) (f : Group → Group) : (updGroup s k f).cbuf = s.cbuf := rfl
@[simp] theorem updGroup_accs (s : State) (k : Nat) (f : Group → Group) : (updGroup s k f).accs = s.accs := rfl
@[simp] theorem updGroup_bars (s : State) (k : Nat) (f : Group → Group) : (updGroup s k f).bars = s.bars := rfl
@[simp] theorem updGroup_resv (s : State) (k : Nat) (f : Group → Group) : (updGroup s k f).resv = s.resv := rfl
@[simp] theorem updGroup_scf (s : State) (k : Nat) (f : Group → Group) : (updGroup s k f).scf = s.scf := rfl
@[simp] theorem updGroup_portLt (s : State) (k : Nat) (f : Group → Group) : (updGroup s k f).portLt = s.portLt := rfl
@[simp] theorem updGroup_tlb (s : State) (k : Nat) (f : Group → Group) : (updGroup s k f).tlb = s.tlb := rfl
@[simp] theorem updGroup_micro (s : State) (k : Nat) (f : Group → Group) : (updGroup s k f).micro = s.micro := rfl
@[simp] theorem updGroup_filters (s : State) (k : Nat) (f : Group → Group) : (updGroup s k f).filters = s.filters := rfl
@[simp] theorem updGroup_icode (s : State) (k : Nat) (f : Group → Group) : (updGroup s k f).icode = s.icode := rfl
@[simp] theorem updGroup_invs (s : State) (k : Nat) (f : Group → Group) : (updGroup s k f).invs = s.invs := rfl
@[simp] theorem updGroup_teams (s : State) (k : Nat) (f : Group → Group) : (updGroup s k f).teams = s.teams := rfl
@[simp] theorem updGroup_pastSpace (s : State) (k : Nat) (f : Group → Group) : (updGroup s k f).pastSpace = s.pastSpace := rfl
@[simp] theorem updGroup_grids (s : State) (k : Nat) (f : Group → Group) : (updGroup s k f).grids = s.grids := rfl
@[simp] theorem updGroup_rods (s : State) (k : Nat) (f : Group → Group) : (updGroup s k f).rods = s.rods := rfl
@[simp] theorem updGroup_stealCyc (s : State) (k : Nat) (f : Group → Group) : (updGroup s k f).stealCyc = s.stealCyc := rfl
@[simp] theorem updGroup_stealDone (s : State) (k : Nat) (f : Group → Group) : (updGroup s k f).stealDone = s.stealDone := rfl
@[simp] theorem updGroup_stealSeed (s : State) (k : Nat) (f : Group → Group) : (updGroup s k f).stealSeed = s.stealSeed := rfl
@[simp] theorem updGroup_nextId (s : State) (k : Nat) (f : Group → Group) : (updGroup s k f).nextId = s.nextId := rfl
@[simp] theorem updGroup_resvd (s : State) (k : Nat) (f : Group → Group) : (updGroup s k f).resvd = s.resvd := rfl
@[simp] theorem updGroup_preempts (s : State) (k : Nat) (f : Group → Group) : (updGroup s k f).preempts = s.preempts := rfl
@[simp] theorem updGroup_lastPop (s : State) (k : Nat) (f : Group → Group) : (updGroup s k f).lastPop = s.lastPop := rfl
@[simp] theorem updGroup_announced (s : State) (k : Nat) (f : Group → Group) : (updGroup s k f).announced = s.announced := rfl
@[simp] theorem updGroup_compl (s : State) (k : Nat) (f : Group → Group) : (updGroup s k f).compl = s.compl := rfl
@[simp] theorem updGroup_gangs (s : State) (k : Nat) (f : Group → Group) : (updGroup s k f).gangs = s.gangs := rfl
@[simp] theorem updGroup_members (s : State) (k : Nat) (f : Group → Group) : (updGroup s k f).members = s.members := rfl
@[simp] theorem updGroup_ops (s : State) (k : Nat) (f : Group → Group) : (updGroup s k f).ops = s.ops := rfl
@[simp] theorem updGroup_mq (s : State) (k : Nat) (f : Group → Group) : (updGroup s k f).mq = s.mq := rfl
@[simp] theorem updGroup_batches (s : State) (k : Nat) (f : Group → Group) : (updGroup s k f).batches = s.batches := rfl
@[simp] theorem updGroup_stopQ (s : State) (k : Nat) (f : Group → Group) : (updGroup s k f).stopQ = s.stopQ := rfl
@[simp] theorem updGroup_biasRun (s : State) (k : Nat) (f : Group → Group) : (updGroup s k f).biasRun = s.biasRun := rfl
@[simp] theorem updGroup_biasQ (s : State) (k : Nat) (f : Group → Group) : (updGroup s k f).biasQ = s.biasQ := rfl
@[simp] theorem updGroup_revoking (s : State) (k : Nat) (f : Group → Group) : (updGroup s k f).revoking = s.revoking := rfl
@[simp] theorem updGroup_portDown (s : State) (k : Nat) (f : Group → Group) : (updGroup s k f).portDown = s.portDown := rfl
@[simp] theorem updGroup_rerouted (s : State) (k : Nat) (f : Group → Group) : (updGroup s k f).rerouted = s.rerouted := rfl
@[simp] theorem updGroup_incns (s : State) (k : Nat) (f : Group → Group) : (updGroup s k f).incns = s.incns := rfl
@[simp] theorem updGroup_replays (s : State) (k : Nat) (f : Group → Group) : (updGroup s k f).replays = s.replays := rfl
@[simp] theorem updGroup_limLow (s : State) (k : Nat) (f : Group → Group) : (updGroup s k f).limLow = s.limLow := rfl
@[simp] theorem updGroup_sampleCnt (s : State) (k : Nat) (f : Group → Group) : (updGroup s k f).sampleCnt = s.sampleCnt := rfl
@[simp] theorem updGroup_samplePick (s : State) (k : Nat) (f : Group → Group) : (updGroup s k f).samplePick = s.samplePick := rfl
@[simp] theorem updGroup_tags (s : State) (k : Nat) (f : Group → Group) : (updGroup s k f).tags = s.tags := rfl
@[simp] theorem updGroup_outbox (s : State) (k : Nat) (f : Group → Group) : (updGroup s k f).outbox = s.outbox := rfl

@[simp] theorem updTeam_agenda (s : State) (k : Nat) (f : Team → Team) : (updTeam s k f).agenda = s.agenda := rfl
@[simp] theorem updTeam_cur (s : State) (k : Nat) (f : Team → Team) : (updTeam s k f).cur = s.cur := rfl
@[simp] theorem updTeam_seq (s : State) (k : Nat) (f : Team → Team) : (updTeam s k f).seq = s.seq := rfl
@[simp] theorem updTeam_bootStep (s : State) (k : Nat) (f : Team → Team) : (updTeam s k f).bootStep = s.bootStep := rfl
@[simp] theorem updTeam_bootCode (s : State) (k : Nat) (f : Team → Team) : (updTeam s k f).bootCode = s.bootCode := rfl
@[simp] theorem updTeam_failed (s : State) (k : Nat) (f : Team → Team) : (updTeam s k f).failed = s.failed := rfl
@[simp] theorem updTeam_rootSv (s : State) (k : Nat) (f : Team → Team) : (updTeam s k f).rootSv = s.rootSv := rfl
@[simp] theorem updTeam_svcSv (s : State) (k : Nat) (f : Team → Team) : (updTeam s k f).svcSv = s.svcSv := rfl
@[simp] theorem updTeam_dbgSeen (s : State) (k : Nat) (f : Team → Team) : (updTeam s k f).dbgSeen = s.dbgSeen := rfl
@[simp] theorem updTeam_rootHash (s : State) (k : Nat) (f : Team → Team) : (updTeam s k f).rootHash = s.rootHash := rfl
@[simp] theorem updTeam_svcHash (s : State) (k : Nat) (f : Team → Team) : (updTeam s k f).svcHash = s.svcHash := rfl
@[simp] theorem updTeam_cxl (s : State) (k : Nat) (f : Team → Team) : (updTeam s k f).cxl = s.cxl := rfl
@[simp] theorem updTeam_now (s : State) (k : Nat) (f : Team → Team) : (updTeam s k f).now = s.now := rfl
@[simp] theorem updTeam_skew (s : State) (k : Nat) (f : Team → Team) : (updTeam s k f).skew = s.skew := rfl
@[simp] theorem updTeam_epoch (s : State) (k : Nat) (f : Team → Team) : (updTeam s k f).epoch = s.epoch := rfl
@[simp] theorem updTeam_mem (s : State) (k : Nat) (f : Team → Team) : (updTeam s k f).mem = s.mem := rfl
@[simp] theorem updTeam_vault (s : State) (k : Nat) (f : Team → Team) : (updTeam s k f).vault = s.vault := rfl
@[simp] theorem updTeam_vs (s : State) (k : Nat) (f : Team → Team) : (updTeam s k f).vs = s.vs := rfl
@[simp] theorem updTeam_hs (s : State) (k : Nat) (f : Team → Team) : (updTeam s k f).hs = s.hs := rfl
@[simp] theorem updTeam_tiles (s : State) (k : Nat) (f : Team → Team) : (updTeam s k f).tiles = s.tiles := rfl
@[simp] theorem updTeam_tileCtx (s : State) (k : Nat) (f : Team → Team) : (updTeam s k f).tileCtx = s.tileCtx := rfl
@[simp] theorem updTeam_lineKey (s : State) (k : Nat) (f : Team → Team) : (updTeam s k f).lineKey = s.lineKey := rfl
@[simp] theorem updTeam_keyOwner (s : State) (k : Nat) (f : Team → Team) : (updTeam s k f).keyOwner = s.keyOwner := rfl
@[simp] theorem updTeam_keyGen (s : State) (k : Nat) (f : Team → Team) : (updTeam s k f).keyGen = s.keyGen := rfl
@[simp] theorem updTeam_keys (s : State) (k : Nat) (f : Team → Team) : (updTeam s k f).keys = s.keys := rfl
@[simp] theorem updTeam_poison (s : State) (k : Nat) (f : Team → Team) : (updTeam s k f).poison = s.poison := rfl
@[simp] theorem updTeam_vpoison (s : State) (k : Nat) (f : Team → Team) : (updTeam s k f).vpoison = s.vpoison := rfl
@[simp] theorem updTeam_l2bad (s : State) (k : Nat) (f : Team → Team) : (updTeam s k f).l2bad = s.l2bad := rfl
@[simp] theorem updTeam_rasRows (s : State) (k : Nat) (f : Team → Team) : (updTeam s k f).rasRows = s.rasRows := rfl
@[simp] theorem updTeam_rasLines (s : State) (k : Nat) (f : Team → Team) : (updTeam s k f).rasLines = s.rasLines := rfl
@[simp] theorem updTeam_rasPend (s : State) (k : Nat) (f : Team → Team) : (updTeam s k f).rasPend = s.rasPend := rfl
@[simp] theorem updTeam_spareRows (s : State) (k : Nat) (f : Team → Team) : (updTeam s k f).spareRows = s.spareRows := rfl
@[simp] theorem updTeam_spareLines (s : State) (k : Nat) (f : Team → Team) : (updTeam s k f).spareLines = s.spareLines := rfl
@[simp] theorem updTeam_regs (s : State) (k : Nat) (f : Team → Team) : (updTeam s k f).regs = s.regs := rfl
@[simp] theorem updTeam_mt (s : State) (k : Nat) (f : Team → Team) : (updTeam s k f).mt = s.mt := rfl
@[simp] theorem updTeam_home (s : State) (k : Nat) (f : Team → Team) : (updTeam s k f).home = s.home := rfl
@[simp] theorem updTeam_l1 (s : State) (k : Nat) (f : Team → Team) : (updTeam s k f).l1 = s.l1 := rfl
@[simp] theorem updTeam_cbuf (s : State) (k : Nat) (f : Team → Team) : (updTeam s k f).cbuf = s.cbuf := rfl
@[simp] theorem updTeam_accs (s : State) (k : Nat) (f : Team → Team) : (updTeam s k f).accs = s.accs := rfl
@[simp] theorem updTeam_bars (s : State) (k : Nat) (f : Team → Team) : (updTeam s k f).bars = s.bars := rfl
@[simp] theorem updTeam_resv (s : State) (k : Nat) (f : Team → Team) : (updTeam s k f).resv = s.resv := rfl
@[simp] theorem updTeam_scf (s : State) (k : Nat) (f : Team → Team) : (updTeam s k f).scf = s.scf := rfl
@[simp] theorem updTeam_portLt (s : State) (k : Nat) (f : Team → Team) : (updTeam s k f).portLt = s.portLt := rfl
@[simp] theorem updTeam_tlb (s : State) (k : Nat) (f : Team → Team) : (updTeam s k f).tlb = s.tlb := rfl
@[simp] theorem updTeam_micro (s : State) (k : Nat) (f : Team → Team) : (updTeam s k f).micro = s.micro := rfl
@[simp] theorem updTeam_filters (s : State) (k : Nat) (f : Team → Team) : (updTeam s k f).filters = s.filters := rfl
@[simp] theorem updTeam_icode (s : State) (k : Nat) (f : Team → Team) : (updTeam s k f).icode = s.icode := rfl
@[simp] theorem updTeam_invs (s : State) (k : Nat) (f : Team → Team) : (updTeam s k f).invs = s.invs := rfl
@[simp] theorem updTeam_groups (s : State) (k : Nat) (f : Team → Team) : (updTeam s k f).groups = s.groups := rfl
@[simp] theorem updTeam_pastSpace (s : State) (k : Nat) (f : Team → Team) : (updTeam s k f).pastSpace = s.pastSpace := rfl
@[simp] theorem updTeam_grids (s : State) (k : Nat) (f : Team → Team) : (updTeam s k f).grids = s.grids := rfl
@[simp] theorem updTeam_rods (s : State) (k : Nat) (f : Team → Team) : (updTeam s k f).rods = s.rods := rfl
@[simp] theorem updTeam_stealCyc (s : State) (k : Nat) (f : Team → Team) : (updTeam s k f).stealCyc = s.stealCyc := rfl
@[simp] theorem updTeam_stealDone (s : State) (k : Nat) (f : Team → Team) : (updTeam s k f).stealDone = s.stealDone := rfl
@[simp] theorem updTeam_stealSeed (s : State) (k : Nat) (f : Team → Team) : (updTeam s k f).stealSeed = s.stealSeed := rfl
@[simp] theorem updTeam_nextId (s : State) (k : Nat) (f : Team → Team) : (updTeam s k f).nextId = s.nextId := rfl
@[simp] theorem updTeam_resvd (s : State) (k : Nat) (f : Team → Team) : (updTeam s k f).resvd = s.resvd := rfl
@[simp] theorem updTeam_preempts (s : State) (k : Nat) (f : Team → Team) : (updTeam s k f).preempts = s.preempts := rfl
@[simp] theorem updTeam_lastPop (s : State) (k : Nat) (f : Team → Team) : (updTeam s k f).lastPop = s.lastPop := rfl
@[simp] theorem updTeam_announced (s : State) (k : Nat) (f : Team → Team) : (updTeam s k f).announced = s.announced := rfl
@[simp] theorem updTeam_compl (s : State) (k : Nat) (f : Team → Team) : (updTeam s k f).compl = s.compl := rfl
@[simp] theorem updTeam_gangs (s : State) (k : Nat) (f : Team → Team) : (updTeam s k f).gangs = s.gangs := rfl
@[simp] theorem updTeam_members (s : State) (k : Nat) (f : Team → Team) : (updTeam s k f).members = s.members := rfl
@[simp] theorem updTeam_ops (s : State) (k : Nat) (f : Team → Team) : (updTeam s k f).ops = s.ops := rfl
@[simp] theorem updTeam_mq (s : State) (k : Nat) (f : Team → Team) : (updTeam s k f).mq = s.mq := rfl
@[simp] theorem updTeam_batches (s : State) (k : Nat) (f : Team → Team) : (updTeam s k f).batches = s.batches := rfl
@[simp] theorem updTeam_stopQ (s : State) (k : Nat) (f : Team → Team) : (updTeam s k f).stopQ = s.stopQ := rfl
@[simp] theorem updTeam_biasRun (s : State) (k : Nat) (f : Team → Team) : (updTeam s k f).biasRun = s.biasRun := rfl
@[simp] theorem updTeam_biasQ (s : State) (k : Nat) (f : Team → Team) : (updTeam s k f).biasQ = s.biasQ := rfl
@[simp] theorem updTeam_revoking (s : State) (k : Nat) (f : Team → Team) : (updTeam s k f).revoking = s.revoking := rfl
@[simp] theorem updTeam_portDown (s : State) (k : Nat) (f : Team → Team) : (updTeam s k f).portDown = s.portDown := rfl
@[simp] theorem updTeam_rerouted (s : State) (k : Nat) (f : Team → Team) : (updTeam s k f).rerouted = s.rerouted := rfl
@[simp] theorem updTeam_incns (s : State) (k : Nat) (f : Team → Team) : (updTeam s k f).incns = s.incns := rfl
@[simp] theorem updTeam_replays (s : State) (k : Nat) (f : Team → Team) : (updTeam s k f).replays = s.replays := rfl
@[simp] theorem updTeam_limLow (s : State) (k : Nat) (f : Team → Team) : (updTeam s k f).limLow = s.limLow := rfl
@[simp] theorem updTeam_sampleCnt (s : State) (k : Nat) (f : Team → Team) : (updTeam s k f).sampleCnt = s.sampleCnt := rfl
@[simp] theorem updTeam_samplePick (s : State) (k : Nat) (f : Team → Team) : (updTeam s k f).samplePick = s.samplePick := rfl
@[simp] theorem updTeam_tags (s : State) (k : Nat) (f : Team → Team) : (updTeam s k f).tags = s.tags := rfl
@[simp] theorem updTeam_outbox (s : State) (k : Nat) (f : Team → Team) : (updTeam s k f).outbox = s.outbox := rfl

@[simp] theorem setV_gid (g : Group) (r l : Nat) (x : W32) : (setV g r l x).gid = g.gid := rfl
@[simp] theorem setV_core (g : Group) (r l : Nat) (x : W32) : (setV g r l x).core = g.core := rfl
@[simp] theorem setV_res (g : Group) (r l : Nat) (x : W32) : (setV g r l x).res = g.res := rfl
@[simp] theorem setV_stopped (g : Group) (r l : Nat) (x : W32) : (setV g r l x).stopped = g.stopped := rfl
@[simp] theorem setV_stopReq (g : Group) (r l : Nat) (x : W32) : (setV g r l x).stopReq = g.stopReq := rfl
@[simp] theorem setV_stopLanes (g : Group) (r l : Nat) (x : W32) : (setV g r l x).stopLanes = g.stopLanes := rfl
@[simp] theorem setV_kept (g : Group) (r l : Nat) (x : W32) : (setV g r l x).kept = g.kept := rfl
@[simp] theorem setV_halt (g : Group) (r l : Nat) (x : W32) : (setV g r l x).halt = g.halt := rfl
@[simp] theorem setV_haltCyc (g : Group) (r l : Nat) (x : W32) : (setV g r l x).haltCyc = g.haltCyc := rfl
@[simp] theorem setV_pasid (g : Group) (r l : Nat) (x : W32) : (setV g r l x).pasid = g.pasid := rfl
@[simp] theorem setV_sys (g : Group) (r l : Nat) (x : W32) : (setV g r l x).sys = g.sys := rfl
@[simp] theorem setV_front (g : Group) (r l : Nat) (x : W32) : (setV g r l x).front = g.front := rfl
@[simp] theorem setV_team (g : Group) (r l : Nat) (x : W32) : (setV g r l x).team = g.team := rfl
@[simp] theorem setV_srTeam (g : Group) (r l : Nat) (x : W32) : (setV g r l x).srTeam = g.srTeam := rfl
@[simp] theorem setV_srGroup (g : Group) (r l : Nat) (x : W32) : (setV g r l x).srGroup = g.srGroup := rfl
@[simp] theorem setV_w (g : Group) (r l : Nat) (x : W32) : (setV g r l x).w = g.w := rfl
@[simp] theorem setV_ker (g : Group) (r l : Nat) (x : W32) : (setV g r l x).ker = g.ker := rfl
@[simp] theorem setV_p (g : Group) (r l : Nat) (x : W32) : (setV g r l x).p = g.p := rfl
@[simp] theorem setV_s (g : Group) (r l : Nat) (x : W32) : (setV g r l x).s = g.s := rfl
@[simp] theorem setV_a (g : Group) (r l : Nat) (x : W32) : (setV g r l x).a = g.a := rfl
@[simp] theorem setV_q (g : Group) (r l : Nat) (x : W32) : (setV g r l x).q = g.q := rfl
@[simp] theorem setV_i (g : Group) (r l : Nat) (x : W32) : (setV g r l x).i = g.i := rfl
@[simp] theorem setV_lanes (g : Group) (r l : Nat) (x : W32) : (setV g r l x).lanes = g.lanes := rfl
@[simp] theorem setV_ents (g : Group) (r l : Nat) (x : W32) : (setV g r l x).ents = g.ents := rfl
@[simp] theorem setV_frames (g : Group) (r l : Nat) (x : W32) : (setV g r l x).frames = g.frames := rfl
@[simp] theorem setV_rmode (g : Group) (r l : Nat) (x : W32) : (setV g r l x).rmode = g.rmode := rfl
@[simp] theorem setV_tbase (g : Group) (r l : Nat) (x : W32) : (setV g r l x).tbase = g.tbase := rfl
@[simp] theorem setV_deadline (g : Group) (r l : Nat) (x : W32) : (setV g r l x).deadline = g.deadline := rfl
@[simp] theorem setV_budget (g : Group) (r l : Nat) (x : W32) : (setV g r l x).budget = g.budget := rfl
@[simp] theorem setV_budgetPend (g : Group) (r l : Nat) (x : W32) : (setV g r l x).budgetPend = g.budgetPend := rfl
@[simp] theorem setV_lt (g : Group) (r l : Nat) (x : W32) : (setV g r l x).lt = g.lt := rfl
@[simp] theorem setV_eqp (g : Group) (r l : Nat) (x : W32) : (setV g r l x).eqp = g.eqp := rfl
@[simp] theorem setV_rgn (g : Group) (r l : Nat) (x : W32) : (setV g r l x).rgn = g.rgn := rfl
@[simp] theorem setV_stalls (g : Group) (r l : Nat) (x : W32) : (setV g r l x).stalls = g.stalls := rfl
@[simp] theorem setV_retired (g : Group) (r l : Nat) (x : W32) : (setV g r l x).retired = g.retired := rfl
@[simp] theorem setV_migReq (g : Group) (r l : Nat) (x : W32) : (setV g r l x).migReq = g.migReq := rfl
@[simp] theorem setV_migCore (g : Group) (r l : Nat) (x : W32) : (setV g r l x).migCore = g.migCore := rfl
@[simp] theorem setV_migTiles (g : Group) (r l : Nat) (x : W32) : (setV g r l x).migTiles = g.migTiles := rfl
@[simp] theorem setV_migWord (g : Group) (r l : Nat) (x : W32) : (setV g r l x).migWord = g.migWord := rfl
@[simp] theorem setV_arriving (g : Group) (r l : Nat) (x : W32) : (setV g r l x).arriving = g.arriving := rfl
@[simp] theorem setV_released (g : Group) (r l : Nat) (x : W32) : (setV g r l x).released = g.released := rfl
@[simp] theorem setV_pend (g : Group) (r l : Nat) (x : W32) : (setV g r l x).pend = g.pend := rfl
@[simp] theorem setV_flights (g : Group) (r l : Nat) (x : W32) : (setV g r l x).flights = g.flights := rfl
@[simp] theorem setV_spark (g : Group) (r l : Nat) (x : W32) : (setV g r l x).spark = g.spark := rfl
@[simp] theorem setV_rlt (g : Group) (r l : Nat) (x : W32) : (setV g r l x).rlt = g.rlt := rfl
@[simp] theorem setV_elt (g : Group) (r l : Nat) (x : W32) : (setV g r l x).elt = g.elt := rfl
@[simp] theorem setV_remFail (g : Group) (r l : Nat) (x : W32) : (setV g r l x).remFail = g.remFail := rfl
@[simp] theorem setV_slice (g : Group) (r l : Nat) (x : W32) : (setV g r l x).slice = g.slice := rfl
@[simp] theorem setV_last (g : Group) (r l : Nat) (x : W32) : (setV g r l x).last = g.last := rfl
@[simp] theorem setV_yielded (g : Group) (r l : Nat) (x : W32) : (setV g r l x).yielded = g.yielded := rfl

@[simp] theorem setS_gid (g : Group) (r : Nat) (x : W32) : (setS g r x).gid = g.gid := rfl
@[simp] theorem setS_core (g : Group) (r : Nat) (x : W32) : (setS g r x).core = g.core := rfl
@[simp] theorem setS_res (g : Group) (r : Nat) (x : W32) : (setS g r x).res = g.res := rfl
@[simp] theorem setS_stopped (g : Group) (r : Nat) (x : W32) : (setS g r x).stopped = g.stopped := rfl
@[simp] theorem setS_stopReq (g : Group) (r : Nat) (x : W32) : (setS g r x).stopReq = g.stopReq := rfl
@[simp] theorem setS_stopLanes (g : Group) (r : Nat) (x : W32) : (setS g r x).stopLanes = g.stopLanes := rfl
@[simp] theorem setS_kept (g : Group) (r : Nat) (x : W32) : (setS g r x).kept = g.kept := rfl
@[simp] theorem setS_halt (g : Group) (r : Nat) (x : W32) : (setS g r x).halt = g.halt := rfl
@[simp] theorem setS_haltCyc (g : Group) (r : Nat) (x : W32) : (setS g r x).haltCyc = g.haltCyc := rfl
@[simp] theorem setS_pasid (g : Group) (r : Nat) (x : W32) : (setS g r x).pasid = g.pasid := rfl
@[simp] theorem setS_sys (g : Group) (r : Nat) (x : W32) : (setS g r x).sys = g.sys := rfl
@[simp] theorem setS_front (g : Group) (r : Nat) (x : W32) : (setS g r x).front = g.front := rfl
@[simp] theorem setS_team (g : Group) (r : Nat) (x : W32) : (setS g r x).team = g.team := rfl
@[simp] theorem setS_srTeam (g : Group) (r : Nat) (x : W32) : (setS g r x).srTeam = g.srTeam := rfl
@[simp] theorem setS_srGroup (g : Group) (r : Nat) (x : W32) : (setS g r x).srGroup = g.srGroup := rfl
@[simp] theorem setS_w (g : Group) (r : Nat) (x : W32) : (setS g r x).w = g.w := rfl
@[simp] theorem setS_ker (g : Group) (r : Nat) (x : W32) : (setS g r x).ker = g.ker := rfl
@[simp] theorem setS_v (g : Group) (r : Nat) (x : W32) : (setS g r x).v = g.v := rfl
@[simp] theorem setS_p (g : Group) (r : Nat) (x : W32) : (setS g r x).p = g.p := rfl
@[simp] theorem setS_a (g : Group) (r : Nat) (x : W32) : (setS g r x).a = g.a := rfl
@[simp] theorem setS_q (g : Group) (r : Nat) (x : W32) : (setS g r x).q = g.q := rfl
@[simp] theorem setS_i (g : Group) (r : Nat) (x : W32) : (setS g r x).i = g.i := rfl
@[simp] theorem setS_lanes (g : Group) (r : Nat) (x : W32) : (setS g r x).lanes = g.lanes := rfl
@[simp] theorem setS_ents (g : Group) (r : Nat) (x : W32) : (setS g r x).ents = g.ents := rfl
@[simp] theorem setS_frames (g : Group) (r : Nat) (x : W32) : (setS g r x).frames = g.frames := rfl
@[simp] theorem setS_rmode (g : Group) (r : Nat) (x : W32) : (setS g r x).rmode = g.rmode := rfl
@[simp] theorem setS_tbase (g : Group) (r : Nat) (x : W32) : (setS g r x).tbase = g.tbase := rfl
@[simp] theorem setS_deadline (g : Group) (r : Nat) (x : W32) : (setS g r x).deadline = g.deadline := rfl
@[simp] theorem setS_budget (g : Group) (r : Nat) (x : W32) : (setS g r x).budget = g.budget := rfl
@[simp] theorem setS_budgetPend (g : Group) (r : Nat) (x : W32) : (setS g r x).budgetPend = g.budgetPend := rfl
@[simp] theorem setS_lt (g : Group) (r : Nat) (x : W32) : (setS g r x).lt = g.lt := rfl
@[simp] theorem setS_eqp (g : Group) (r : Nat) (x : W32) : (setS g r x).eqp = g.eqp := rfl
@[simp] theorem setS_rgn (g : Group) (r : Nat) (x : W32) : (setS g r x).rgn = g.rgn := rfl
@[simp] theorem setS_stalls (g : Group) (r : Nat) (x : W32) : (setS g r x).stalls = g.stalls := rfl
@[simp] theorem setS_retired (g : Group) (r : Nat) (x : W32) : (setS g r x).retired = g.retired := rfl
@[simp] theorem setS_migReq (g : Group) (r : Nat) (x : W32) : (setS g r x).migReq = g.migReq := rfl
@[simp] theorem setS_migCore (g : Group) (r : Nat) (x : W32) : (setS g r x).migCore = g.migCore := rfl
@[simp] theorem setS_migTiles (g : Group) (r : Nat) (x : W32) : (setS g r x).migTiles = g.migTiles := rfl
@[simp] theorem setS_migWord (g : Group) (r : Nat) (x : W32) : (setS g r x).migWord = g.migWord := rfl
@[simp] theorem setS_arriving (g : Group) (r : Nat) (x : W32) : (setS g r x).arriving = g.arriving := rfl
@[simp] theorem setS_released (g : Group) (r : Nat) (x : W32) : (setS g r x).released = g.released := rfl
@[simp] theorem setS_pend (g : Group) (r : Nat) (x : W32) : (setS g r x).pend = g.pend := rfl
@[simp] theorem setS_flights (g : Group) (r : Nat) (x : W32) : (setS g r x).flights = g.flights := rfl
@[simp] theorem setS_spark (g : Group) (r : Nat) (x : W32) : (setS g r x).spark = g.spark := rfl
@[simp] theorem setS_rlt (g : Group) (r : Nat) (x : W32) : (setS g r x).rlt = g.rlt := rfl
@[simp] theorem setS_elt (g : Group) (r : Nat) (x : W32) : (setS g r x).elt = g.elt := rfl
@[simp] theorem setS_remFail (g : Group) (r : Nat) (x : W32) : (setS g r x).remFail = g.remFail := rfl
@[simp] theorem setS_slice (g : Group) (r : Nat) (x : W32) : (setS g r x).slice = g.slice := rfl
@[simp] theorem setS_last (g : Group) (r : Nat) (x : W32) : (setS g r x).last = g.last := rfl
@[simp] theorem setS_yielded (g : Group) (r : Nat) (x : W32) : (setS g r x).yielded = g.yielded := rfl

@[simp] theorem setA_gid (g : Group) (r : Nat) (x : AReg) : (setA g r x).gid = g.gid := rfl
@[simp] theorem setA_core (g : Group) (r : Nat) (x : AReg) : (setA g r x).core = g.core := rfl
@[simp] theorem setA_res (g : Group) (r : Nat) (x : AReg) : (setA g r x).res = g.res := rfl
@[simp] theorem setA_stopped (g : Group) (r : Nat) (x : AReg) : (setA g r x).stopped = g.stopped := rfl
@[simp] theorem setA_stopReq (g : Group) (r : Nat) (x : AReg) : (setA g r x).stopReq = g.stopReq := rfl
@[simp] theorem setA_stopLanes (g : Group) (r : Nat) (x : AReg) : (setA g r x).stopLanes = g.stopLanes := rfl
@[simp] theorem setA_kept (g : Group) (r : Nat) (x : AReg) : (setA g r x).kept = g.kept := rfl
@[simp] theorem setA_halt (g : Group) (r : Nat) (x : AReg) : (setA g r x).halt = g.halt := rfl
@[simp] theorem setA_haltCyc (g : Group) (r : Nat) (x : AReg) : (setA g r x).haltCyc = g.haltCyc := rfl
@[simp] theorem setA_pasid (g : Group) (r : Nat) (x : AReg) : (setA g r x).pasid = g.pasid := rfl
@[simp] theorem setA_sys (g : Group) (r : Nat) (x : AReg) : (setA g r x).sys = g.sys := rfl
@[simp] theorem setA_front (g : Group) (r : Nat) (x : AReg) : (setA g r x).front = g.front := rfl
@[simp] theorem setA_team (g : Group) (r : Nat) (x : AReg) : (setA g r x).team = g.team := rfl
@[simp] theorem setA_srTeam (g : Group) (r : Nat) (x : AReg) : (setA g r x).srTeam = g.srTeam := rfl
@[simp] theorem setA_srGroup (g : Group) (r : Nat) (x : AReg) : (setA g r x).srGroup = g.srGroup := rfl
@[simp] theorem setA_w (g : Group) (r : Nat) (x : AReg) : (setA g r x).w = g.w := rfl
@[simp] theorem setA_ker (g : Group) (r : Nat) (x : AReg) : (setA g r x).ker = g.ker := rfl
@[simp] theorem setA_v (g : Group) (r : Nat) (x : AReg) : (setA g r x).v = g.v := rfl
@[simp] theorem setA_p (g : Group) (r : Nat) (x : AReg) : (setA g r x).p = g.p := rfl
@[simp] theorem setA_s (g : Group) (r : Nat) (x : AReg) : (setA g r x).s = g.s := rfl
@[simp] theorem setA_q (g : Group) (r : Nat) (x : AReg) : (setA g r x).q = g.q := rfl
@[simp] theorem setA_i (g : Group) (r : Nat) (x : AReg) : (setA g r x).i = g.i := rfl
@[simp] theorem setA_lanes (g : Group) (r : Nat) (x : AReg) : (setA g r x).lanes = g.lanes := rfl
@[simp] theorem setA_ents (g : Group) (r : Nat) (x : AReg) : (setA g r x).ents = g.ents := rfl
@[simp] theorem setA_frames (g : Group) (r : Nat) (x : AReg) : (setA g r x).frames = g.frames := rfl
@[simp] theorem setA_rmode (g : Group) (r : Nat) (x : AReg) : (setA g r x).rmode = g.rmode := rfl
@[simp] theorem setA_tbase (g : Group) (r : Nat) (x : AReg) : (setA g r x).tbase = g.tbase := rfl
@[simp] theorem setA_deadline (g : Group) (r : Nat) (x : AReg) : (setA g r x).deadline = g.deadline := rfl
@[simp] theorem setA_budget (g : Group) (r : Nat) (x : AReg) : (setA g r x).budget = g.budget := rfl
@[simp] theorem setA_budgetPend (g : Group) (r : Nat) (x : AReg) : (setA g r x).budgetPend = g.budgetPend := rfl
@[simp] theorem setA_lt (g : Group) (r : Nat) (x : AReg) : (setA g r x).lt = g.lt := rfl
@[simp] theorem setA_eqp (g : Group) (r : Nat) (x : AReg) : (setA g r x).eqp = g.eqp := rfl
@[simp] theorem setA_rgn (g : Group) (r : Nat) (x : AReg) : (setA g r x).rgn = g.rgn := rfl
@[simp] theorem setA_stalls (g : Group) (r : Nat) (x : AReg) : (setA g r x).stalls = g.stalls := rfl
@[simp] theorem setA_retired (g : Group) (r : Nat) (x : AReg) : (setA g r x).retired = g.retired := rfl
@[simp] theorem setA_migReq (g : Group) (r : Nat) (x : AReg) : (setA g r x).migReq = g.migReq := rfl
@[simp] theorem setA_migCore (g : Group) (r : Nat) (x : AReg) : (setA g r x).migCore = g.migCore := rfl
@[simp] theorem setA_migTiles (g : Group) (r : Nat) (x : AReg) : (setA g r x).migTiles = g.migTiles := rfl
@[simp] theorem setA_migWord (g : Group) (r : Nat) (x : AReg) : (setA g r x).migWord = g.migWord := rfl
@[simp] theorem setA_arriving (g : Group) (r : Nat) (x : AReg) : (setA g r x).arriving = g.arriving := rfl
@[simp] theorem setA_released (g : Group) (r : Nat) (x : AReg) : (setA g r x).released = g.released := rfl
@[simp] theorem setA_pend (g : Group) (r : Nat) (x : AReg) : (setA g r x).pend = g.pend := rfl
@[simp] theorem setA_flights (g : Group) (r : Nat) (x : AReg) : (setA g r x).flights = g.flights := rfl
@[simp] theorem setA_spark (g : Group) (r : Nat) (x : AReg) : (setA g r x).spark = g.spark := rfl
@[simp] theorem setA_rlt (g : Group) (r : Nat) (x : AReg) : (setA g r x).rlt = g.rlt := rfl
@[simp] theorem setA_elt (g : Group) (r : Nat) (x : AReg) : (setA g r x).elt = g.elt := rfl
@[simp] theorem setA_remFail (g : Group) (r : Nat) (x : AReg) : (setA g r x).remFail = g.remFail := rfl
@[simp] theorem setA_slice (g : Group) (r : Nat) (x : AReg) : (setA g r x).slice = g.slice := rfl
@[simp] theorem setA_last (g : Group) (r : Nat) (x : AReg) : (setA g r x).last = g.last := rfl
@[simp] theorem setA_yielded (g : Group) (r : Nat) (x : AReg) : (setA g r x).yielded = g.yielded := rfl

@[simp] theorem setI_gid (g : Group) (r : Nat) (x : IReg) : (setI g r x).gid = g.gid := rfl
@[simp] theorem setI_core (g : Group) (r : Nat) (x : IReg) : (setI g r x).core = g.core := rfl
@[simp] theorem setI_res (g : Group) (r : Nat) (x : IReg) : (setI g r x).res = g.res := rfl
@[simp] theorem setI_stopped (g : Group) (r : Nat) (x : IReg) : (setI g r x).stopped = g.stopped := rfl
@[simp] theorem setI_stopReq (g : Group) (r : Nat) (x : IReg) : (setI g r x).stopReq = g.stopReq := rfl
@[simp] theorem setI_stopLanes (g : Group) (r : Nat) (x : IReg) : (setI g r x).stopLanes = g.stopLanes := rfl
@[simp] theorem setI_kept (g : Group) (r : Nat) (x : IReg) : (setI g r x).kept = g.kept := rfl
@[simp] theorem setI_halt (g : Group) (r : Nat) (x : IReg) : (setI g r x).halt = g.halt := rfl
@[simp] theorem setI_haltCyc (g : Group) (r : Nat) (x : IReg) : (setI g r x).haltCyc = g.haltCyc := rfl
@[simp] theorem setI_pasid (g : Group) (r : Nat) (x : IReg) : (setI g r x).pasid = g.pasid := rfl
@[simp] theorem setI_sys (g : Group) (r : Nat) (x : IReg) : (setI g r x).sys = g.sys := rfl
@[simp] theorem setI_front (g : Group) (r : Nat) (x : IReg) : (setI g r x).front = g.front := rfl
@[simp] theorem setI_team (g : Group) (r : Nat) (x : IReg) : (setI g r x).team = g.team := rfl
@[simp] theorem setI_srTeam (g : Group) (r : Nat) (x : IReg) : (setI g r x).srTeam = g.srTeam := rfl
@[simp] theorem setI_srGroup (g : Group) (r : Nat) (x : IReg) : (setI g r x).srGroup = g.srGroup := rfl
@[simp] theorem setI_w (g : Group) (r : Nat) (x : IReg) : (setI g r x).w = g.w := rfl
@[simp] theorem setI_ker (g : Group) (r : Nat) (x : IReg) : (setI g r x).ker = g.ker := rfl
@[simp] theorem setI_v (g : Group) (r : Nat) (x : IReg) : (setI g r x).v = g.v := rfl
@[simp] theorem setI_p (g : Group) (r : Nat) (x : IReg) : (setI g r x).p = g.p := rfl
@[simp] theorem setI_s (g : Group) (r : Nat) (x : IReg) : (setI g r x).s = g.s := rfl
@[simp] theorem setI_a (g : Group) (r : Nat) (x : IReg) : (setI g r x).a = g.a := rfl
@[simp] theorem setI_q (g : Group) (r : Nat) (x : IReg) : (setI g r x).q = g.q := rfl
@[simp] theorem setI_lanes (g : Group) (r : Nat) (x : IReg) : (setI g r x).lanes = g.lanes := rfl
@[simp] theorem setI_ents (g : Group) (r : Nat) (x : IReg) : (setI g r x).ents = g.ents := rfl
@[simp] theorem setI_frames (g : Group) (r : Nat) (x : IReg) : (setI g r x).frames = g.frames := rfl
@[simp] theorem setI_rmode (g : Group) (r : Nat) (x : IReg) : (setI g r x).rmode = g.rmode := rfl
@[simp] theorem setI_tbase (g : Group) (r : Nat) (x : IReg) : (setI g r x).tbase = g.tbase := rfl
@[simp] theorem setI_deadline (g : Group) (r : Nat) (x : IReg) : (setI g r x).deadline = g.deadline := rfl
@[simp] theorem setI_budget (g : Group) (r : Nat) (x : IReg) : (setI g r x).budget = g.budget := rfl
@[simp] theorem setI_budgetPend (g : Group) (r : Nat) (x : IReg) : (setI g r x).budgetPend = g.budgetPend := rfl
@[simp] theorem setI_lt (g : Group) (r : Nat) (x : IReg) : (setI g r x).lt = g.lt := rfl
@[simp] theorem setI_eqp (g : Group) (r : Nat) (x : IReg) : (setI g r x).eqp = g.eqp := rfl
@[simp] theorem setI_rgn (g : Group) (r : Nat) (x : IReg) : (setI g r x).rgn = g.rgn := rfl
@[simp] theorem setI_stalls (g : Group) (r : Nat) (x : IReg) : (setI g r x).stalls = g.stalls := rfl
@[simp] theorem setI_retired (g : Group) (r : Nat) (x : IReg) : (setI g r x).retired = g.retired := rfl
@[simp] theorem setI_migReq (g : Group) (r : Nat) (x : IReg) : (setI g r x).migReq = g.migReq := rfl
@[simp] theorem setI_migCore (g : Group) (r : Nat) (x : IReg) : (setI g r x).migCore = g.migCore := rfl
@[simp] theorem setI_migTiles (g : Group) (r : Nat) (x : IReg) : (setI g r x).migTiles = g.migTiles := rfl
@[simp] theorem setI_migWord (g : Group) (r : Nat) (x : IReg) : (setI g r x).migWord = g.migWord := rfl
@[simp] theorem setI_arriving (g : Group) (r : Nat) (x : IReg) : (setI g r x).arriving = g.arriving := rfl
@[simp] theorem setI_released (g : Group) (r : Nat) (x : IReg) : (setI g r x).released = g.released := rfl
@[simp] theorem setI_pend (g : Group) (r : Nat) (x : IReg) : (setI g r x).pend = g.pend := rfl
@[simp] theorem setI_flights (g : Group) (r : Nat) (x : IReg) : (setI g r x).flights = g.flights := rfl
@[simp] theorem setI_spark (g : Group) (r : Nat) (x : IReg) : (setI g r x).spark = g.spark := rfl
@[simp] theorem setI_rlt (g : Group) (r : Nat) (x : IReg) : (setI g r x).rlt = g.rlt := rfl
@[simp] theorem setI_elt (g : Group) (r : Nat) (x : IReg) : (setI g r x).elt = g.elt := rfl
@[simp] theorem setI_remFail (g : Group) (r : Nat) (x : IReg) : (setI g r x).remFail = g.remFail := rfl
@[simp] theorem setI_slice (g : Group) (r : Nat) (x : IReg) : (setI g r x).slice = g.slice := rfl
@[simp] theorem setI_last (g : Group) (r : Nat) (x : IReg) : (setI g r x).last = g.last := rfl
@[simp] theorem setI_yielded (g : Group) (r : Nat) (x : IReg) : (setI g r x).yielded = g.yielded := rfl

@[simp] theorem updLanes_gid (g : Group) (m : W64) (f : Nat → Lane → Lane) : (updLanes g m f).gid = g.gid := rfl
@[simp] theorem updLanes_core (g : Group) (m : W64) (f : Nat → Lane → Lane) : (updLanes g m f).core = g.core := rfl
@[simp] theorem updLanes_res (g : Group) (m : W64) (f : Nat → Lane → Lane) : (updLanes g m f).res = g.res := rfl
@[simp] theorem updLanes_stopped (g : Group) (m : W64) (f : Nat → Lane → Lane) : (updLanes g m f).stopped = g.stopped := rfl
@[simp] theorem updLanes_stopReq (g : Group) (m : W64) (f : Nat → Lane → Lane) : (updLanes g m f).stopReq = g.stopReq := rfl
@[simp] theorem updLanes_stopLanes (g : Group) (m : W64) (f : Nat → Lane → Lane) : (updLanes g m f).stopLanes = g.stopLanes := rfl
@[simp] theorem updLanes_kept (g : Group) (m : W64) (f : Nat → Lane → Lane) : (updLanes g m f).kept = g.kept := rfl
@[simp] theorem updLanes_halt (g : Group) (m : W64) (f : Nat → Lane → Lane) : (updLanes g m f).halt = g.halt := rfl
@[simp] theorem updLanes_haltCyc (g : Group) (m : W64) (f : Nat → Lane → Lane) : (updLanes g m f).haltCyc = g.haltCyc := rfl
@[simp] theorem updLanes_pasid (g : Group) (m : W64) (f : Nat → Lane → Lane) : (updLanes g m f).pasid = g.pasid := rfl
@[simp] theorem updLanes_sys (g : Group) (m : W64) (f : Nat → Lane → Lane) : (updLanes g m f).sys = g.sys := rfl
@[simp] theorem updLanes_front (g : Group) (m : W64) (f : Nat → Lane → Lane) : (updLanes g m f).front = g.front := rfl
@[simp] theorem updLanes_team (g : Group) (m : W64) (f : Nat → Lane → Lane) : (updLanes g m f).team = g.team := rfl
@[simp] theorem updLanes_srTeam (g : Group) (m : W64) (f : Nat → Lane → Lane) : (updLanes g m f).srTeam = g.srTeam := rfl
@[simp] theorem updLanes_srGroup (g : Group) (m : W64) (f : Nat → Lane → Lane) : (updLanes g m f).srGroup = g.srGroup := rfl
@[simp] theorem updLanes_w (g : Group) (m : W64) (f : Nat → Lane → Lane) : (updLanes g m f).w = g.w := rfl
@[simp] theorem updLanes_ker (g : Group) (m : W64) (f : Nat → Lane → Lane) : (updLanes g m f).ker = g.ker := rfl
@[simp] theorem updLanes_v (g : Group) (m : W64) (f : Nat → Lane → Lane) : (updLanes g m f).v = g.v := rfl
@[simp] theorem updLanes_p (g : Group) (m : W64) (f : Nat → Lane → Lane) : (updLanes g m f).p = g.p := rfl
@[simp] theorem updLanes_s (g : Group) (m : W64) (f : Nat → Lane → Lane) : (updLanes g m f).s = g.s := rfl
@[simp] theorem updLanes_a (g : Group) (m : W64) (f : Nat → Lane → Lane) : (updLanes g m f).a = g.a := rfl
@[simp] theorem updLanes_q (g : Group) (m : W64) (f : Nat → Lane → Lane) : (updLanes g m f).q = g.q := rfl
@[simp] theorem updLanes_i (g : Group) (m : W64) (f : Nat → Lane → Lane) : (updLanes g m f).i = g.i := rfl
@[simp] theorem updLanes_ents (g : Group) (m : W64) (f : Nat → Lane → Lane) : (updLanes g m f).ents = g.ents := rfl
@[simp] theorem updLanes_frames (g : Group) (m : W64) (f : Nat → Lane → Lane) : (updLanes g m f).frames = g.frames := rfl
@[simp] theorem updLanes_rmode (g : Group) (m : W64) (f : Nat → Lane → Lane) : (updLanes g m f).rmode = g.rmode := rfl
@[simp] theorem updLanes_tbase (g : Group) (m : W64) (f : Nat → Lane → Lane) : (updLanes g m f).tbase = g.tbase := rfl
@[simp] theorem updLanes_deadline (g : Group) (m : W64) (f : Nat → Lane → Lane) : (updLanes g m f).deadline = g.deadline := rfl
@[simp] theorem updLanes_budget (g : Group) (m : W64) (f : Nat → Lane → Lane) : (updLanes g m f).budget = g.budget := rfl
@[simp] theorem updLanes_budgetPend (g : Group) (m : W64) (f : Nat → Lane → Lane) : (updLanes g m f).budgetPend = g.budgetPend := rfl
@[simp] theorem updLanes_lt (g : Group) (m : W64) (f : Nat → Lane → Lane) : (updLanes g m f).lt = g.lt := rfl
@[simp] theorem updLanes_eqp (g : Group) (m : W64) (f : Nat → Lane → Lane) : (updLanes g m f).eqp = g.eqp := rfl
@[simp] theorem updLanes_rgn (g : Group) (m : W64) (f : Nat → Lane → Lane) : (updLanes g m f).rgn = g.rgn := rfl
@[simp] theorem updLanes_stalls (g : Group) (m : W64) (f : Nat → Lane → Lane) : (updLanes g m f).stalls = g.stalls := rfl
@[simp] theorem updLanes_retired (g : Group) (m : W64) (f : Nat → Lane → Lane) : (updLanes g m f).retired = g.retired := rfl
@[simp] theorem updLanes_migReq (g : Group) (m : W64) (f : Nat → Lane → Lane) : (updLanes g m f).migReq = g.migReq := rfl
@[simp] theorem updLanes_migCore (g : Group) (m : W64) (f : Nat → Lane → Lane) : (updLanes g m f).migCore = g.migCore := rfl
@[simp] theorem updLanes_migTiles (g : Group) (m : W64) (f : Nat → Lane → Lane) : (updLanes g m f).migTiles = g.migTiles := rfl
@[simp] theorem updLanes_migWord (g : Group) (m : W64) (f : Nat → Lane → Lane) : (updLanes g m f).migWord = g.migWord := rfl
@[simp] theorem updLanes_arriving (g : Group) (m : W64) (f : Nat → Lane → Lane) : (updLanes g m f).arriving = g.arriving := rfl
@[simp] theorem updLanes_released (g : Group) (m : W64) (f : Nat → Lane → Lane) : (updLanes g m f).released = g.released := rfl
@[simp] theorem updLanes_pend (g : Group) (m : W64) (f : Nat → Lane → Lane) : (updLanes g m f).pend = g.pend := rfl
@[simp] theorem updLanes_flights (g : Group) (m : W64) (f : Nat → Lane → Lane) : (updLanes g m f).flights = g.flights := rfl
@[simp] theorem updLanes_spark (g : Group) (m : W64) (f : Nat → Lane → Lane) : (updLanes g m f).spark = g.spark := rfl
@[simp] theorem updLanes_rlt (g : Group) (m : W64) (f : Nat → Lane → Lane) : (updLanes g m f).rlt = g.rlt := rfl
@[simp] theorem updLanes_elt (g : Group) (m : W64) (f : Nat → Lane → Lane) : (updLanes g m f).elt = g.elt := rfl
@[simp] theorem updLanes_remFail (g : Group) (m : W64) (f : Nat → Lane → Lane) : (updLanes g m f).remFail = g.remFail := rfl
@[simp] theorem updLanes_slice (g : Group) (m : W64) (f : Nat → Lane → Lane) : (updLanes g m f).slice = g.slice := rfl
@[simp] theorem updLanes_last (g : Group) (m : W64) (f : Nat → Lane → Lane) : (updLanes g m f).last = g.last := rfl
@[simp] theorem updLanes_yielded (g : Group) (m : W64) (f : Nat → Lane → Lane) : (updLanes g m f).yielded = g.yielded := rfl

@[simp] theorem setEnt_gid (g : Group) (e : Nat) (x : Entry) : (setEnt g e x).gid = g.gid := rfl
@[simp] theorem setEnt_core (g : Group) (e : Nat) (x : Entry) : (setEnt g e x).core = g.core := rfl
@[simp] theorem setEnt_res (g : Group) (e : Nat) (x : Entry) : (setEnt g e x).res = g.res := rfl
@[simp] theorem setEnt_stopped (g : Group) (e : Nat) (x : Entry) : (setEnt g e x).stopped = g.stopped := rfl
@[simp] theorem setEnt_stopReq (g : Group) (e : Nat) (x : Entry) : (setEnt g e x).stopReq = g.stopReq := rfl
@[simp] theorem setEnt_stopLanes (g : Group) (e : Nat) (x : Entry) : (setEnt g e x).stopLanes = g.stopLanes := rfl
@[simp] theorem setEnt_kept (g : Group) (e : Nat) (x : Entry) : (setEnt g e x).kept = g.kept := rfl
@[simp] theorem setEnt_halt (g : Group) (e : Nat) (x : Entry) : (setEnt g e x).halt = g.halt := rfl
@[simp] theorem setEnt_haltCyc (g : Group) (e : Nat) (x : Entry) : (setEnt g e x).haltCyc = g.haltCyc := rfl
@[simp] theorem setEnt_pasid (g : Group) (e : Nat) (x : Entry) : (setEnt g e x).pasid = g.pasid := rfl
@[simp] theorem setEnt_sys (g : Group) (e : Nat) (x : Entry) : (setEnt g e x).sys = g.sys := rfl
@[simp] theorem setEnt_front (g : Group) (e : Nat) (x : Entry) : (setEnt g e x).front = g.front := rfl
@[simp] theorem setEnt_team (g : Group) (e : Nat) (x : Entry) : (setEnt g e x).team = g.team := rfl
@[simp] theorem setEnt_srTeam (g : Group) (e : Nat) (x : Entry) : (setEnt g e x).srTeam = g.srTeam := rfl
@[simp] theorem setEnt_srGroup (g : Group) (e : Nat) (x : Entry) : (setEnt g e x).srGroup = g.srGroup := rfl
@[simp] theorem setEnt_w (g : Group) (e : Nat) (x : Entry) : (setEnt g e x).w = g.w := rfl
@[simp] theorem setEnt_ker (g : Group) (e : Nat) (x : Entry) : (setEnt g e x).ker = g.ker := rfl
@[simp] theorem setEnt_v (g : Group) (e : Nat) (x : Entry) : (setEnt g e x).v = g.v := rfl
@[simp] theorem setEnt_p (g : Group) (e : Nat) (x : Entry) : (setEnt g e x).p = g.p := rfl
@[simp] theorem setEnt_s (g : Group) (e : Nat) (x : Entry) : (setEnt g e x).s = g.s := rfl
@[simp] theorem setEnt_a (g : Group) (e : Nat) (x : Entry) : (setEnt g e x).a = g.a := rfl
@[simp] theorem setEnt_q (g : Group) (e : Nat) (x : Entry) : (setEnt g e x).q = g.q := rfl
@[simp] theorem setEnt_i (g : Group) (e : Nat) (x : Entry) : (setEnt g e x).i = g.i := rfl
@[simp] theorem setEnt_lanes (g : Group) (e : Nat) (x : Entry) : (setEnt g e x).lanes = g.lanes := rfl
@[simp] theorem setEnt_frames (g : Group) (e : Nat) (x : Entry) : (setEnt g e x).frames = g.frames := rfl
@[simp] theorem setEnt_rmode (g : Group) (e : Nat) (x : Entry) : (setEnt g e x).rmode = g.rmode := rfl
@[simp] theorem setEnt_tbase (g : Group) (e : Nat) (x : Entry) : (setEnt g e x).tbase = g.tbase := rfl
@[simp] theorem setEnt_deadline (g : Group) (e : Nat) (x : Entry) : (setEnt g e x).deadline = g.deadline := rfl
@[simp] theorem setEnt_budget (g : Group) (e : Nat) (x : Entry) : (setEnt g e x).budget = g.budget := rfl
@[simp] theorem setEnt_budgetPend (g : Group) (e : Nat) (x : Entry) : (setEnt g e x).budgetPend = g.budgetPend := rfl
@[simp] theorem setEnt_lt (g : Group) (e : Nat) (x : Entry) : (setEnt g e x).lt = g.lt := rfl
@[simp] theorem setEnt_eqp (g : Group) (e : Nat) (x : Entry) : (setEnt g e x).eqp = g.eqp := rfl
@[simp] theorem setEnt_rgn (g : Group) (e : Nat) (x : Entry) : (setEnt g e x).rgn = g.rgn := rfl
@[simp] theorem setEnt_stalls (g : Group) (e : Nat) (x : Entry) : (setEnt g e x).stalls = g.stalls := rfl
@[simp] theorem setEnt_retired (g : Group) (e : Nat) (x : Entry) : (setEnt g e x).retired = g.retired := rfl
@[simp] theorem setEnt_migReq (g : Group) (e : Nat) (x : Entry) : (setEnt g e x).migReq = g.migReq := rfl
@[simp] theorem setEnt_migCore (g : Group) (e : Nat) (x : Entry) : (setEnt g e x).migCore = g.migCore := rfl
@[simp] theorem setEnt_migTiles (g : Group) (e : Nat) (x : Entry) : (setEnt g e x).migTiles = g.migTiles := rfl
@[simp] theorem setEnt_migWord (g : Group) (e : Nat) (x : Entry) : (setEnt g e x).migWord = g.migWord := rfl
@[simp] theorem setEnt_arriving (g : Group) (e : Nat) (x : Entry) : (setEnt g e x).arriving = g.arriving := rfl
@[simp] theorem setEnt_released (g : Group) (e : Nat) (x : Entry) : (setEnt g e x).released = g.released := rfl
@[simp] theorem setEnt_pend (g : Group) (e : Nat) (x : Entry) : (setEnt g e x).pend = g.pend := rfl
@[simp] theorem setEnt_flights (g : Group) (e : Nat) (x : Entry) : (setEnt g e x).flights = g.flights := rfl
@[simp] theorem setEnt_spark (g : Group) (e : Nat) (x : Entry) : (setEnt g e x).spark = g.spark := rfl
@[simp] theorem setEnt_rlt (g : Group) (e : Nat) (x : Entry) : (setEnt g e x).rlt = g.rlt := rfl
@[simp] theorem setEnt_elt (g : Group) (e : Nat) (x : Entry) : (setEnt g e x).elt = g.elt := rfl
@[simp] theorem setEnt_remFail (g : Group) (e : Nat) (x : Entry) : (setEnt g e x).remFail = g.remFail := rfl
@[simp] theorem setEnt_slice (g : Group) (e : Nat) (x : Entry) : (setEnt g e x).slice = g.slice := rfl
@[simp] theorem setEnt_last (g : Group) (e : Nat) (x : Entry) : (setEnt g e x).last = g.last := rfl
@[simp] theorem setEnt_yielded (g : Group) (e : Nat) (x : Entry) : (setEnt g e x).yielded = g.yielded := rfl

@[simp] theorem setPl_gid (g : Group) (r l : Nat) (b : Bool) : (setPl g r l b).gid = g.gid := by
  simp only [setPl]; split <;> rfl
@[simp] theorem setPl_core (g : Group) (r l : Nat) (b : Bool) : (setPl g r l b).core = g.core := by
  simp only [setPl]; split <;> rfl
@[simp] theorem setPl_res (g : Group) (r l : Nat) (b : Bool) : (setPl g r l b).res = g.res := by
  simp only [setPl]; split <;> rfl
@[simp] theorem setPl_stopped (g : Group) (r l : Nat) (b : Bool) : (setPl g r l b).stopped = g.stopped := by
  simp only [setPl]; split <;> rfl
@[simp] theorem setPl_stopReq (g : Group) (r l : Nat) (b : Bool) : (setPl g r l b).stopReq = g.stopReq := by
  simp only [setPl]; split <;> rfl
@[simp] theorem setPl_stopLanes (g : Group) (r l : Nat) (b : Bool) : (setPl g r l b).stopLanes = g.stopLanes := by
  simp only [setPl]; split <;> rfl
@[simp] theorem setPl_kept (g : Group) (r l : Nat) (b : Bool) : (setPl g r l b).kept = g.kept := by
  simp only [setPl]; split <;> rfl
@[simp] theorem setPl_halt (g : Group) (r l : Nat) (b : Bool) : (setPl g r l b).halt = g.halt := by
  simp only [setPl]; split <;> rfl
@[simp] theorem setPl_haltCyc (g : Group) (r l : Nat) (b : Bool) : (setPl g r l b).haltCyc = g.haltCyc := by
  simp only [setPl]; split <;> rfl
@[simp] theorem setPl_pasid (g : Group) (r l : Nat) (b : Bool) : (setPl g r l b).pasid = g.pasid := by
  simp only [setPl]; split <;> rfl
@[simp] theorem setPl_sys (g : Group) (r l : Nat) (b : Bool) : (setPl g r l b).sys = g.sys := by
  simp only [setPl]; split <;> rfl
@[simp] theorem setPl_front (g : Group) (r l : Nat) (b : Bool) : (setPl g r l b).front = g.front := by
  simp only [setPl]; split <;> rfl
@[simp] theorem setPl_team (g : Group) (r l : Nat) (b : Bool) : (setPl g r l b).team = g.team := by
  simp only [setPl]; split <;> rfl
@[simp] theorem setPl_srTeam (g : Group) (r l : Nat) (b : Bool) : (setPl g r l b).srTeam = g.srTeam := by
  simp only [setPl]; split <;> rfl
@[simp] theorem setPl_srGroup (g : Group) (r l : Nat) (b : Bool) : (setPl g r l b).srGroup = g.srGroup := by
  simp only [setPl]; split <;> rfl
@[simp] theorem setPl_w (g : Group) (r l : Nat) (b : Bool) : (setPl g r l b).w = g.w := by
  simp only [setPl]; split <;> rfl
@[simp] theorem setPl_ker (g : Group) (r l : Nat) (b : Bool) : (setPl g r l b).ker = g.ker := by
  simp only [setPl]; split <;> rfl
@[simp] theorem setPl_v (g : Group) (r l : Nat) (b : Bool) : (setPl g r l b).v = g.v := by
  simp only [setPl]; split <;> rfl
@[simp] theorem setPl_s (g : Group) (r l : Nat) (b : Bool) : (setPl g r l b).s = g.s := by
  simp only [setPl]; split <;> rfl
@[simp] theorem setPl_a (g : Group) (r l : Nat) (b : Bool) : (setPl g r l b).a = g.a := by
  simp only [setPl]; split <;> rfl
@[simp] theorem setPl_q (g : Group) (r l : Nat) (b : Bool) : (setPl g r l b).q = g.q := by
  simp only [setPl]; split <;> rfl
@[simp] theorem setPl_i (g : Group) (r l : Nat) (b : Bool) : (setPl g r l b).i = g.i := by
  simp only [setPl]; split <;> rfl
@[simp] theorem setPl_lanes (g : Group) (r l : Nat) (b : Bool) : (setPl g r l b).lanes = g.lanes := by
  simp only [setPl]; split <;> rfl
@[simp] theorem setPl_ents (g : Group) (r l : Nat) (b : Bool) : (setPl g r l b).ents = g.ents := by
  simp only [setPl]; split <;> rfl
@[simp] theorem setPl_frames (g : Group) (r l : Nat) (b : Bool) : (setPl g r l b).frames = g.frames := by
  simp only [setPl]; split <;> rfl
@[simp] theorem setPl_rmode (g : Group) (r l : Nat) (b : Bool) : (setPl g r l b).rmode = g.rmode := by
  simp only [setPl]; split <;> rfl
@[simp] theorem setPl_tbase (g : Group) (r l : Nat) (b : Bool) : (setPl g r l b).tbase = g.tbase := by
  simp only [setPl]; split <;> rfl
@[simp] theorem setPl_deadline (g : Group) (r l : Nat) (b : Bool) : (setPl g r l b).deadline = g.deadline := by
  simp only [setPl]; split <;> rfl
@[simp] theorem setPl_budget (g : Group) (r l : Nat) (b : Bool) : (setPl g r l b).budget = g.budget := by
  simp only [setPl]; split <;> rfl
@[simp] theorem setPl_budgetPend (g : Group) (r l : Nat) (b : Bool) : (setPl g r l b).budgetPend = g.budgetPend := by
  simp only [setPl]; split <;> rfl
@[simp] theorem setPl_lt (g : Group) (r l : Nat) (b : Bool) : (setPl g r l b).lt = g.lt := by
  simp only [setPl]; split <;> rfl
@[simp] theorem setPl_eqp (g : Group) (r l : Nat) (b : Bool) : (setPl g r l b).eqp = g.eqp := by
  simp only [setPl]; split <;> rfl
@[simp] theorem setPl_rgn (g : Group) (r l : Nat) (b : Bool) : (setPl g r l b).rgn = g.rgn := by
  simp only [setPl]; split <;> rfl
@[simp] theorem setPl_stalls (g : Group) (r l : Nat) (b : Bool) : (setPl g r l b).stalls = g.stalls := by
  simp only [setPl]; split <;> rfl
@[simp] theorem setPl_retired (g : Group) (r l : Nat) (b : Bool) : (setPl g r l b).retired = g.retired := by
  simp only [setPl]; split <;> rfl
@[simp] theorem setPl_migReq (g : Group) (r l : Nat) (b : Bool) : (setPl g r l b).migReq = g.migReq := by
  simp only [setPl]; split <;> rfl
@[simp] theorem setPl_migCore (g : Group) (r l : Nat) (b : Bool) : (setPl g r l b).migCore = g.migCore := by
  simp only [setPl]; split <;> rfl
@[simp] theorem setPl_migTiles (g : Group) (r l : Nat) (b : Bool) : (setPl g r l b).migTiles = g.migTiles := by
  simp only [setPl]; split <;> rfl
@[simp] theorem setPl_migWord (g : Group) (r l : Nat) (b : Bool) : (setPl g r l b).migWord = g.migWord := by
  simp only [setPl]; split <;> rfl
@[simp] theorem setPl_arriving (g : Group) (r l : Nat) (b : Bool) : (setPl g r l b).arriving = g.arriving := by
  simp only [setPl]; split <;> rfl
@[simp] theorem setPl_released (g : Group) (r l : Nat) (b : Bool) : (setPl g r l b).released = g.released := by
  simp only [setPl]; split <;> rfl
@[simp] theorem setPl_pend (g : Group) (r l : Nat) (b : Bool) : (setPl g r l b).pend = g.pend := by
  simp only [setPl]; split <;> rfl
@[simp] theorem setPl_flights (g : Group) (r l : Nat) (b : Bool) : (setPl g r l b).flights = g.flights := by
  simp only [setPl]; split <;> rfl
@[simp] theorem setPl_spark (g : Group) (r l : Nat) (b : Bool) : (setPl g r l b).spark = g.spark := by
  simp only [setPl]; split <;> rfl
@[simp] theorem setPl_rlt (g : Group) (r l : Nat) (b : Bool) : (setPl g r l b).rlt = g.rlt := by
  simp only [setPl]; split <;> rfl
@[simp] theorem setPl_elt (g : Group) (r l : Nat) (b : Bool) : (setPl g r l b).elt = g.elt := by
  simp only [setPl]; split <;> rfl
@[simp] theorem setPl_remFail (g : Group) (r l : Nat) (b : Bool) : (setPl g r l b).remFail = g.remFail := by
  simp only [setPl]; split <;> rfl
@[simp] theorem setPl_slice (g : Group) (r l : Nat) (b : Bool) : (setPl g r l b).slice = g.slice := by
  simp only [setPl]; split <;> rfl
@[simp] theorem setPl_last (g : Group) (r l : Nat) (b : Bool) : (setPl g r l b).last = g.last := by
  simp only [setPl]; split <;> rfl
@[simp] theorem setPl_yielded (g : Group) (r l : Nat) (b : Bool) : (setPl g r l b).yielded = g.yielded := by
  simp only [setPl]; split <;> rfl

@[simp] theorem setQ_gid (g : Group) (r : Nat) (b : Bool) : (setQ g r b).gid = g.gid := by
  simp only [setQ]; split <;> rfl
@[simp] theorem setQ_core (g : Group) (r : Nat) (b : Bool) : (setQ g r b).core = g.core := by
  simp only [setQ]; split <;> rfl
@[simp] theorem setQ_res (g : Group) (r : Nat) (b : Bool) : (setQ g r b).res = g.res := by
  simp only [setQ]; split <;> rfl
@[simp] theorem setQ_stopped (g : Group) (r : Nat) (b : Bool) : (setQ g r b).stopped = g.stopped := by
  simp only [setQ]; split <;> rfl
@[simp] theorem setQ_stopReq (g : Group) (r : Nat) (b : Bool) : (setQ g r b).stopReq = g.stopReq := by
  simp only [setQ]; split <;> rfl
@[simp] theorem setQ_stopLanes (g : Group) (r : Nat) (b : Bool) : (setQ g r b).stopLanes = g.stopLanes := by
  simp only [setQ]; split <;> rfl
@[simp] theorem setQ_kept (g : Group) (r : Nat) (b : Bool) : (setQ g r b).kept = g.kept := by
  simp only [setQ]; split <;> rfl
@[simp] theorem setQ_halt (g : Group) (r : Nat) (b : Bool) : (setQ g r b).halt = g.halt := by
  simp only [setQ]; split <;> rfl
@[simp] theorem setQ_haltCyc (g : Group) (r : Nat) (b : Bool) : (setQ g r b).haltCyc = g.haltCyc := by
  simp only [setQ]; split <;> rfl
@[simp] theorem setQ_pasid (g : Group) (r : Nat) (b : Bool) : (setQ g r b).pasid = g.pasid := by
  simp only [setQ]; split <;> rfl
@[simp] theorem setQ_sys (g : Group) (r : Nat) (b : Bool) : (setQ g r b).sys = g.sys := by
  simp only [setQ]; split <;> rfl
@[simp] theorem setQ_front (g : Group) (r : Nat) (b : Bool) : (setQ g r b).front = g.front := by
  simp only [setQ]; split <;> rfl
@[simp] theorem setQ_team (g : Group) (r : Nat) (b : Bool) : (setQ g r b).team = g.team := by
  simp only [setQ]; split <;> rfl
@[simp] theorem setQ_srTeam (g : Group) (r : Nat) (b : Bool) : (setQ g r b).srTeam = g.srTeam := by
  simp only [setQ]; split <;> rfl
@[simp] theorem setQ_srGroup (g : Group) (r : Nat) (b : Bool) : (setQ g r b).srGroup = g.srGroup := by
  simp only [setQ]; split <;> rfl
@[simp] theorem setQ_w (g : Group) (r : Nat) (b : Bool) : (setQ g r b).w = g.w := by
  simp only [setQ]; split <;> rfl
@[simp] theorem setQ_ker (g : Group) (r : Nat) (b : Bool) : (setQ g r b).ker = g.ker := by
  simp only [setQ]; split <;> rfl
@[simp] theorem setQ_v (g : Group) (r : Nat) (b : Bool) : (setQ g r b).v = g.v := by
  simp only [setQ]; split <;> rfl
@[simp] theorem setQ_p (g : Group) (r : Nat) (b : Bool) : (setQ g r b).p = g.p := by
  simp only [setQ]; split <;> rfl
@[simp] theorem setQ_s (g : Group) (r : Nat) (b : Bool) : (setQ g r b).s = g.s := by
  simp only [setQ]; split <;> rfl
@[simp] theorem setQ_a (g : Group) (r : Nat) (b : Bool) : (setQ g r b).a = g.a := by
  simp only [setQ]; split <;> rfl
@[simp] theorem setQ_i (g : Group) (r : Nat) (b : Bool) : (setQ g r b).i = g.i := by
  simp only [setQ]; split <;> rfl
@[simp] theorem setQ_lanes (g : Group) (r : Nat) (b : Bool) : (setQ g r b).lanes = g.lanes := by
  simp only [setQ]; split <;> rfl
@[simp] theorem setQ_ents (g : Group) (r : Nat) (b : Bool) : (setQ g r b).ents = g.ents := by
  simp only [setQ]; split <;> rfl
@[simp] theorem setQ_frames (g : Group) (r : Nat) (b : Bool) : (setQ g r b).frames = g.frames := by
  simp only [setQ]; split <;> rfl
@[simp] theorem setQ_rmode (g : Group) (r : Nat) (b : Bool) : (setQ g r b).rmode = g.rmode := by
  simp only [setQ]; split <;> rfl
@[simp] theorem setQ_tbase (g : Group) (r : Nat) (b : Bool) : (setQ g r b).tbase = g.tbase := by
  simp only [setQ]; split <;> rfl
@[simp] theorem setQ_deadline (g : Group) (r : Nat) (b : Bool) : (setQ g r b).deadline = g.deadline := by
  simp only [setQ]; split <;> rfl
@[simp] theorem setQ_budget (g : Group) (r : Nat) (b : Bool) : (setQ g r b).budget = g.budget := by
  simp only [setQ]; split <;> rfl
@[simp] theorem setQ_budgetPend (g : Group) (r : Nat) (b : Bool) : (setQ g r b).budgetPend = g.budgetPend := by
  simp only [setQ]; split <;> rfl
@[simp] theorem setQ_lt (g : Group) (r : Nat) (b : Bool) : (setQ g r b).lt = g.lt := by
  simp only [setQ]; split <;> rfl
@[simp] theorem setQ_eqp (g : Group) (r : Nat) (b : Bool) : (setQ g r b).eqp = g.eqp := by
  simp only [setQ]; split <;> rfl
@[simp] theorem setQ_rgn (g : Group) (r : Nat) (b : Bool) : (setQ g r b).rgn = g.rgn := by
  simp only [setQ]; split <;> rfl
@[simp] theorem setQ_stalls (g : Group) (r : Nat) (b : Bool) : (setQ g r b).stalls = g.stalls := by
  simp only [setQ]; split <;> rfl
@[simp] theorem setQ_retired (g : Group) (r : Nat) (b : Bool) : (setQ g r b).retired = g.retired := by
  simp only [setQ]; split <;> rfl
@[simp] theorem setQ_migReq (g : Group) (r : Nat) (b : Bool) : (setQ g r b).migReq = g.migReq := by
  simp only [setQ]; split <;> rfl
@[simp] theorem setQ_migCore (g : Group) (r : Nat) (b : Bool) : (setQ g r b).migCore = g.migCore := by
  simp only [setQ]; split <;> rfl
@[simp] theorem setQ_migTiles (g : Group) (r : Nat) (b : Bool) : (setQ g r b).migTiles = g.migTiles := by
  simp only [setQ]; split <;> rfl
@[simp] theorem setQ_migWord (g : Group) (r : Nat) (b : Bool) : (setQ g r b).migWord = g.migWord := by
  simp only [setQ]; split <;> rfl
@[simp] theorem setQ_arriving (g : Group) (r : Nat) (b : Bool) : (setQ g r b).arriving = g.arriving := by
  simp only [setQ]; split <;> rfl
@[simp] theorem setQ_released (g : Group) (r : Nat) (b : Bool) : (setQ g r b).released = g.released := by
  simp only [setQ]; split <;> rfl
@[simp] theorem setQ_pend (g : Group) (r : Nat) (b : Bool) : (setQ g r b).pend = g.pend := by
  simp only [setQ]; split <;> rfl
@[simp] theorem setQ_flights (g : Group) (r : Nat) (b : Bool) : (setQ g r b).flights = g.flights := by
  simp only [setQ]; split <;> rfl
@[simp] theorem setQ_spark (g : Group) (r : Nat) (b : Bool) : (setQ g r b).spark = g.spark := by
  simp only [setQ]; split <;> rfl
@[simp] theorem setQ_rlt (g : Group) (r : Nat) (b : Bool) : (setQ g r b).rlt = g.rlt := by
  simp only [setQ]; split <;> rfl
@[simp] theorem setQ_elt (g : Group) (r : Nat) (b : Bool) : (setQ g r b).elt = g.elt := by
  simp only [setQ]; split <;> rfl
@[simp] theorem setQ_remFail (g : Group) (r : Nat) (b : Bool) : (setQ g r b).remFail = g.remFail := by
  simp only [setQ]; split <;> rfl
@[simp] theorem setQ_slice (g : Group) (r : Nat) (b : Bool) : (setQ g r b).slice = g.slice := by
  simp only [setQ]; split <;> rfl
@[simp] theorem setQ_last (g : Group) (r : Nat) (b : Bool) : (setQ g r b).last = g.last := by
  simp only [setQ]; split <;> rfl
@[simp] theorem setQ_yielded (g : Group) (r : Nat) (b : Bool) : (setQ g r b).yielded = g.yielded := by
  simp only [setQ]; split <;> rfl

end Sys2Proof.Machine
end

