-- ==== Sys2Proof/Laws/Tidy.lean ====
section
/-! SUPPORT. What settling a split table may change: lanes that were held are released, entries move, frames of dead lanes are
popped; nothing else. -/

namespace Sys2Proof.Machine

open Sys2Proof.Safety

/-- What `tidy` leaves of one lane. -/
structure LaneKept (x y : Lane) : Prop where
  pc : y.pc = x.pc
  stack : y.stack = x.stack
  sd : y.sd = x.sd
  exited : y.exited = x.exited
  park : y.park = x.park
  denied : y.denied = x.denied
  dbg : y.dbg = x.dbg
  free : x.held = false → y.held = false ∧ y.meet = x.meet

/-- What `tidy` leaves of a group. -/
structure Tidied (g g' : Group) : Prop where
  rest : g' = { g with lanes := g'.lanes, ents := g'.ents, frames := g'.frames }
  count : g'.lanes.length = g.lanes.length
  lane : ∀ l, LaneKept (laneAt g l) (laneAt g' l)
  frames : FramesStay g g'

theorem LaneKept.refl (x : Lane) : LaneKept x x := ⟨rfl, rfl, rfl, rfl, rfl, rfl, rfl, fun h => ⟨h, rfl⟩⟩

theorem LaneKept.trans {x y z : Lane} (h : LaneKept x y) (k : LaneKept y z) : LaneKept x z :=
  ⟨k.pc.trans h.pc, k.stack.trans h.stack, k.sd.trans h.sd, k.exited.trans h.exited, k.park.trans h.park,
    k.denied.trans h.denied, k.dbg.trans h.dbg,
    fun e => ⟨(k.free (h.free e).1).1, (k.free (h.free e).1).2.trans (h.free e).2⟩⟩

theorem FramesStay.refl (g : Group) : FramesStay g g := ⟨List.prefix_refl _, fun _ => rfl⟩

/-- Groups of one width with the same lanes exited have the same live lanes. -/
theorem liveMask_congr {g g' : Group} (hw : g'.w = g.w) (h : ∀ l, (laneAt g' l).exited = (laneAt g l).exited) :
    liveMask g' = liveMask g := by
  simp only [liveMask, maskWhere, hw, h]

theorem Tidied.live {g g' : Group} (h : Tidied g g') : liveMask g' = liveMask g :=
  liveMask_congr (by rw [h.rest]) fun l => (h.lane l).exited

theorem Tidied.refl (g : Group) : Tidied g g := ⟨rfl, rfl, fun _ => LaneKept.refl _, FramesStay.refl g⟩

theorem Tidied.trans {g h k : Group} (a : Tidied g h) (b : Tidied h k) : Tidied g k where
  rest := by rw [b.rest, a.rest]
  count := b.count.trans a.count
  lane l := (a.lane l).trans (b.lane l)
  frames := by
    refine ⟨b.frames.below.trans a.frames.below, fun e => ?_⟩
    have ha := a.frames.same e
    rw [b.frames.same (by rw [ha, a.live]; exact e), ha]

/-- A change of the split table alone. -/
theorem Tidied.ents (g : Group) (es : List Entry) : Tidied g { g with ents := es } :=
  ⟨rfl, rfl, fun _ => LaneKept.refl _, ⟨List.prefix_refl _, fun _ => rfl⟩⟩

theorem Tidied.setEnt (g : Group) (e : Nat) (x : Entry) : Tidied g (setEnt g e x) := Tidied.ents g _

theorem laneAt_updLanes (g : Group) (m : W64) (f : Nat → Lane → Lane) (l : Nat) (h : l < g.lanes.length) :
    laneAt (updLanes g m f) l = if m.getLsbD l then f l (laneAt g l) else laneAt g l := by
  simp only [laneAt, updLanes, List.getD_eq_getElem?_getD, List.getElem?_mapIdx, List.getElem?_eq_getElem h, Option.map_some,
    Option.getD_some]

theorem laneAt_updLanes_out (g : Group) (m : W64) (f : Nat → Lane → Lane) (l : Nat) (h : g.lanes.length ≤ l) :
    laneAt (updLanes g m f) l = laneAt g l := by
  simp only [laneAt, updLanes, List.getD_eq_getElem?_getD, List.getElem?_mapIdx, List.getElem?_eq_none h, Option.map_none]

theorem Tidied.release (g : Group) (e : Nat) (m : W64) : Tidied g (releaseLanes g e m) := by
  unfold releaseLanes
  simp only
  split
  · exact Tidied.refl g
  · refine Tidied.trans (h := updLanes g _ _) ⟨rfl, by simp [updLanes], fun l => ?_, ⟨List.prefix_refl _, fun _ => rfl⟩⟩
      (Tidied.setEnt _ _ _)
    by_cases hl : l < g.lanes.length
    · rw [laneAt_updLanes _ _ _ _ hl]
      split
      · rename_i hm
        refine ⟨rfl, rfl, rfl, rfl, rfl, rfl, rfl, fun hh => ?_⟩
        exfalso
        simp only [BitVec.getLsbD_and, Bool.and_eq_true, laneWhere, maskWhere] at hm
        have key : ∀ (ls : List Nat) (b : W64), (ls.foldl (fun m l => m ||| BitVec.twoPow 64 l) b).getLsbD l = true →
            b.getLsbD l = true ∨ l ∈ ls := by
          intro ls
          induction ls with
          | nil => intro b hb; exact .inl hb
          | cons x ls ih =>
            intro b hb
            rcases ih _ hb with h1 | h1
            · simp only [BitVec.getLsbD_or, Bool.or_eq_true, BitVec.getLsbD_twoPow, decide_eq_true_eq, Bool.and_eq_true] at h1
              rcases h1 with h1 | h1
              · exact .inl h1
              · exact .inr (by simp [h1.2])
            · exact .inr (by simp [h1])
        rcases key _ _ hm.2 with h1 | h1
        · simp at h1
        · simp only [List.mem_filter, hh] at h1
          exact absurd h1.2 (by simp)
      · exact LaneKept.refl _
    · rw [laneAt_updLanes_out _ _ _ _ (Nat.le_of_not_lt hl)]
      exact LaneKept.refl _

theorem Tidied.settle (g : Group) (e : Nat) : Tidied g (settleEnt g e) := by
  unfold settleEnt
  simp only
  split
  · exact Tidied.refl g
  · split
    · exact Tidied.setEnt _ _ _
    · split
      · exact Tidied.setEnt _ _ _
      · exact Tidied.setEnt _ _ _

theorem Tidied.foldl (f : Group → Nat → Group) (hf : ∀ g e, Tidied g (f g e)) (ls : List Nat) (g : Group) :
    Tidied g (ls.foldl f g) := by
  induction ls generalizing g with
  | nil => exact Tidied.refl g
  | cons x ls ih => exact (hf g x).trans (ih _)

theorem popDead_prefix (g : Group) (n : Nat) (fs : List Frame) : popDead g n fs <+: fs := by
  induction n generalizing fs with
  | zero => exact List.prefix_refl _
  | succ n ih =>
    unfold popDead
    split
    · split
      · exact (ih _).trans (List.dropLast_prefix fs)
      · exact List.prefix_refl _
    · exact List.prefix_refl _

theorem popDead_same (g : Group) (n : Nat) (fs : List Frame) (h : ∀ f, fs.getLast? = some f → f.h &&& liveMask g ≠ 0) :
    popDead g n fs = fs := by
  cases n with
  | zero => rfl
  | succ n =>
    unfold popDead
    split
    · rename_i f hf
      rw [if_neg]
      simpa using h f hf
    · rfl

theorem Tidied.round (g : Group) : Tidied g (tidyRound g) := by
  unfold tidyRound
  simp only
  have h1 : Tidied g (dropExited g) := Tidied.ents g _
  have h2 : ∀ g : Group, Tidied g { g with frames := popDead g 4 g.frames } := fun g =>
    ⟨rfl, rfl, fun _ => LaneKept.refl _, ⟨popDead_prefix g 4 g.frames, popDead_same g 4 g.frames⟩⟩
  have h3 : ∀ (h g : Group), Tidied g ((List.range 16).foldl (fun g e =>
      if (entAt g e).v then releaseLanes g e (releasable h e) else g) g) := fun h g =>
    Tidied.foldl _ (fun g e => by
      split
      · exact Tidied.release _ _ _
      · exact Tidied.refl _) _ _
  have h4 : ∀ g : Group, Tidied g ((List.range 16).foldl settleEnt g) := fun g => Tidied.foldl _ Tidied.settle _ _
  have h5 := ((h1.trans (h2 _)).trans (h3 { dropExited g with frames := popDead (dropExited g) 4 (dropExited g).frames } _)).trans (h4 _)
  split
  · exact h5.trans ((Tidied.ents _ _).trans ((Tidied.setEnt _ _ _).trans (Tidied.setEnt _ _ _)))
  · split
    · exact h5.trans ((Tidied.ents _ _).trans ((Tidied.setEnt _ _ _).trans (Tidied.setEnt _ _ _)))
    · exact h5

/-- Settling a split table leaves every register and the rest of the group, and of each lane all but a hold that ends. -/
theorem tidied (g : Group) : Tidied g (tidy g) := by
  unfold tidy
  generalize 64 = n
  induction n generalizing g with
  | zero => exact Tidied.refl g
  | succ n ih =>
    unfold tidyN
    simp only
    split
    · exact Tidied.round g
    · exact (Tidied.round g).trans (ih _)

end Sys2Proof.Machine
end

