-- ==== Sys2Proof/Laws/Regs.lean ====
section
/-! SUPPORT. Registers of a group: what a write reads back, and what a write in every active lane comes to. -/

namespace Sys2Proof.Machine

open Sys2Proof.Safety

theorem getV_setV (g : Group) (r l r' l' : Nat) (x : W32) (hl : l < 64) (hl' : l' < 64) :
    getV (setV g r l x) r' l' = if r' = r ∧ l' = l then x else getV g r' l' := by
  simp only [getV, setV, mapGet_mapPut]
  by_cases h : r' = r ∧ l' = l
  · rw [if_pos h, if_pos (by omega)]
  · rw [if_neg h, if_neg (by omega)]

theorem getS_setS (g : Group) (r r' : Nat) (x : W32) : getS (setS g r x) r' = if r' = r then x else getS g r' := by
  simp only [getS, setS, mapGet_mapPut]

theorem getA_setA (g : Group) (r r' : Nat) (x : AReg) : getA (setA g r x) r' = if r' = r then x else getA g r' := by
  simp only [getA, setA, mapGet_mapPut]

theorem getI_setI (g : Group) (r r' : Nat) (x : IReg) : getI (setI g r x) r' = if r' = r then x else getI g r' := by
  simp only [getI, setI, mapGet_mapPut]

theorem getQ_setQ (g : Group) (r r' : Nat) (b : Bool) (h : r' ≠ 7) :
    getQ (setQ g r b) r' = if r' = r then b else getQ g r' := by
  unfold setQ getQ
  by_cases hr : r = 7
  · simp only [hr, if_true, if_neg h]
  · simp only [hr, if_false, if_neg h, mapGet_mapPut]

theorem getQ_true (g : Group) : getQ g 7 = true := rfl

theorem getPl_setPl (g : Group) (r l r' l' : Nat) (b : Bool) (h : r' ≠ 7) (hl : l < 64) (hl' : l' < 64) :
    getPl (setPl g r l b) r' l' = if r' = r ∧ l' = l then b else getPl g r' l' := by
  unfold setPl getPl getP
  by_cases hr : r = 7
  · subst hr
    simp [h]
  · simp only [if_neg hr, if_neg h, mapGet_mapPut]
    by_cases e : r' = r
    · subst e
      simp only [if_true, true_and]
      cases b
      · simp only [Bool.false_eq_true, if_false, BitVec.getLsbD_and, BitVec.getLsbD_not, BitVec.getLsbD_twoPow, hl, hl',
          decide_true, Bool.true_and]
        by_cases e2 : l' = l
        · subst e2; simp
        · simp [e2]; intro _ hh; exact absurd hh.symm e2
      · simp only [if_true, BitVec.getLsbD_or, BitVec.getLsbD_twoPow, hl, decide_true, Bool.true_and]
        by_cases e2 : l' = l
        · subst e2; simp
        · simp [e2]; intro hh; exact absurd hh.symm e2
    · simp [e]

/-- The registers of a group. -/
structure Regs where
  v : Assoc W32
  p : Assoc W64
  s : Assoc W32
  q : Assoc Bool
  a : Assoc AReg
  i : Assoc IReg
  w : Nat

/-- The registers a group holds. -/
def regs (g : Group) : Regs := ⟨g.v, g.p, g.s, g.q, g.a, g.i, g.w⟩

theorem regs_landPend {g g' : Group} (h : regs g' = regs g) (p : Pend) : regs (landPend g' p) = regs (landPend g p) := by
  simp only [regs, Regs.mk.injEq] at h ⊢
  obtain ⟨h1, h2, h3, h4, h5, h6, h7⟩ := h
  unfold landPend
  cases p.val with
  | none => simp [h1, h2, h3, h4, h5, h6, h7]
  | some x =>
    unfold setDest
    cases p.dst <;> simp only [setV, setPl, setS, setQ] <;> (try split) <;> simp [h1, h2, h3, h4, h5, h6, h7]

theorem landPend_pend (g : Group) (p : Pend) : (landPend g p).pend = g.pend := by
  unfold landPend setDest
  split
  · split <;> simp
  · rfl

theorem regs_setPend (g : Group) (ps : List Pend) : regs (setPend g ps) = regs g := rfl

theorem regs_landAll {g g' : Group} (h : regs g' = regs g) (hp : g'.pend = g.pend) : regs (landAll g') = regs (landAll g) := by
  have key : ∀ (ps : List Pend) (g g' : Group), regs g' = regs g →
      regs (ps.foldl landPend g') = regs (ps.foldl landPend g) := by
    intro ps
    induction ps with
    | nil => intro g g' h; exact h
    | cons p ps ih => intro g g' h; exact ih _ _ (regs_landPend h p)
  have := key g.pend g g' h
  unfold landAll
  rw [hp, regs_setPend, regs_setPend]
  exact this

theorem landAll_settled {g : Group} (h : g.pend = []) : regs (landAll g) = regs g := by
  unfold landAll
  rw [h]
  rfl

theorem getV_congr {g g' : Group} (h : regs g' = regs g) (r l : Nat) : getV g' r l = getV g r l := by
  have := congrArg Regs.v h
  simp only [regs] at this
  simp only [getV, this]

theorem getPl_congr {g g' : Group} (h : regs g' = regs g) (r l : Nat) : getPl g' r l = getPl g r l := by
  have h1 := congrArg Regs.p h
  have h2 := congrArg Regs.w h
  simp only [regs] at h1 h2
  simp only [getPl, getP, h1, h2]

theorem getS_congr {g g' : Group} (h : regs g' = regs g) (r : Nat) : getS g' r = getS g r := by
  have := congrArg Regs.s h
  simp only [regs] at this
  simp only [getS, this]

theorem getQ_congr {g g' : Group} (h : regs g' = regs g) (r : Nat) : getQ g' r = getQ g r := by
  have := congrArg Regs.q h
  simp only [regs] at this
  simp only [getQ, this]

theorem getA_congr {g g' : Group} (h : regs g' = regs g) (r : Nat) : getA g' r = getA g r := by
  have := congrArg Regs.a h
  simp only [regs] at this
  simp only [getA, this]

theorem getI_congr {g g' : Group} (h : regs g' = regs g) (r : Nat) : getI g' r = getI g r := by
  have := congrArg Regs.i h
  simp only [regs] at this
  simp only [getI, this]

theorem RegsAre.congr {g g' h : Group} {on : W64} {f : Effect} (e : regs h = regs g') (k : RegsAre g g' on f) :
    RegsAre g h on f where
  v r l hl := by rw [getV_congr e]; exact k.v r l hl
  p r l hl hr := by rw [getPl_congr e]; exact k.p r l hl hr
  pt l := by rw [getPl_congr e]; exact k.pt l
  s r := by rw [getS_congr e]; exact k.s r
  q r hr := by rw [getQ_congr e]; exact k.q r hr
  qt := rfl
  a r := by rw [getA_congr e]; exact k.a r
  i r := by rw [getI_congr e]; exact k.i r

theorem look_nil {α : Type} (r : Nat) (d : α) : look ([] : List (Nat × α)) r d = d := rfl

theorem look_cons {α : Type} (x : Nat × α) (xs : List (Nat × α)) (r : Nat) (d : α) :
    look (x :: xs) r d = if r = x.1 then x.2 else look xs r d := by
  unfold look
  by_cases h : r = x.1
  · simp [h]
  · have : ¬ x.1 = r := fun e => h e.symm
    simp [h, this]

theorem dropPend_settled {g : Group} (d : Dest) (h : g.pend = []) : dropPend g d = g := by
  unfold dropPend
  simp [h]

theorem putV_settled {g : Group} (h : g.pend = []) (r l : Nat) (x : W32) : putV g r l x = setV g r l x := by
  unfold putV
  rw [dropPend_settled _ h]

theorem putV2_settled {g : Group} (h : g.pend = []) (r l : Nat) (x : W64) : putV2 g r l x = setV2 g r l x := by
  unfold putV2 setV2
  rw [putV_settled h, putV_settled (by simpa using h)]

theorem putP_settled {g : Group} (h : g.pend = []) (r l : Nat) (b : Bool) : putP g r l b = setPl g r l b := by
  unfold putP
  rw [dropPend_settled _ h]

theorem putS_settled {g : Group} (h : g.pend = []) (r : Nat) (x : W32) : putS g r x = setS g r x := by
  unfold putS
  rw [dropPend_settled _ h]

theorem putS2_settled {g : Group} (h : g.pend = []) (r : Nat) (x : W64) : putS2 g r x = setS2 g r x := by
  unfold putS2 setS2
  rw [putS_settled h, putS_settled (by simpa using h)]

theorem putQ_settled {g : Group} (h : g.pend = []) (r : Nat) (b : Bool) : putQ g r b = setQ g r b := by
  unfold putQ
  rw [dropPend_settled _ h]

theorem lanesOf_lt {w l : Nat} {m : W64} (h : l ∈ lanesOf w m) : l < w ∧ m.getLsbD l = true ∧ l < 64 := by
  simp only [lanesOf, List.mem_filter, List.mem_range] at h
  exact ⟨h.1, h.2, BitVec.lt_of_getLsbD h.2⟩

theorem mem_lanesOf {w l : Nat} {m : W64} : l ∈ lanesOf w m ↔ l < w ∧ m.getLsbD l = true := by
  simp [lanesOf, List.mem_filter]

theorem lanesOf_nodup (w : Nat) (m : W64) : (lanesOf w m).Nodup := List.nodup_range.filter _

/-- The registers but for v and p are the same. -/
structure OtherRegs (g g' : Group) : Prop where
  s : g'.s = g.s
  q : g'.q = g.q
  a : g'.a = g.a
  i : g'.i = g.i
  w : g'.w = g.w

theorem OtherRegs.refl (g : Group) : OtherRegs g g := ⟨rfl, rfl, rfl, rfl, rfl⟩

theorem OtherRegs.trans {g h k : Group} (a : OtherRegs g h) (b : OtherRegs h k) : OtherRegs g k :=
  ⟨b.s.trans a.s, b.q.trans a.q, b.a.trans a.a, b.i.trans a.i, b.w.trans a.w⟩

theorem OtherRegs.of_regs {g h h' : Group} (e : regs h' = regs h) (k : OtherRegs g h) : OtherRegs g h' := by
  simp only [regs, Regs.mk.injEq] at e
  obtain ⟨-, -, e1, e2, e3, e4, e5⟩ := e
  exact ⟨e1.trans k.s, e2.trans k.q, e3.trans k.a, e4.trans k.i, e5.trans k.w⟩

theorem OtherRegs.of_regs' {g h h' : Group} (e : regs h' = regs h) (k : OtherRegs h' g) : OtherRegs h g := by
  simp only [regs, Regs.mk.injEq] at e
  obtain ⟨-, -, e1, e2, e3, e4, e5⟩ := e
  exact ⟨k.s.trans e1, k.q.trans e2, k.a.trans e3, k.i.trans e4, k.w.trans e5⟩

/-- What one lane's part of an instruction does to its group: the v and p registers it writes in that lane. -/
structure Body (f : Group → Nat → Group) (w : Nat → List (Nat × W32)) (pw : Nat → List (Nat × Bool)) (late : Bool) :
    Prop where
  rest : ∀ g l, f g l = { g with v := (f g l).v, p := (f g l).p, pend := (f g l).pend, spark := (f g l).spark }
  now : ∀ g l, late = false → g.pend = [] → (f g l).pend = []
  pend : ∀ g l, (g.pend = [] ∨ latent g = true) → ((f g l).pend = [] ∨ latent g = true)
  v : ∀ g l, l < 64 → (late = false → g.pend = []) → (g.pend = [] ∨ latent g = true) → ∀ r l', l' < 64 →
    getV (landAll (f g l)) r l' = if l' = l then look (w l) r (getV (landAll g) r l) else getV (landAll g) r l'
  p : ∀ g l, l < 64 → (late = false → g.pend = []) → (g.pend = [] ∨ latent g = true) → ∀ r l', l' < 64 → r ≠ 7 →
    getPl (landAll (f g l)) r l' = if l' = l then look (pw l) r (getPl (landAll g) r l) else getPl (landAll g) r l'
  other : ∀ g l, (late = false → g.pend = []) → (g.pend = [] ∨ latent g = true) →
    OtherRegs (landAll g) (landAll (f g l))

theorem latent_congr {g g' : Group} (hc : g'.core = g.core) (hk : g'.ker = g.ker) : latent g' = latent g := by
  unfold latent native tagOf formL
  rw [hc, hk]

theorem Body.latent {f w pw late} (b : Body f w pw late) (g : Group) (l : Nat) :
    Machine.latent (f g l) = Machine.latent g := by
  rw [b.rest g l]
  exact latent_congr rfl rfl

/-- The lanes of a list, each once, each take their own writes. -/
theorem Body.foldl {f w pw late} (b : Body f w pw late) (ls : List Nat) (hn : ls.Nodup) (h64 : ∀ l ∈ ls, l < 64) (g : Group)
    (hp : late = false → g.pend = []) (hi : g.pend = [] ∨ Machine.latent g = true) :
    (ls.foldl f g = { g with v := (ls.foldl f g).v, p := (ls.foldl f g).p, pend := (ls.foldl f g).pend, spark := (ls.foldl f g).spark }) ∧
    (late = false → (ls.foldl f g).pend = []) ∧
    (∀ r l, l < 64 → getV (landAll (ls.foldl f g)) r l =
      if l ∈ ls then look (w l) r (getV (landAll g) r l) else getV (landAll g) r l) ∧
    (∀ r l, l < 64 → r ≠ 7 → getPl (landAll (ls.foldl f g)) r l =
      if l ∈ ls then look (pw l) r (getPl (landAll g) r l) else getPl (landAll g) r l) ∧
    OtherRegs (landAll g) (landAll (ls.foldl f g)) := by
  induction ls generalizing g with
  | nil => exact ⟨rfl, hp, fun _ _ _ => by simp, fun _ _ _ _ => by simp, OtherRegs.refl _⟩
  | cons x ls ih =>
    have hx := h64 x (by simp)
    have hp' : late = false → (f g x).pend = [] := fun e => b.now g x e (hp e)
    have hi' : (f g x).pend = [] ∨ Machine.latent (f g x) = true := by
      rcases b.pend g x hi with h | h
      · exact .inl h
      · exact .inr (by rw [b.latent]; exact h)
    obtain ⟨h1, h2, h3, h4, h5⟩ := ih (List.nodup_cons.1 hn).2 (fun l hl => h64 l (by simp [hl])) (f g x) hp' hi'
    refine ⟨?_, h2, ?_, ?_, (b.other g x hp hi).trans h5⟩
    · rw [List.foldl_cons, h1, b.rest g x]
    · intro r l hl
      rw [List.foldl_cons, h3 r l hl]
      by_cases e : l = x
      · subst e
        rw [if_neg (List.nodup_cons.1 hn).1, b.v g l hx hp hi r l hl, if_pos rfl, if_pos (by simp)]
      · rw [b.v g x hx hp hi r l hl, if_neg e]
        simp [e]
    · intro r l hl hr
      rw [List.foldl_cons, h4 r l hl hr]
      by_cases e : l = x
      · subst e
        rw [if_neg (List.nodup_cons.1 hn).1, b.p g l hx hp hi r l hl hr, if_pos rfl, if_pos (by simp)]
      · rw [b.p g x hx hp hi r l hl hr, if_neg e]
        simp [e]

/-- Changes of v, p and outstanding results alone compose. -/
theorem onlyLane_trans {g h k : Group} (a : h = { g with v := h.v, p := h.p, pend := h.pend, spark := h.spark })
    (b : k = { h with v := k.v, p := k.p, pend := k.pend, spark := k.spark }) : k = { g with v := k.v, p := k.p, pend := k.pend, spark := k.spark } :=
  b.trans (by rw [a])

theorem putV_rest (g : Group) (r l : Nat) (x : W32) :
    putV g r l x = { g with v := (putV g r l x).v, p := (putV g r l x).p, pend := (putV g r l x).pend, spark := (putV g r l x).spark } := by
  unfold putV dropPend setPend setV
  split <;> rfl

/-- A write of one register in a lane. -/
theorem Body.putV (d : Nat) (x : Nat → W32) : Body (fun g l => putV g d l (x l)) (fun l => [(d, x l)]) (fun _ => []) false where
  rest g l := putV_rest g d l (x l)
  now g l _ h := by rw [putV_settled h]; exact h
  pend g l h := by
    rcases h with h | h
    · exact .inl (by rw [putV_settled h]; exact h)
    · exact .inr h
  v g l hl hp _ r l' hl' := by
    have h := hp rfl
    rw [putV_settled h, getV_congr (landAll_settled (g := setV g d l (x l)) h), getV_setV _ _ _ _ _ _ hl hl',
      getV_congr (landAll_settled h), getV_congr (landAll_settled h), look_cons, look_nil]
    by_cases e : l' = l
    · subst e; simp
    · simp [e]
  p g l hl hp _ r l' hl' hr := by
    have h := hp rfl
    rw [putV_settled h, getPl_congr (landAll_settled (g := setV g d l (x l)) h), look_nil, getPl_congr (landAll_settled h),
      getPl_congr (landAll_settled h)]
    have : getPl (setV g d l (x l)) r l' = getPl g r l' := rfl
    rw [this]
    split
    · rename_i e; rw [e]
    · rfl
  other g l hp _ := by
    have h := hp rfl
    show OtherRegs _ (landAll (Machine.putV g d l (x l)))
    rw [putV_settled h]
    exact (OtherRegs.of_regs (landAll_settled (g := setV g d l (x l)) h)
      (OtherRegs.of_regs' (landAll_settled h).symm ⟨rfl, rfl, rfl, rfl, rfl⟩))

/-- A write of a pair of registers in a lane. -/
theorem Body.putV2 (d : Nat) (x : Nat → W64) :
    Body (fun g l => putV2 g d l (x l)) (fun l => [(d, (x l).extractLsb' 0 32), (d + 1, (x l).extractLsb' 32 32)])
      (fun _ => []) false where
  rest g l := onlyLane_trans (putV_rest g _ _ _) (putV_rest _ _ _ _)
  now g l _ h := by rw [putV2_settled h]; exact h
  pend g l h := by
    rcases h with h | h
    · exact .inl (by rw [putV2_settled h]; exact h)
    · exact .inr h
  v g l hl hp _ r l' hl' := by
    have h := hp rfl
    rw [putV2_settled h, getV_congr (landAll_settled (g := setV2 g d l (x l)) h), setV2, getV_setV _ _ _ _ _ _ hl hl',
      getV_setV _ _ _ _ _ _ hl hl', getV_congr (landAll_settled h), getV_congr (landAll_settled h), look_cons, look_cons, look_nil]
    by_cases e : l' = l
    · subst e
      simp only [and_true, if_true]
      by_cases e1 : r = d
      · subst e1; simp
      · simp [e1]
    · simp [e]
  p g l hl hp _ r l' hl' hr := by
    have h := hp rfl
    rw [putV2_settled h, getPl_congr (landAll_settled (g := setV2 g d l (x l)) h), look_nil, getPl_congr (landAll_settled h),
      getPl_congr (landAll_settled h)]
    have : getPl (setV2 g d l (x l)) r l' = getPl g r l' := rfl
    rw [this]
    split
    · rename_i e; rw [e]
    · rfl
  other g l hp _ := by
    have h := hp rfl
    show OtherRegs _ (landAll (Machine.putV2 g d l (x l)))
    rw [putV2_settled h]
    exact (OtherRegs.of_regs (landAll_settled (g := setV2 g d l (x l)) h)
      (OtherRegs.of_regs' (landAll_settled h).symm ⟨rfl, rfl, rfl, rfl, rfl⟩))

/-- A write of one predicate in a lane. -/
theorem Body.putP (d : Nat) (x : Nat → Bool) : Body (fun g l => putP g d l (x l)) (fun _ => []) (fun l => [(d, x l)]) false where
  rest g l := by
    unfold Machine.putP dropPend setPend
    simp only [setPl]
    split <;> split <;> rfl
  now g l _ h := by rw [putP_settled h]; simpa using h
  pend g l h := by
    rcases h with h | h
    · exact .inl (by rw [putP_settled h]; simpa using h)
    · exact .inr h
  v g l hl hp _ r l' hl' := by
    have h := hp rfl
    have h2 : (setPl g d l (x l)).pend = [] := by simpa using h
    rw [putP_settled h, getV_congr (landAll_settled h2), look_nil, getV_congr (landAll_settled h), getV_congr (landAll_settled h)]
    have : getV (setPl g d l (x l)) r l' = getV g r l' := by simp [getV]
    rw [this]
    split
    · rename_i e; rw [e]
    · rfl
  p g l hl hp _ r l' hl' hr := by
    have h := hp rfl
    have h2 : (setPl g d l (x l)).pend = [] := by simpa using h
    rw [putP_settled h, getPl_congr (landAll_settled h2), getPl_setPl _ _ _ _ _ _ hr hl hl', getPl_congr (landAll_settled h),
      getPl_congr (landAll_settled h), look_cons, look_nil]
    by_cases e : l' = l
    · subst e; simp
    · simp [e]
  other g l hp _ := by
    have h := hp rfl
    have h2 : (setPl g d l (x l)).pend = [] := by simpa using h
    show OtherRegs _ (landAll (Machine.putP g d l (x l)))
    rw [putP_settled h]
    exact (OtherRegs.of_regs (landAll_settled h2)
      (OtherRegs.of_regs' (landAll_settled h).symm ⟨by simp, by simp, by simp, by simp, by simp⟩))

/-- Landing after one more outstanding result is landing, then that result. -/
theorem regs_landAll_snoc (g : Group) (p : Pend) :
    regs (landAll { g with pend := g.pend ++ [p] }) = regs (landPend (landAll g) p) := by
  have key : ∀ (ps : List Pend) (g g' : Group), regs g' = regs g →
      regs (ps.foldl landPend g') = regs (ps.foldl landPend g) := by
    intro ps
    induction ps with
    | nil => intro g g' h; exact h
    | cons p ps ih => intro g g' h; exact ih _ _ (regs_landPend h p)
  have h1 : regs (landAll { g with pend := g.pend ++ [p] }) =
      regs ((g.pend ++ [p]).foldl landPend { g with pend := g.pend ++ [p] }) := rfl
  rw [h1, List.foldl_append]
  refine regs_landPend (g := landAll g) ?_ p
  have h2 : regs (landAll g) = regs (g.pend.foldl landPend g) := rfl
  rw [h2]
  exact key _ _ _ rfl

theorem regs_later (g : Group) (h : g.pend = [] ∨ latent g = true) (d : Dest) (x : W32) :
    regs (landAll (later g d x)) = regs (setDest (landAll g) d x) := by
  show _ = regs (landPend (landAll g) ⟨0, d, some x⟩)
  unfold later
  split
  · exact regs_landAll_snoc g _
  · rename_i hl
    have h0 : g.pend = [] := by
      rcases h with h | h
      · exact h
      · exact absurd h hl
    have h1 : (landPend g ⟨0, d, some x⟩).pend = [] := (landPend_pend g _).trans h0
    show regs (landAll (landPend g ⟨0, d, some x⟩)) = _
    rw [landAll_settled h1]
    exact regs_landPend (landAll_settled h0).symm _

theorem later_rest (g : Group) (d : Dest) (x : W32) :
    later g d x = { g with v := (later g d x).v, p := (later g d x).p, s := (later g d x).s, q := (later g d x).q
                           pend := (later g d x).pend, spark := (later g d x).spark } := by
  unfold later
  split
  · rfl
  · unfold setDest
    cases d <;> simp only [setV, setPl, setS, setQ] <;> (try split) <;> rfl

theorem later_pend (g : Group) (d : Dest) (x : W32) (h : g.pend = [] ∨ latent g = true) :
    (later g d x).pend = [] ∨ latent g = true := by
  unfold later
  split
  · rename_i e; exact .inr e
  · rcases h with h | h
    · refine .inl ?_
      unfold setDest
      cases d <;> simpa using h
    · exact .inr h

/-- A late write of one register in a lane. -/
theorem Body.lateV (d : Nat) (x : Nat → W32) : Body (fun g l => lateV g d l (x l)) (fun l => [(d, x l)]) (fun _ => []) true where
  rest g l := by
    unfold Machine.lateV later
    split
    · rfl
    · rfl
  now g l h := by simp at h
  pend g l h := later_pend g _ _ h
  v g l hl _ hi r l' hl' := by
    have e := regs_later g hi (.v d l) (x l)
    rw [show Machine.lateV g d l (x l) = later g (.v d l) (x l) from rfl, getV_congr e]
    show getV (setV (landAll g) d l (x l)) r l' = _
    rw [getV_setV _ _ _ _ _ _ hl hl', look_cons, look_nil]
    by_cases e : l' = l
    · subst e; simp
    · simp [e]
  p g l hl _ hi r l' hl' hr := by
    have e := regs_later g hi (.v d l) (x l)
    rw [show Machine.lateV g d l (x l) = later g (.v d l) (x l) from rfl, getPl_congr e, look_nil]
    show getPl (setV (landAll g) d l (x l)) r l' = _
    have : getPl (setV (landAll g) d l (x l)) r l' = getPl (landAll g) r l' := rfl
    rw [this]
    split
    · rename_i e; rw [e]
    · rfl
  other g l _ hi := by
    have e := regs_later g hi (.v d l) (x l)
    exact OtherRegs.of_regs e ⟨rfl, rfl, rfl, rfl, rfl⟩

/-- Two parts in one lane, one after the other: the later write of a register counts. -/
theorem Body.seq {f f' w w' pw pw' late} (b : Body f w pw late) (c : Body f' w' pw' late) :
    Body (fun g l => f' (f g l) l) (fun l => w' l ++ w l) (fun l => pw' l ++ pw l) late where
  rest g l := onlyLane_trans (b.rest g l) (c.rest _ l)
  now g l h k := c.now _ _ h (b.now _ _ h k)
  pend g l h := by
    rcases b.pend g l h with k | k
    · have := c.pend (f g l) l (.inl k)
      rw [b.latent] at this
      exact this
    · exact .inr k
  v g l hl hp hi r l' hl' := by
    have hp' : late = false → (f g l).pend = [] := fun e => b.now g l e (hp e)
    have hi' : (f g l).pend = [] ∨ Machine.latent (f g l) = true := by rw [b.latent]; exact b.pend g l hi
    rw [c.v _ l hl hp' hi' r l' hl', b.v g l hl hp hi r l' hl', b.v g l hl hp hi r l hl, if_pos rfl]
    by_cases e : l' = l
    · simp only [if_pos e]
      unfold look
      rw [List.find?_append]
      cases (w' l).find? (fun x => x.1 == r) <;> simp
    · simp [e]
  p g l hl hp hi r l' hl' hr := by
    have hp' : late = false → (f g l).pend = [] := fun e => b.now g l e (hp e)
    have hi' : (f g l).pend = [] ∨ Machine.latent (f g l) = true := by rw [b.latent]; exact b.pend g l hi
    rw [c.p _ l hl hp' hi' r l' hl' hr, b.p g l hl hp hi r l' hl' hr, b.p g l hl hp hi r l hl hr, if_pos rfl]
    by_cases e : l' = l
    · simp only [if_pos e]
      unfold look
      rw [List.find?_append]
      cases (pw' l).find? (fun x => x.1 == r) <;> simp
    · simp [e]
  other g l hp hi := by
    have hp' : late = false → (f g l).pend = [] := fun e => b.now g l e (hp e)
    have hi' : (f g l).pend = [] ∨ Machine.latent (f g l) = true := by rw [b.latent]; exact b.pend g l hi
    exact (b.other g l hp hi).trans (c.other _ l hp' hi')

end Sys2Proof.Machine
end

