-- ==== Sys2Proof/Laws/Issue.lean ====
section
/-! SUPPORT. The issue and the retirement of an instruction that can issue: what the shared operations come to under
`Safety.Runs`, and register instructions from their effect on a group. -/

namespace Sys2Proof.Machine

open Sys2Proof.Safety

/-- An instruction that can issue runs its body. -/
theorem issue_runs {i : Instr} {s : State} {cu : Cursor} {g : Group} (h : Runs i s cu g) (f : Ctx → State) :
    issue i s f = .next (f (runCtx i s cu g)) := by
  have hg : getGroup { s with cur := none } cu.gid = some g := h.group
  have hm : (privileged i && !g.sys) = false := by
    cases hp : privileged i
    · rfl
    · simp [h.mode hp]
  unfold issue
  simp only [h.cursor, hg, h.legal, hm, h.ready, Bool.not_true, Bool.false_eq_true, if_false, pendView, h.settled, List.isEmpty_nil, if_true,
    hintLanes, h.kept, bne_self_eq_false, Bool.and_false, Bool.false_and]
  rfl

/-- Without causes and released registers an instruction goes on. -/
theorem orTrap_none (c : Ctx) (acc : AccKind) (k : Ctx → State) (h : c.hint = 0) : orTrap c acc [] k = k c := by
  have e : lanesOf c.g.w (c.hint &&& c.act) = [] := by
    rw [h]
    simp [lanesOf]
  unfold orTrap
  simp only [e, List.map_nil, List.nil_append, minRank, minList, reduceCtorEq, if_false]

theorem sample_off {s : State} {g : Group} (e : Nat) (pc act : W64) (mem : List Nat) (o : Nat)
    (h : mapGet 0 s.tags (16 * g.gid + e) = 0) : sample s g e pc act mem o = s := by
  unfold sample
  rw [h]

theorem flow_off {s : State} {g1 : Group} (g0 : Group) (fall : Option (Nat × W64))
    (h : tracing s g1.core g1.pasid = false) : flow s g0 g1 fall = s := by
  unfold flow
  rw [h]
  simp

theorem commit_quiet {s : State} {g1 : Group} (g0 : Group) (fall : Option (Nat × W64))
    (h : tracing s g1.core g1.pasid = false) (hl : liveMask g1 ≠ 0) : commit s g0 g1 fall = setGroup s g1 := by
  unfold commit
  simp only
  rw [flow_off g0 fall (by exact h), if_neg hl]

/-- The group as a retired instruction leaves it, before its table settles. -/
def retiring (c : Ctx) (g : Group) : Group :=
  let g := retired g c
  let g := updLanes g c.act fun _ x => { x with pc := c.nxt, dbg := false, denied := none }
  setEnt g c.e { entAt g c.e with pc := c.nxt }

theorem retiring_rest (c : Ctx) (g : Group) :
    retiring c g = { g with lanes := (retiring c g).lanes, ents := (retiring c g).ents, retired := (retiring c g).retired
                            released := (retiring c g).released, spark := (retiring c g).spark } := by
  simp only [retiring, retired, sBit, releaseRegs]
  split <;> split <;> rfl

theorem retired_lanes (c : Ctx) (g : Group) : (retired g c).lanes = g.lanes := by
  simp only [retired, sBit, releaseRegs]
  split <;> split <;> rfl

/-- Retirement under a quiet core puts the settled group in place. -/
theorem retire_quiet (c : Ctx) (g : Group) (mem : List Nat) (ht : tracing c.s g.core g.pasid = false)
    (hs : mapGet 0 c.s.tags (16 * g.gid + c.e) = 0) (hl : liveMask (retiring c g) ≠ 0) :
    retireAt c c.s g mem = setGroup c.s (tidy (retiring c g)) := by
  have e : retireAt c c.s g mem =
      commit (sample c.s (retiring c g) c.e c.pc c.act (if c.on = 0 then [] else mem) 0) c.g (tidy (retiring c g)) (some (c.e, c.nxt)) := rfl
  have h1 : (retiring c g).core = g.core := by rw [retiring_rest]
  have h2 : (retiring c g).pasid = g.pasid := by rw [retiring_rest]
  have t := tidied (retiring c g)
  have h3 : (retiring c g).gid = g.gid := by rw [retiring_rest]
  rw [e, sample_off _ _ _ _ _ (by rw [h3]; exact hs), commit_quiet]
  · rw [show (tidy (retiring c g)).core = g.core by rw [t.rest]; exact h1,
      show (tidy (retiring c g)).pasid = g.pasid by rw [t.rest]; exact h2]
    exact ht
  · rw [t.live]
    exact hl

/-- Where the lanes go: `retiring` moves the ACT lanes to the fall-through. -/
theorem retiring_goesOn (c : Ctx) (g0 g : Group) (hl : g.lanes = g0.lanes) :
    GoesOn g0 (tidy (retiring c g)) c.act fun _ => c.nxt := by
  have t := tidied (retiring c g)
  have lanes : ∀ l, laneAt (retiring c g) l =
      laneAt (updLanes (retired g c) c.act fun _ x => { x with pc := c.nxt, dbg := false, denied := none }) l := fun _ => rfl
  have base : ∀ l, laneAt (retired g c) l = laneAt g0 l := fun l => by simp only [laneAt, retired_lanes, hl]
  have len : (retired g c).lanes.length = g0.lanes.length := by rw [retired_lanes, hl]
  have split : ∀ (P : Lane → Lane → Prop), (∀ x, P x x) → (∀ x, P x { x with pc := c.nxt, dbg := false, denied := none }) →
      ∀ l, P (laneAt g0 l) (laneAt (retiring c g) l) := by
    intro P h1 h2 l
    rw [lanes]
    by_cases h : l < (retired g c).lanes.length
    · rw [laneAt_updLanes _ _ _ _ h, base]
      split
      · exact h2 _
      · exact h1 _
    · rw [laneAt_updLanes_out _ _ _ _ (Nat.le_of_not_lt h), base]
      exact h1 _
  refine ⟨?_, fun l h => ?_, fun l => ?_, fun l => ?_, fun l => ?_, fun l => ?_, fun l h => ?_⟩
  · rw [t.count]
    simp only [retiring, setEnt, updLanes, List.length_mapIdx, len]
  · rw [(t.lane l).pc, lanes, laneAt_updLanes _ _ _ _ (by rw [len]; exact h), base]
    split <;> rfl
  · rw [(t.lane l).stack]
    exact split (fun x y => y.stack = x.stack) (fun _ => rfl) (fun _ => rfl) l
  · rw [(t.lane l).sd]
    exact split (fun x y => y.sd = x.sd) (fun _ => rfl) (fun _ => rfl) l
  · rw [(t.lane l).exited]
    exact split (fun x y => y.exited = x.exited) (fun _ => rfl) (fun _ => rfl) l
  · rw [(t.lane l).park]
    exact split (fun x y => y.park = x.park) (fun _ => rfl) (fun _ => rfl) l
  · have hh := split (fun x y => y.held = x.held ∧ y.meet = x.meet) (fun _ => ⟨rfl, rfl⟩) (fun _ => ⟨rfl, rfl⟩) l
    exact ((t.lane l).free (hh.1.trans h)).2.trans hh.2

theorem retiring_live (c : Ctx) (g0 g : Group) (hl : g.lanes = g0.lanes) (hw : g.w = g0.w) :
    liveMask (tidy (retiring c g)) = liveMask g0 := by
  refine liveMask_congr ?_ (retiring_goesOn c g0 g hl).exited
  rw [(tidied _).rest]
  show (retiring c g).w = g0.w
  rw [retiring_rest]
  exact hw

/-- What the body of a register instruction does to its group. -/
structure Writes (g g' : Group) (on : W64) (f : Effect) : Prop where
  rest : g' = { g with v := g'.v, p := g'.p, s := g'.s, a := g'.a, q := g'.q, i := g'.i, pend := g'.pend, spark := g'.spark }
  regs : RegsAre g (landAll g') on f
  now : f.late = false → g'.pend = []

theorem onlyRegs_of {g x y z : Group}
    (a : x = { g with v := x.v, p := x.p, s := x.s, a := x.a, q := x.q, i := x.i, pend := x.pend, spark := x.spark })
    (b : y = { x with lanes := y.lanes, ents := y.ents, retired := y.retired, released := y.released, spark := y.spark })
    (c : z = { y with lanes := z.lanes, ents := z.ents, frames := z.frames }) : OnlyRegs g z := by
  unfold OnlyRegs
  rw [c, b, a]

theorem settled_regs {x y z : Group}
    (b : y = { x with lanes := y.lanes, ents := y.ents, retired := y.retired, released := y.released, spark := y.spark })
    (c : z = { y with lanes := z.lanes, ents := z.ents, frames := z.frames }) : regs z = regs x ∧ z.pend = x.pend := by
  rw [c, b]
  exact ⟨rfl, rfl⟩

/-- A register instruction from the effect of its body. -/
theorem regOp_intro {i : Instr} {B : Ctx → State} {P : State → Group → W64 → Prop} {f : State → Group → W64 → Effect}
    (he : ∀ s, exec i s = issue i s B)
    (hB : ∀ s cu g, Runs i s cu g → P s g (active i g cu) →
      ∃ G, B (runCtx i s cu g) = retire (runCtx i s cu g) G ∧ Writes g G (active i g cu) (f s g (active i g cu))) :
    RegOpWhen i P f := by
  intro s cu g h hP
  obtain ⟨G, hret, hc⟩ := hB s cu g h hP
  have hrest := hc.rest
  have hl : G.lanes = g.lanes := by rw [hrest]
  have hw : G.w = g.w := by rw [hrest]
  have hco : G.core = g.core := by rw [hrest]
  have hpa : G.pasid = g.pasid := by rw [hrest]
  have hfr : G.frames = g.frames := by rw [hrest]
  have live := retiring_live (runCtx i s cu g) g G hl hw
  have t := tidied (retiring (runCtx i s cu g) G)
  have r := retiring_rest (runCtx i s cu g) G
  refine ⟨tidy (retiring (runCtx i s cu g) G), ?_, ?_, ?_, ?_, ?_, ?_⟩
  · rw [he, issue_runs h, hret]
    unfold retire
    rw [retire_quiet]
    · rfl
    · rw [hco, hpa]; exact h.untraced
    · rw [show G.gid = g.gid by rw [hrest]]; exact h.unsampled
    · rw [← t.live, live]; exact h.alive
  · exact onlyRegs_of hrest r t.rest
  · exact RegsAre.congr (regs_landAll (settled_regs r t.rest).1 (settled_regs r t.rest).2) hc.regs
  · intro hlate
    exact (settled_regs r t.rest).2.trans (hc.now hlate)
  · exact retiring_goesOn (runCtx i s cu g) g G hl
  · have hf : (retiring (runCtx i s cu g) G).frames = g.frames := by rw [r]; exact hfr
    have below := t.frames.below
    have same := t.frames.same
    rw [hf] at below same
    refine ⟨below, fun e => same fun f hf' => ?_⟩
    rw [← t.live, live]
    exact e f hf'

/-- A register instruction without causes of its own. -/
theorem regOp_simple {i : Instr} {F : Ctx → Group} {f : Group → W64 → Effect}
    (he : ∀ s, exec i s = issue i s fun c => simple c F)
    (hF : ∀ s cu g, Runs i s cu g → Writes g (F (runCtx i s cu g)) (active i g cu) (f g (active i g cu))) : RegOp i f :=
  regOp_intro he fun s cu g h _ => ⟨_, orTrap_none _ _ _ rfl, hF s cu g h⟩

/-- Nothing is written while no lane is active. -/
theorem Writes.idle (g : Group) (f : Effect) (hp : g.pend = []) : Writes g g 0 f where
  rest := rfl
  regs := by
    refine RegsAre.congr (landAll_settled hp) ⟨fun _ _ _ => ?_, fun _ _ _ _ => ?_, fun _ => rfl, fun _ => ?_, fun _ _ => ?_, rfl,
      fun _ => ?_, fun _ => ?_⟩ <;> simp
  now _ := hp

/-- A write of uniform registers. -/
theorem Writes.uni {g g' : Group} (on : W64) (hp : g.pend = []) (ws : List (Nat × W32)) (hon : on ≠ 0)
    (hr : g' = { g with s := g'.s }) (hs : ∀ r, getS g' r = look ws r (getS g r)) : Writes g g' on { s := ws } where
  rest := by rw [hr]
  regs := by
    have hp' : g'.pend = [] := by rw [hr]; exact hp
    refine RegsAre.congr (landAll_settled hp') ⟨fun r l _ => ?_, fun r l _ _ => ?_, fun l => ?_, fun r => ?_, fun r _ => ?_, rfl,
      fun r => ?_, fun r => ?_⟩
    · rw [look_nil, ite_self, hr]; rfl
    · rw [look_nil, ite_self, hr]; rfl
    · rw [hr]; rfl
    · rw [if_pos hon]; exact hs r
    · rw [look_nil, ite_self, hr]; rfl
    · rw [look_nil, ite_self, hr]; rfl
    · rw [look_nil, ite_self, hr]; rfl
  now _ := by rw [hr]; exact hp

/-- A write of one uniform register. -/
theorem Writes.s32 (g : Group) (on : W64) (hp : g.pend = []) (hon : on ≠ 0) (d : BitVec 6) (x : W32) :
    Writes g (putS g d.toNat x) on (uni32 d x) :=
  Writes.uni on hp _ hon (by rw [putS_settled hp]; rfl) fun r => by
    rw [putS_settled hp, getS_setS, look_cons, look_nil]

/-- A write of a uniform pair. -/
theorem Writes.s64 (g : Group) (on : W64) (hp : g.pend = []) (hon : on ≠ 0) (d : BitVec 6) (x : W64) :
    Writes g (putS2 g d.toNat x) on (uni64 d x) :=
  Writes.uni on hp _ hon (by rw [putS2_settled hp]; rfl) fun r => by
    rw [putS2_settled hp, setS2, getS_setS, getS_setS, look_cons, look_cons, look_nil]
    simp only
    by_cases e : r = d.toNat
    · subst e; simp
    · simp [e]

/-- A write of a uniform predicate. -/
theorem Writes.q1 (g : Group) (on : W64) (hp : g.pend = []) (hon : on ≠ 0) (d : BitVec 3) (x : Bool) :
    Writes g (putQ g d.toNat x) on { q := [(d.toNat, x)] } where
  rest := by
    rw [putQ_settled hp]
    unfold setQ
    split <;> rfl
  regs := by
    have hp' : (putQ g d.toNat x).pend = [] := by rw [putQ_settled hp]; simpa using hp
    rw [putQ_settled hp] at hp' ⊢
    refine RegsAre.congr (landAll_settled hp') ⟨fun r l _ => ?_, fun r l _ _ => ?_, fun l => ?_, fun r => ?_, fun r h7 => ?_, rfl,
      fun r => ?_, fun r => ?_⟩
    · rw [look_nil, ite_self]; simp [getV]
    · rw [look_nil, ite_self]; simp [getPl, getP]
    · simp [getPl, getP]
    · rw [look_nil, ite_self]; simp [getS]
    · rw [if_pos hon, getQ_setQ _ _ _ _ h7, look_cons, look_nil]
    · rw [look_nil, ite_self]; simp [getA]
    · rw [look_nil, ite_self]; simp [getI]
  now _ := by rw [putQ_settled hp]; simpa using hp

/-- A write of an address register. -/
theorem Writes.a1 (g : Group) (on : W64) (hp : g.pend = []) (hon : on ≠ 0) (d : BitVec 4) (x : AReg) :
    Writes g (setA g d.toNat x) on (areg d x) where
  rest := rfl
  regs := by
    refine RegsAre.congr (landAll_settled (g := setA g d.toNat x) hp) ⟨fun r l _ => ?_, fun r l _ _ => ?_, fun l => rfl,
      fun r => ?_, fun r h7 => ?_, rfl, fun r => ?_, fun r => ?_⟩
    · exact (ite_self _).symm
    · exact (ite_self _).symm
    · exact (ite_self _).symm
    · exact (ite_self _).symm
    · rw [if_pos hon, getA_setA, areg, look_cons, look_nil]
    · exact (ite_self _).symm
  now _ := hp

/-- A write of an index register. -/
theorem Writes.i1 (g : Group) (on : W64) (hp : g.pend = []) (hon : on ≠ 0) (d : BitVec 2) (x : IReg) :
    Writes g (setI g d.toNat x) on (ireg d x) where
  rest := rfl
  regs := by
    refine RegsAre.congr (landAll_settled (g := setI g d.toNat x) hp) ⟨fun r l _ => ?_, fun r l _ _ => ?_, fun l => rfl,
      fun r => ?_, fun r h7 => ?_, rfl, fun r => ?_, fun r => ?_⟩
    · exact (ite_self _).symm
    · exact (ite_self _).symm
    · exact (ite_self _).symm
    · exact (ite_self _).symm
    · exact (ite_self _).symm
    · rw [if_pos hon, getI_setI, ireg, look_cons, look_nil]
  now _ := hp

/-- An effect that happens once, when a lane is active. -/
theorem Writes.once (c : Ctx) (F : Group → Group) (f : Effect) (hp : c.g.pend = [])
    (h : c.on ≠ 0 → Writes c.g (F c.g) c.on f) : Writes c.g (Machine.once c F) c.on f := by
  unfold Machine.once
  split
  · rename_i e; rw [e]; exact Writes.idle c.g f hp
  · rename_i e; exact h e

/-- A body over the active lanes. -/
theorem Body.writes {f w pw late} (b : Body f w pw late) (g : Group) (on : W64) (hp : g.pend = []) :
    Writes g (forLanes g on f) on { v := w, p := pw, late := late } := by
  obtain ⟨h1, h2, h3, h4, h5⟩ := b.foldl (lanesOf g.w on) (lanesOf_nodup _ _) (fun l h => (lanesOf_lt h).2.2) g (fun _ => hp) (.inl hp)
  have base := landAll_settled hp
  have o := OtherRegs.of_regs' base h5
  refine ⟨h1.trans ?_, ⟨?_, ?_, ?_, ?_, ?_, rfl, ?_, ?_⟩, h2⟩
  · unfold forLanes
    rw [h1]
  · intro r l hl
    rw [forLanes, h3 r l hl, getV_congr base]
    simp only [mem_lanesOf]
  · intro r l hl hr
    rw [forLanes, h4 r l hl hr, getPl_congr base]
    simp only [mem_lanesOf]
  · intro l
    simp only [getPl, getP, forLanes, o.w, if_true]
  · intro r
    simp only [getS, forLanes, o.s, look_nil, ite_self]
  · intro r hr
    simp only [getQ, forLanes, o.q, look_nil, ite_self]
  · intro r
    simp only [getA, forLanes, o.a, look_nil, ite_self]
  · intro r
    simp only [getI, forLanes, o.i, look_nil, ite_self]

end Sys2Proof.Machine
end

