-- ==== Sys2Proof/Laws/Flow.lean ====
section
/-! SUPPORT. The retirement of control instructions: where the lanes go when each active lane has its own next PC. -/

namespace Sys2Proof.Machine

open Sys2Proof.Safety

theorem Tidied.placeEnts (is : List Nat) (xs : List Entry) (g : Group) : Tidied g (placeEnts g is xs) := by
  induction is generalizing g xs with
  | nil => exact Tidied.refl g
  | cons i is ih =>
    cases xs with
    | nil => exact Tidied.refl g
    | cons x xs => exact (Tidied.setEnt g i x).trans (ih xs _)

/-- Dividing an entry changes the split table alone. -/
theorem Tidied.regroup (g : Group) (e : Nat) (on : W64) (meet : Bool) : Tidied g (regroup g e on meet) := by
  unfold Machine.regroup
  simp only
  split
  · exact Tidied.setEnt _ _ _
  · split <;> split <;> first
      | exact (Tidied.setEnt _ _ _).trans (Tidied.placeEnts _ _ _)
      | exact Tidied.setEnt _ _ _

/-- The group as a control instruction leaves it, before its table settles. -/
def steering (c : Ctx) (g : Group) (next : Nat → W64) : Group :=
  updLanes (retired g c) c.act fun l x =>
    { x with pc := if c.on.getLsbD l then next l else c.nxt, dbg := false, denied := none }

theorem steering_rest (c : Ctx) (g : Group) (next : Nat → W64) :
    steering c g next = { g with lanes := (steering c g next).lanes, ents := (steering c g next).ents
                                 retired := (steering c g next).retired, released := (steering c g next).released
                                 spark := (steering c g next).spark } := by
  simp only [steering, retired, sBit, releaseRegs]
  split <;> split <;> rfl

/-- The settled group of a control instruction. -/
def steered (c : Ctx) (g : Group) (meet : Bool) (next : Nat → W64) : Group := tidy (regroup (steering c g next) c.e c.on meet)

theorem steered_tidied (c : Ctx) (g : Group) (meet : Bool) (next : Nat → W64) :
    Tidied (steering c g next) (steered c g meet next) := (Tidied.regroup _ _ _ _).trans (tidied _)

/-- A control instruction under a quiet core puts the settled group in place. -/
theorem retireTo_quiet (c : Ctx) (g : Group) (meet : Bool) (next : Nat → W64) (ht : tracing c.s g.core g.pasid = false)
    (hs : mapGet 0 c.s.tags (16 * g.gid + c.e) = 0)
    (hl : liveMask (steering c g next) ≠ 0) : retireTo c g meet next = setGroup c.s (steered c g meet next) := by
  have e : retireTo c g meet next = commit (sample c.s (steering c g next) c.e c.pc c.act [] 0) c.g (steered c g meet next)
      (some (c.e, c.nxt)) := rfl
  have h1 : (steering c g next).core = g.core := by rw [steering_rest]
  have h2 : (steering c g next).pasid = g.pasid := by rw [steering_rest]
  have h3 : (steering c g next).gid = g.gid := by rw [steering_rest]
  have t := steered_tidied c g meet next
  rw [e, sample_off _ _ _ _ _ (by rw [h3]; exact hs), commit_quiet]
  · rw [show (steered c g meet next).core = g.core by rw [t.rest]; exact h1,
      show (steered c g meet next).pasid = g.pasid by rw [t.rest]; exact h2]
    exact ht
  · rw [t.live]
    exact hl

/-- The lanes of a control instruction: ACT lanes move, nothing else of a lane changes. -/
theorem laneAt_steering (c : Ctx) (g : Group) (next : Nat → W64) (l : Nat) (h : l < g.lanes.length) :
    laneAt (steering c g next) l = if c.act.getLsbD l then
      { laneAt g l with pc := if c.on.getLsbD l then next l else c.nxt, dbg := false, denied := none } else laneAt g l := by
  have hl : (retired g c).lanes = g.lanes := retired_lanes c g
  have base : laneAt (retired g c) l = laneAt g l := by simp only [laneAt, hl]
  show laneAt (updLanes (retired g c) c.act _) l = _
  rw [laneAt_updLanes _ _ _ _ (by rw [hl]; exact h), base]

theorem laneAt_steering_out (c : Ctx) (g : Group) (next : Nat → W64) (l : Nat) (h : g.lanes.length ≤ l) :
    laneAt (steering c g next) l = laneAt g l := by
  have hl : (retired g c).lanes = g.lanes := retired_lanes c g
  have base : laneAt (retired g c) l = laneAt g l := by simp only [laneAt, hl]
  show laneAt (updLanes (retired g c) c.act _) l = _
  rw [laneAt_updLanes_out _ _ _ _ (by rw [hl]; exact h), base]

theorem steered_goesOn (c : Ctx) (g0 g : Group) (meet : Bool) (next : Nat → W64) (hl : g.lanes = g0.lanes) :
    GoesOn g0 (steered c g meet next) c.act (fun l => if c.on.getLsbD l then next l else c.nxt) := by
  have t := steered_tidied c g meet next
  have base : ∀ l, laneAt g l = laneAt g0 l := fun l => by simp only [laneAt, hl]
  have split : ∀ (P : Lane → Lane → Prop), (∀ x, P x x) → (∀ x p, P x { x with pc := p, dbg := false, denied := none }) →
      ∀ l, P (laneAt g0 l) (laneAt (steering c g next) l) := by
    intro P h1 h2 l
    by_cases h : l < g.lanes.length
    · rw [laneAt_steering c g next l h, base]
      split
      · exact h2 _ _
      · exact h1 _
    · rw [laneAt_steering_out c g next l (Nat.le_of_not_lt h), base]
      exact h1 _
  refine ⟨?_, fun l h => ?_, fun l => ?_, fun l => ?_, fun l => ?_, fun l => ?_, fun l h => ?_⟩
  · rw [t.count, ← hl]
    simp only [steering, updLanes, List.length_mapIdx, retired_lanes]
  · rw [(t.lane l).pc, laneAt_steering c g next l (by rw [hl]; exact h), base]
    split <;> rfl
  · rw [(t.lane l).stack]
    exact split (fun x y => y.stack = x.stack) (fun _ => rfl) (fun _ _ => rfl) l
  · rw [(t.lane l).sd]
    exact split (fun x y => y.sd = x.sd) (fun _ => rfl) (fun _ _ => rfl) l
  · rw [(t.lane l).exited]
    exact split (fun x y => y.exited = x.exited) (fun _ => rfl) (fun _ _ => rfl) l
  · rw [(t.lane l).park]
    exact split (fun x y => y.park = x.park) (fun _ => rfl) (fun _ _ => rfl) l
  · have hh := split (fun x y => y.held = x.held ∧ y.meet = x.meet) (fun _ => ⟨rfl, rfl⟩) (fun _ _ => ⟨rfl, rfl⟩) l
    exact ((t.lane l).free (hh.1.trans h)).2.trans hh.2

theorem steered_live (c : Ctx) (g0 g : Group) (meet : Bool) (next : Nat → W64) (hl : g.lanes = g0.lanes) (hw : g.w = g0.w) :
    liveMask (steered c g meet next) = liveMask g0 := by
  refine liveMask_congr ?_ (steered_goesOn c g0 g meet next hl).exited
  rw [(steered_tidied c g meet next).rest]
  show (steering c g next).w = g0.w
  rw [steering_rest]
  exact hw

/-- A control instruction keeps every register. -/
theorem steered_same (c : Ctx) (g : Group) (meet : Bool) (next : Nat → W64) (hp : g.pend = []) :
    SameRegs g (steered c g meet next) := by
  have t := (steered_tidied c g meet next).rest
  have r := steering_rest c g next
  obtain ⟨e1, e2⟩ := settled_regs r t
  have only : OnlyRegs g (steered c g meet next) := onlyRegs_of rfl r t
  have base : RegsAre g (landAll g) 0 {} := (Writes.idle g {} hp).regs
  have base' : RegsAre g g 0 {} := RegsAre.congr (landAll_settled hp).symm base
  exact ⟨only, RegsAre.congr e1 base', e2.trans hp⟩

/-- The live lanes of a control instruction are those before it. -/
theorem steering_live (c : Ctx) (g : Group) (next : Nat → W64) : liveMask (steering c g next) = liveMask g := by
  have h1 := (steered_tidied c g false next).live
  have h2 := steered_live c g g false next rfl rfl
  rw [← h1, h2]

/-- The frames of a control instruction are those before it, but for frames of dead lanes. -/
theorem steered_frames (c : Ctx) (g : Group) (meet : Bool) (next : Nat → W64) : FramesStay g (steered c g meet next) := by
  have f := (steered_tidied c g meet next).frames
  have hf : (steering c g next).frames = g.frames := by rw [steering_rest]
  have below := f.below
  have same := f.same
  rw [hf] at below same
  refine ⟨below, fun e => same fun x hx => ?_⟩
  rw [steering_live]
  exact e x hx

/-- A control instruction that can issue puts its settled group in place. -/
theorem retireTo_runs {i : Instr} {s : State} {cu : Cursor} {g : Group} (h : Runs i s cu g) (meet : Bool) (next : Nat → W64) :
    retireTo (runCtx i s cu g) g meet next = after s (steered (runCtx i s cu g) g meet next) := by
  have hl : liveMask (steering (runCtx i s cu g) g next) ≠ 0 := by
    rw [steering_live]
    exact h.alive
  rw [retireTo_quiet _ _ _ _ h.untraced h.unsampled hl]
  rfl

/-- A branch instruction from its body. -/
theorem branch_intro {i : Instr} {B : Ctx → State} {P : Group → W64 → Prop} {next : Group → W64 → Nat → W64}
    (he : ∀ s, exec i s = issue i s B)
    (hB : ∀ s cu g, Runs i s cu g → P g (active i g cu) →
      B (runCtx i s cu g) = retireTo (runCtx i s cu g) g false (next g (pcOf g cu))) : BranchWhen i P next := by
  intro s cu g h hP
  have ex : exec i s = .next (after s (steered (runCtx i s cu g) g false (next g (pcOf g cu)))) := by
    rw [he, issue_runs h, hB s cu g h hP, retireTo_runs h]
  have go := steered_goesOn (runCtx i s cu g) g g false (next g (pcOf g cu)) rfl
  exact ⟨_, ex, steered_same _ _ _ _ h.settled, go, steered_frames _ _ _ _⟩

end Sys2Proof.Machine
end

