-- ==== Sys2Proof/Tests/Slice0.lean ====
section
/-! SUPPORT. The model's own tests: ill-formed terms that the check refuses, words written out from the encodings of the spec, single
steps with results worked out from the spec, and for each statement a state and operands that meet its hypotheses together. -/

namespace Sys2Proof.Tests

set_option Elab.async false

open Sys2Proof.Machine Sys2Proof.Safety

/-! ## Well-formedness (05 R58, R64, R65, R74) -/

/-- A pair at an odd register. -/
theorem smoke_pair_odd : (Instr.add ⟨0, 7⟩ false true 1 2 4).WellFormed = false := by decide

/-- A uniform pair at an odd register. -/
theorem smoke_uniform_pair_odd : (Instr.arPtr ⟨0, 7⟩ 2 5).WellFormed = false := by decide

/-- A run of four registers at a register that is no multiple of 4. -/
theorem smoke_quad_unaligned : (Instr.ldImm ⟨0, 7⟩ .b128 2 1 0).WellFormed = false := by decide

/-- A guard of class Q from 4 to 6. -/
theorem smoke_guard_q : (Instr.sadd ⟨0, 4⟩ false 1 2 3).WellFormed = false := by decide

/-- EQP under a guard other than 7. -/
theorem smoke_eqp_guard : (Instr.eqp ⟨0, 2⟩ 1).WellFormed = false := by decide

/-- A uniform predicate from 4 to 6 as destination. -/
theorem smoke_uniform_predicate : (Instr.ssetp ⟨0, 7⟩ .eq 5 1 2).WellFormed = false := by decide

/-- A 32-bit shift by 32. -/
theorem smoke_shift_amount : (Instr.shlImm ⟨0, 7⟩ false 1 2 32).WellFormed = false := by decide

/-- FMIN of f64. -/
theorem smoke_fmin_f64 : (Instr.fmin ⟨0, 7⟩ .f64 2 4 6).WellFormed = false := by decide

/-- FENCE without a predecessor class. -/
theorem smoke_fence_empty : (Instr.fence ⟨0, 7⟩ .dev 0 3).WellFormed = false := by decide

/-- Region 0. -/
theorem smoke_region_zero : (Instr.rgnEnter ⟨0, 7⟩ 0).WellFormed = false := by decide

/-- SWR of a state register that cannot be written. -/
theorem smoke_swr_read_only : (Instr.swr ⟨0, 7⟩ 1 .lane).WellFormed = false := by decide

/-- A load with release order. -/
theorem smoke_load_release : (Instr.ldOrdered ⟨0, 7, 0⟩ 4 1 8 .rel .dev .b32).WellFormed = false := by decide

/-- A float AMO of 64 bits. -/
theorem smoke_amo_fadd64 : (Instr.amo ⟨0, 7, 0⟩ 4 1 8 10 .rlx .dev .b64 .fadd).WellFormed = false := by decide

/-- A device step has no encoding. -/
theorem smoke_device_step : (Instr.rebase).WellFormed = false := by decide

/-! ## Decoding (05 R63 to R73): words written out field by field from their encodings -/

/-- ADD.32 v5, v6, v7 under p2 with KA set: 10 010 001000 000101 000110 000111 000. -/
theorem test_decode_add : decode 0x91028C38 0 = .ok (.add ⟨2, 2⟩ false false 5 6 7) := by rfl

/-- MOVI v1, 8: major 0x08, minor 6, the immediate in A and B. -/
theorem test_decode_movi : decode 0x39008046 0 = .ok (.movi ⟨0, 7⟩ 1 8) := by rfl

/-- LD.b32 v8, [a3 + 4 × 4]: major 0x25, D 8, A 3, B 4, minor 4. -/
theorem test_decode_ld_imm : decode 0x3CA40624 0 = .ok (.ldImm ⟨0, 7⟩ .b32 8 3 4) := by rfl

/-- LD.b32 v4, [a1 + v5]: major 0x24. -/
theorem test_decode_ld_reg : decode 0x3C82022C 0 = .ok (.ldReg ⟨0, 7⟩ .b32 4 1 5) := by rfl

/-- ST.b32 v1, [a2 + 4 × 2]: major 0x27, minor 2. -/
theorem test_decode_st : decode 0x3CE08412 0 = .ok (.stImm ⟨0, 7⟩ .b32 1 2 2) := by rfl

/-- FFMA.f32 v10, v10, v2, v3 with KA, rounding rn: major 0x38 and an XF word with C 3. -/
theorem test_decode_ffma : decode 0xBF051410 0x03200000 = .ok (.ffma ⟨2, 7, 0⟩ .f32 10 10 2 3 .rn) := by rfl

/-- BRA −1 under p1: offset 0x3FFFF in D, A and B. -/
theorem test_decode_bra : decode 0x081FFFF9 0 = .ok (.bra ⟨0, 1⟩ 0x3FFFF) := by rfl

/-- AMO.add.b32.dev v1, [a2 + v3], v4: major 0x3E. -/
theorem test_decode_amo :
    decode 0x3FC0841A 0x041C0000 = .ok (.amo ⟨0, 7, 0⟩ 1 2 3 4 .rlx .dev .b32 .add) := by rfl

/-- LD.acq.dev.b32 v1, [a2 + v3]. -/
theorem test_decode_ld_acq : decode 0x3FC08418 0x005C0000 = .ok (.ldOrdered ⟨0, 7, 0⟩ 1 2 3 .acq .dev .b32) := by rfl

/-- XCP.in v8 from a1 to a5, layout a6, barrier a7, under q1: major 0x3C. -/
theorem test_decode_xcp : decode 0x0F840228 0x06700000 = .ok (.xcpIn ⟨0, 1, 0⟩ 8 1 5 6 7) := by rfl

/-- MMA.e4m3 into tile 2 from a2 and s4, barrier a7, M − 1 = 63, row 0, Z. -/
theorem test_decode_mma :
    decode 0x3F410420 0x007FC080 = .ok (.mma ⟨0, 7, 0⟩ .e4m3 2 2 4 0 7 63 0 true) := by rfl

/-- TST.e4m3 of one row of tile 2 at row 5 to a4 with s8, barrier a7. -/
theorem test_decode_tst :
    decode 0x3FA10801 0x08700560 = .ok (.tst ⟨0, 7, 0⟩ 2 4 0 8 7 0 5 .e4m3 .dyn .none) := by rfl

/-- FSETP.lt p2, v4, v5: major 0x1B. -/
theorem test_decode_fsetp : decode 0x3B61082A 0 = .ok (.fsetp ⟨0, 7⟩ .lt 2 4 5) := by rfl

/-- QPOP.wait s10, a4: major 0x31. -/
theorem test_decode_qpop : decode 0x3E250808 0 = .ok (.qpop ⟨0, 7⟩ 10 4 true) := by rfl

/-- SPAWN p1, s20, v8: major 0x30, minor 0. -/
theorem test_decode_spawn : decode 0x3E00A840 0 = .ok (.spawn ⟨0, 7⟩ 1 20 8) := by rfl

/-- PREEMPT s20, s4, s5. -/
theorem test_decode_preempt : decode 0x3E2A082E 0 = .ok (.preempt ⟨0, 7⟩ 20 4 5) := by rfl

/-- FREC.RD s20, s2. -/
theorem test_decode_frec : decode 0x3E4A0407 0 = .ok (.frecRd ⟨0, 7⟩ 20 2) := by rfl

/-- RGN.ENTER 7 and RGN.LEAVE 7: major 0x33. -/
theorem test_decode_rgn : decode 0x3E600039 0 = .ok (.rgnEnter ⟨0, 7⟩ 7) ∧ decode 0x3E60003A 0 = .ok (.rgnLeave ⟨0, 7⟩ 7) := ⟨rfl, rfl⟩

/-- Major 0x1E is reserved. -/
theorem test_decode_reserved : decode 0x3BC00000 0 = .error .unlisted := by rfl

/-- ADD.64 with an odd pair is listed and excluded. -/
theorem test_decode_excluded : decode (0x39000000 + 0x8000 + 1) 0 = .error .excluded := by rfl

/-! ## States the witnesses stand on -/

/-- A front group on a core, in system mode, W = 16, with both images at 0x100000. -/
def tGroup (core : Nat) : Group :=
  { newGroup 1 core 0 0 1 0 0 16 ⟨0, 0x100000, 0x100000, true, true, Config.ownTag, Config.ownTag, 64, 64⟩ (fullMask 16) 0x100000 0 aregZero 0 with sys := true, front := true }

/-- The cursor on entry 0 of that group. -/
def tCur : Cursor := ⟨1, 0, 0, 0⟩

/-- The reset state with one group, which issues. -/
def tState (g : Group) : State := { State.reset with groups := [g], cur := some tCur, nextId := 2 }

/-- What an issue at that entry asks, as a value that can be computed. -/
def tHere (i : Instr) (s : State) (g : Group) : Bool :=
  decide (s.cur = some tCur) && decide (getGroup s 1 = some g) && encOk g i (pcOf g tCur) && (!privileged i || g.sys) &&
    g.released == 0 && liveMask g != 0 && !tracing s g.core g.pasid && decide (mapGet 0 s.tags (16 * g.gid + 0) = 0)

/-- What `Runs` asks. -/
def tCan (i : Instr) (s : State) (g : Group) : Bool := tHere i s g && decide ((entAt g 0).busy = false) && decide (g.pend = [])

theorem tHere_ok {i : Instr} {s : State} {g : Group} (h : tHere i s g = true) :
    s.cur = some tCur ∧ getGroup s 1 = some g ∧ encOk g i (pcOf g tCur) = true ∧ (privileged i = true → g.sys = true) ∧
      g.released = 0 ∧ liveMask g ≠ 0 ∧ tracing s g.core g.pasid = false ∧ mapGet 0 s.tags (16 * g.gid + 0) = 0 := by
  simp only [tHere, Bool.and_eq_true, decide_eq_true_eq, Bool.or_eq_true, Bool.not_eq_true', bne_iff_ne, beq_iff_eq] at h
  obtain ⟨⟨⟨⟨⟨⟨⟨h1, h2⟩, h3⟩, h4⟩, h5⟩, h6⟩, h7⟩, h8⟩ := h
  exact ⟨h1, h2, h3, fun p => h4.resolve_left (by simp [p]), h5, h6, h7, h8⟩

theorem tRuns {i : Instr} {s : State} {g : Group} (h : tCan i s g = true) : Runs i s tCur g := by
  simp only [tCan, Bool.and_eq_true, decide_eq_true_eq] at h
  obtain ⟨⟨h0, hb⟩, hp⟩ := h
  obtain ⟨h1, h2, h3, h4, h5, h6, h7, h8⟩ := tHere_ok h0
  exact ⟨h1, h2, h3, h4, hb, hp, h5, h6, h7, h8⟩

/-- Every instruction of a list can issue in a state. -/
theorem tAll {l : List Instr} {g : Group} (h : (l.all fun i => tCan i (tState g) g) = true) :
    ∀ i ∈ l, Runs i (tState g) tCur g := fun i hi => tRuns (List.all_eq_true.mp h i hi)

/-- An instruction can issue where `P` holds of what it sees. -/
def Met (i : Instr) (P : Ctx → Prop) : Prop := ∃ s cu g, Runs i s cu g ∧ P (runCtx i s cu g)

theorem tMet {i : Instr} {P : Ctx → Prop} (s : State) (g : Group) (h : tCan i s g = true)
    (p : P (runCtx i s tCur g)) : Met i P := ⟨s, tCur, g, tRuns h, p⟩

/-! ## Register instructions: each of them can issue -/

theorem wit_VectorArithmeticGivesExactResult : ∀ i ∈ ([.add ⟨0, 7⟩ true false 1 2 3, .add ⟨0, 7⟩ false true 62 2 4, .addImm ⟨0, 7⟩ false 1 2 63,
    .addImm ⟨0, 7⟩ true 2 4 32, .sub ⟨0, 7⟩ false false 1 1 1, .sub ⟨0, 7⟩ true true 2 4 6, .mul ⟨0, 7⟩ false false 1 2 3, .mul ⟨0, 7⟩ true true 2 4 6,
    .mad ⟨0, 7⟩ true false 1 2 3, .mad ⟨0, 7⟩ false true 2 4 6] : List Instr), Runs i (tState (tGroup 0)) tCur (tGroup 0) := tAll (by decide)

theorem wit_VectorMultiplyHighDivideMinMaxAbs : ∀ i ∈ ([.mulh ⟨0, 7⟩ true false 1 2 3, .mulh ⟨0, 7⟩ false true 2 4 6, .idiv ⟨0, 7⟩ false false 1 2 3,
    .idiv ⟨0, 7⟩ true true 2 4 6, .irem ⟨0, 7⟩ true false 1 2 3, .irem ⟨0, 7⟩ false true 2 4 6, .min ⟨0, 7⟩ true false 1 2 3, .min ⟨0, 7⟩ false true 2 4 6,
    .max ⟨0, 7⟩ true false 1 2 3, .max ⟨0, 7⟩ false true 62 4 6, .abs ⟨0, 7⟩ 1 2, .absSat ⟨0, 7⟩ 1 2, .abs64 ⟨0, 7⟩ 2 4, .absSat64 ⟨0, 7⟩ 2 62] : List Instr),
    Runs i (tState (tGroup 0)) tCur (tGroup 0) := tAll (by decide)

theorem wit_VectorLogicAndMove : ∀ i ∈ ([.and ⟨0, 7⟩ 1 2 3, .or ⟨0, 0⟩ 1 2 3, .xor ⟨2, 7⟩ 63 2 3, .andn ⟨1, 7⟩ 1 2 3, .sel ⟨3, 7⟩ 1 2 3, .mov ⟨0, 7⟩ 0 63,
    .mov64 ⟨0, 7⟩ 62 0, .movi ⟨0, 7⟩ 1 0x800, .ldi ⟨0, 7⟩ 1 0xFFFFFFFF] : List Instr), Runs i (tState (tGroup 0)) tCur (tGroup 0) := tAll (by decide)

theorem wit_VectorShifts : ∀ i ∈ ([.shl ⟨0, 7⟩ false 1 2 3, .shl ⟨0, 7⟩ true 2 4 3, .shr ⟨0, 7⟩ false 1 2 3, .shr ⟨0, 7⟩ true 2 4 3, .sar ⟨0, 7⟩ false 1 2 3,
    .sar ⟨0, 7⟩ true 2 4 63, .rol ⟨0, 7⟩ 1 2 3, .shlImm ⟨0, 7⟩ false 1 2 31, .shlImm ⟨0, 7⟩ true 2 4 63, .shrImm ⟨0, 7⟩ false 1 2 0, .shrImm ⟨0, 7⟩ true 2 4 63,
    .sarImm ⟨0, 7⟩ false 1 2 31, .sarImm ⟨0, 7⟩ true 2 4 32, .rolImm ⟨0, 7⟩ false 1 2 31, .rolImm ⟨0, 7⟩ true 2 4 63] : List Instr),
    Runs i (tState (tGroup 0)) tCur (tGroup 0) := tAll (by decide)

theorem wit_VectorBitFieldsAndCounts : ∀ i ∈ ([.bfxU ⟨0, 7⟩ 1 2 3, .bfx ⟨0, 7⟩ 1 2 3, .bfi ⟨0, 7⟩ 1 2 3, .popc ⟨0, 7⟩ 1 2, .popc64 ⟨0, 7⟩ 1 62, .clz ⟨0, 7⟩ 1 2,
    .clz64 ⟨0, 7⟩ 1 2, .ctz ⟨0, 7⟩ 1 2, .ctz64 ⟨0, 7⟩ 1 2, .brev ⟨0, 7⟩ 1 2, .brev64 ⟨0, 7⟩ 2 4] : List Instr),
    Runs i (tState (tGroup 0)) tCur (tGroup 0) := tAll (by decide)

theorem wit_LanePredicates : ∀ i ∈ ([.isetp ⟨0, 7⟩ false .ltu 7 2 3, .isetp ⟨0, 0⟩ true .le 6 2 4, .pand ⟨0, 7⟩ 1 7 3, .por ⟨0, 7⟩ 7 2 3, .pxor ⟨0, 7⟩ 1 2 3,
    .selp ⟨0, 7⟩ 1 2 7] : List Instr), Runs i (tState (tGroup 0)) tCur (tGroup 0) := tAll (by decide)

theorem wit_UniformInstructions : ∀ i ∈ ([.sadd ⟨0, 7⟩ false 1 2 3, .sadd ⟨0, 3⟩ true 2 4 6, .ssub ⟨0, 7⟩ false 1 2 3, .ssub ⟨0, 7⟩ true 62 4 6, .smul ⟨0, 7⟩ false 1 2 3,
    .smul ⟨0, 7⟩ true 2 4 6, .sand ⟨0, 7⟩ false 1 2 3, .sand ⟨0, 7⟩ true 2 4 6, .sor ⟨0, 7⟩ false 1 2 3, .sor ⟨0, 7⟩ true 2 4 6, .sxor ⟨0, 7⟩ false 1 2 3,
    .sxor ⟨0, 7⟩ true 2 4 6, .sshl ⟨0, 7⟩ false 1 2 3, .sshl ⟨0, 7⟩ true 2 4 63, .sshr ⟨0, 7⟩ false 1 2 3, .sshr ⟨0, 7⟩ true 2 4 3, .smov ⟨0, 7⟩ false 1 2,
    .smov ⟨0, 7⟩ true 2 4, .smovi ⟨0, 7⟩ 1 0x800, .smoviX ⟨0, 7⟩ 1 0xFFFFFFFF, .saddImm ⟨0, 7⟩ 1 2 32, .saddX ⟨0, 7⟩ 1 2 0x80000000, .rdlane ⟨0, 7⟩ 1 2 3,
    .rdlaneImm ⟨0, 7⟩ 1 2 63, .ssetp ⟨0, 7⟩ .lt 7 2 3] : List Instr), Runs i (tState (tGroup 0)) tCur (tGroup 0) := tAll (by decide)

/-- A group whose a1 to a4 stand at the ends of their ranges, i1 at the last register, and whose s2:3 and s4:5 hold addresses. -/
def tRegs : Group := { tGroup 0 with
  a := [(1, ⟨0x1000, 0x1000, 0x2000, 0, 15⟩), (2, ⟨0x2000, 0x1000, 0x2000, 1, 15⟩), (3, ⟨0x101F, 0x1000, 0x2000, 2, 15⟩), (15, aregZero)]
  i := [(1, ⟨2, 62⟩), (2, ⟨2, 0⟩)]
  s := [(2, 0x1000), (4, 0x2000), (6, 0xFFFFFFFF), (8, 0x1000)] }

/-- A register instruction can issue where its condition holds. -/
def MetWhen (i : Instr) (P : State → Group → W64 → Prop) : Prop := ∃ s cu g, Runs i s cu g ∧ P s g (active i g cu)

theorem tMetWhen {i : Instr} {P : State → Group → W64 → Prop} (s : State) (g : Group) (h : tCan i s g = true)
    (p : P s g (active i g tCur)) : MetWhen i P := ⟨s, tCur, g, tRuns h, p⟩

/-- The address-register instructions at the ends of their ranges: an empty range, the pointer moved to BASE and to LIMIT, the
narrowing that keeps the whole range; the index registers at the last register. -/
theorem wit_AddressAndIndexRegisters :
    MetWhen (.arSetGlobal ⟨0, 7⟩ 5 2 2) (fun _ g _ => getS2 g 2 ≤ getS2 g 2) ∧
    MetWhen (.arSetVault ⟨0, 7⟩ 5 2 4) (fun _ g _ => getS2 g 2 ≤ getS2 g 4) ∧
    MetWhen (.arSetSystem ⟨0, 7⟩ 5 2 4) (fun _ g on => on ≠ 0 ∧ getS2 g 2 ≤ getS2 g 4) ∧
    MetWhen (.arPtr ⟨0, 7⟩ 1 4) (fun _ g on => on ≠ 0 ∧ InRange (getA g 1) (getS2 g 4).toNat) ∧
    MetWhen (.arAdv ⟨0, 7⟩ 1 8) (fun _ g on => on ≠ 0 ∧ InRange (getA g 1) ((getA g 1).ptr.toNat + (getS g 8).toInt)) ∧
    MetWhen (.arAdv ⟨0, 7⟩ 2 6) (fun _ g on => on ≠ 0 ∧ InRange (getA g 2) ((getA g 2).ptr.toNat + (getS g 6).toInt)) ∧
    MetWhen (.arAdvImm ⟨0, 7⟩ 3 0x21) (fun _ g on => on ≠ 0 ∧ InRange (getA g 3) ((getA g 3).ptr.toNat + (0x21 : BitVec 6).toInt)) ∧
    MetWhen (.arAdvX ⟨0, 7⟩ 2 0xFFFFF000) (fun _ g on => on ≠ 0 ∧ InRange (getA g 2) ((getA g 2).ptr.toNat + (0xFFFFF000 : W32).toInt)) ∧
    MetWhen (.arRd ⟨0, 7⟩ 10 3 .attr) (fun _ _ on => on ≠ 0) ∧
    MetWhen (.arNarrow ⟨0, 7⟩ 1 2 4) (fun _ g on => on ≠ 0 ∧ ((getA g 1).base ≤ getS2 g 2 ∧ getS2 g 2 ≤ getS2 g 4 ∧
      getS2 g 4 ≤ (getA g 1).limit)) ∧
    MetWhen (.arPerm ⟨0, 7⟩ 1 3) (fun _ _ on => on ≠ 0) ∧
    MetWhen (.ixSet ⟨0, 7⟩ 3 62 1) (fun _ g on => on ≠ 0 ∧ 62 + (1 + 1) ≤ regsOf g) ∧
    MetWhen (.ixAdv ⟨0, 7⟩ 1 0x22) (fun _ g on => on ≠ 0 ∧ 0 ≤ ((getI g 1).base.toNat : Int) + (0x22 : BitVec 6).toInt ∧
      ((getI g 1).base.toNat : Int) + (0x22 : BitVec 6).toInt + (getI g 1).count.toNat ≤ regsOf g) ∧
    MetWhen (.movxRead ⟨0, 7⟩ 3 1 1) (fun _ g on => on ≠ 0 ∧ 1 < (getI g 1).count.toNat) ∧
    MetWhen (.movxWrite ⟨0, 7⟩ 1 3 1) (fun _ g on => on ≠ 0 ∧ 1 < (getI g 1).count.toNat) := by
  refine ⟨?_, ?_, ?_, ?_, ?_, ?_, ?_, ?_, ?_, ?_, ?_, ?_, ?_, ?_, ?_⟩ <;> exact tMetWhen (tState tRegs) tRegs (by decide) (by decide)

/-- A slice whose budget is limited. -/
def tSlice : Group := { tGroup 0 with slice := some ⟨0, 0, 0, true⟩, s := [(2, 5)] }

theorem wit_StateRegisters :
    (∀ i ∈ ([.srd ⟨0, 7⟩ 2 .lane, .srd ⟨0, 7⟩ 2 .lt, .srd ⟨0, 7⟩ 2 .dtime, .srd ⟨0, 7⟩ 2 .group, .srd ⟨0, 7⟩ 2 .deadline, .srd ⟨0, 7⟩ 2 .budget,
      .swr ⟨0, 7⟩ 2 .rmode, .swr ⟨0, 7⟩ 2 .tbase, .swr ⟨0, 7⟩ 2 .budget] : List Instr), Runs i (tState tSlice) tCur tSlice) ∧
    active (.swr ⟨0, 7⟩ 2 .budget) tSlice tCur ≠ 0 ∧ tSlice.slice = some ⟨0, 0, 0, true⟩ := ⟨tAll (by decide), by decide, rfl⟩

/-! ## Floating point, packing and cross-lane instructions -/

theorem wit_FloatArithmetic : ∀ i ∈ ([.fadd ⟨0, 7⟩ .f32 1 2 3, .fadd ⟨0, 7⟩ .f64 2 4 6, .fsub ⟨0, 7⟩ .f16x2 1 2 3, .fmul ⟨0, 7⟩ .bf16x2 1 2 3, .fmac ⟨0, 7⟩ .f32 1 2 3,
    .ffma ⟨0, 7, 0⟩ .f64 2 4 6 8 .rz, .fmin ⟨0, 7⟩ .f32 1 2 3, .fmax ⟨0, 7⟩ .f16x2 1 2 3, .fscale ⟨0, 7⟩ .f64 2 4 3] : List Instr),
    Runs i (tState (tGroup 0)) tCur (tGroup 0) := tAll (by decide)

theorem wit_FloatCompareAndClass : ∀ i ∈ ([.fsetp ⟨0, 7⟩ .nan 1 2 3, .fsetpF64 ⟨0, 7⟩ .num 6 2 4, .fclass ⟨0, 7⟩ false 1 2, .fclass ⟨0, 7⟩ true 1 2] : List Instr),
    Runs i (tState (tGroup 0)) tCur (tGroup 0) := tAll (by decide)

theorem wit_FloatFunctions : ∀ i ∈ ([.fdiv ⟨0, 7⟩ false 1 2 3, .fdiv ⟨0, 7⟩ true 2 4 6, .fsqrt ⟨0, 7⟩ .f64 2 4, .frcp ⟨0, 7⟩ .f32 1 2, .frcp ⟨0, 7⟩ .bf16x2 1 2,
    .frsq ⟨0, 7⟩ .f32 1 2, .fexp2 ⟨0, 7⟩ .f16x2 1 2, .flog2 ⟨0, 7⟩ .f32 1 2, .ftanh ⟨0, 7⟩ .f32 1 2, .fsin ⟨0, 7⟩ .f32 1 2, .fcos ⟨0, 7⟩ .f32 1 2, .fsigm ⟨0, 7⟩ .f32 1 2,
    .frndRn ⟨0, 7⟩ .f32 1 2, .frndRz ⟨0, 7⟩ .f32 1 2, .frndRu ⟨0, 7⟩ .f16x2 1 2, .frndRd ⟨0, 7⟩ .f32 1 2] : List Instr),
    Runs i (tState (tGroup 1)) tCur (tGroup 1) := tAll (by decide)

theorem wit_FloatConversions : ∀ i ∈ ([.cvtI2F ⟨0, 7⟩ .rn 1 2 ⟨.u64, .f32⟩, .cvtF2I ⟨0, 7⟩ .rz 2 4 ⟨.f64, .s64⟩, .cvtF2F ⟨0, 7⟩ .dyn 1 2 ⟨.f64, .bf16⟩] : List Instr),
    Runs i (tState (tGroup 0)) tCur (tGroup 0) := tAll (by decide)

theorem wit_PackScaleMix : ∀ i ∈ ([.pack8 ⟨0, 7⟩ 1 8 ⟨.rs, .e5m2⟩, .unpk8 ⟨0, 7⟩ 60 2 .e4m3, .pack4 ⟨0, 7⟩ 1 56 ⟨.rn⟩, .unpk4 ⟨0, 7⟩ 56 2,
    .scaleBlk ⟨0, 7⟩ 2 4 ⟨.rn, false, .fp4⟩, .rmix ⟨0, 7⟩ 2 4 6] : List Instr), Runs i (tState (tGroup 0)) tCur (tGroup 0) := tAll (by decide)

theorem wit_Shuffles : ∀ i ∈ ([.shflIdx ⟨0, 7⟩ 1 2 3, .shflUp ⟨0, 7⟩ 1 2 3, .shflDown ⟨0, 7⟩ 1 2 3, .shflXor ⟨0, 7⟩ 1 2 3, .shflIdxImm ⟨0, 7⟩ 1 2 63,
    .shflUpImm ⟨0, 7⟩ 1 2 1, .shflDownImm ⟨0, 7⟩ 1 2 15, .shflXorImm ⟨0, 7⟩ 1 1 16] : List Instr), Runs i (tState (tGroup 0)) tCur (tGroup 0) := tAll (by decide)

theorem wit_VotesAndReductions : ∀ i ∈ ([.voteAll ⟨0, 7⟩ 1 2, .voteAny ⟨0, 7⟩ 7 2, .voteBal ⟨0, 7⟩ 2 7, .matchLanes ⟨0, 7⟩ 2 5, .elect ⟨0, 7⟩ 1,
    .red ⟨0, 7⟩ 1 2 (.add .f32), .red ⟨0, 7⟩ 1 2 .xor, .scan ⟨0, 7⟩ 1 2 ⟨true, .max .s32⟩] : List Instr), Runs i (tState (tGroup 0)) tCur (tGroup 0) := tAll (by decide)

/-! ## Control flow -/

/-- A group whose lane registers v2:3 hold an aligned target, with two calls on the stack of every lane, the last returning to
0x100010. -/
def tCalls : Group := { tGroup 0 with
  v := (List.range 16).map fun l => (128 + l, 0x100020)
  lanes := (List.range 16).map fun _ => { newLane 0x100000 false with stack := [⟨0x100008, Config.none64⟩, ⟨0x100010, 0x100030⟩] } }

theorem wit_Branches :
    (∀ i ∈ ([.bra ⟨0, 7⟩ 0x20000, .bru ⟨0, 7⟩ 0x1FFFF, .brx ⟨0, 7⟩ 2, .nop ⟨0, 7⟩, .yield ⟨0, 7⟩] : List Instr), Runs i (tState tCalls) tCur tCalls) ∧
    active (.brx ⟨0, 7⟩ 2) tCalls tCur ≠ 0 ∧ (∀ l < tCalls.w, targetAligned tCalls (rd64 tCalls 2 l) = true) ∧
    tCalls.frames.getLast? = none := ⟨tAll (by decide), by decide, by decide, rfl⟩

/-- Calls from stacks with two entries, one free entry included, and returns from them. -/
theorem wit_CallsAndReturns :
    (∀ i ∈ ([.call ⟨0, 7⟩ 2, .callx ⟨0, 7⟩ 2, .ret ⟨0, 7⟩] : List Instr), Runs i (tState tCalls) tCur tCalls) ∧
    active (.ret ⟨0, 7⟩) tCalls tCur ≠ 0 ∧ (entAt tCalls 0).busy = false ∧
    ∀ l < tCalls.w, targetAligned tCalls (offTarget tCalls 0x100000 2) = true ∧ targetAligned tCalls (rd64 tCalls 2 l) = true ∧
      (laneAt tCalls l).stack.length < 4 ∧ (laneAt tCalls l).stack.getLast? = some ⟨0x100010, 0x100030⟩ ∧
      targetAligned tCalls 0x100010 = true := ⟨tAll (by decide), by decide, rfl, by decide⟩

/-- MEET on every lane; EXIT of the lanes of p0, lane 0 to 7, where the other lanes live on. -/
theorem wit_MeetingAddressesAndExit :
    let g := { tCalls with p := [(0, 0xFF)] }
    (∀ i ∈ ([.meet ⟨0, 7⟩ 4, .meetX ⟨0, 7⟩ 2, .meetR ⟨0, 7⟩, .exit ⟨0, 0⟩] : List Instr), Runs i (tState g) tCur g) ∧
    (∀ l < g.w, targetAligned g (rd64 g 2 l) = true) ∧ active (.exit ⟨0, 0⟩) g tCur = 0xFF ∧
    liveMask g &&& ~~~ active (.exit ⟨0, 0⟩) g tCur ≠ 0 ∧ (∀ l < g.w, (laneAt g l).park = .none) ∧
    ∀ x ∈ (tState g).groups, x.gid = tCur.gid := ⟨tAll (by decide), by decide, by decide, by decide, by decide, by decide⟩

/-! ## Loads, stores and atomics -/

/-- Memory with the tables that map 0x100000 to 0x101000 to itself for PASID 0. -/
def tMem : List Host.Cell := fetchTables.foldl (fun m x => writeN m x.1 8 x.2) []

/-- A state with those tables. -/
def tMapped (g : Group) : State := { tState g with mem := tMem }

/-- A group with global, vault and system registers a1, a2 and a3 of 256 bytes, an unmapped a4, a misaligned a5, and p0 true in its
first and its last lane; a6 is a6 of a group that may only read. -/
def tAccess : Group := { tGroup 0 with
  a := [(1, ⟨0x100000, 0x100000, 0x100100, 0, 15⟩), (2, ⟨0x1000, 0x1000, 0x1100, 1, 15⟩), (3, ⟨0x200000, 0x200000, 0x200100, 2, 15⟩),
    (5, ⟨0x100002, 0x100000, 0x100100, 0, 15⟩), (6, ⟨0x100000, 0x100000, 0x100100, 0, 1⟩)]
  p := [(0, 0x8001)] }

/-- A state where an instruction can issue and `Q` holds. -/
def MetAt (i : Instr) (Q : State → Cursor → Group → Prop) : Prop := ∃ s cu g, Runs i s cu g ∧ Q s cu g

theorem tAt {i : Instr} {Q : State → Cursor → Group → Prop} (s : State) (g : Group) (h : tCan i s g = true) (q : Q s tCur g) :
    MetAt i Q := ⟨s, tCur, g, tRuns h, q⟩

/-- What a load that sends accesses asks. -/
abbrev LoadSends (i : Instr) (a : BitVec 4) (off : Group → Nat → Int) (n : Nat) (home : State → Group → Bool) (nt acq : Bool)
    (s : State) (cu : Cursor) (g : Group) : Prop :=
  (checked i s cu g a off n .load).2.1 = [] ∧
    ∃ x ∈ (checked i s cu g a off n .load).2.2.flatMap fun q => (partsOf n).map fun p =>
      loadAcc (checked i s cu g a off n .load).1 q n p (isSys (getA g a.toNat)) (home s g) nt acq, accOpen x = true

/-- What a uniform load that sends its access asks. -/
abbrev UniSends (i : Instr) (a : BitVec 4) (off : Group → Int) (n : Nat) (s : State) (cu : Cursor) (g : Group) : Prop :=
  active i g cu ≠ 0 ∧ (checkedUni i s cu g a off n .load).2.1 = [] ∧
    ∃ x ∈ (checkedUni i s cu g a off n .load).2.2.flatMap fun q => (partsOf n).map fun p =>
      loadAcc (checkedUni i s cu g a off n .load).1 q n p (isSys (getA g a.toNat)) false false false, accOpen x = true

/-- Loads from global memory and from a vault, in the first and the last lane, up to the last byte of a range. -/
theorem wit_LoadsSendTheirAccesses :
    MetAt (.ldReg ⟨0, 0⟩ .b128 4 1 8) (LoadSends (.ldReg ⟨0, 0⟩ .b128 4 1 8) 1 (fun g l => (rd32 g 8 l).toInt) 16 (fun _ _ => false) false false) ∧
    MetAt (.ldImm ⟨0, 0⟩ .b8 4 2 31) (LoadSends (.ldImm ⟨0, 0⟩ .b8 4 2 31) 2 (fun _ _ => 31) 1 (fun _ _ => false) false false) ∧
    MetAt (.ldNt ⟨0, 0⟩ .b64 4 1 8) (LoadSends (.ldNt ⟨0, 0⟩ .b64 4 1 8) 1 (fun g l => (rd32 g 8 l).toInt) 8 (fun _ _ => false) true false) ∧
    MetAt (.ldOrdered ⟨0, 0, 0⟩ 4 1 8 .acq .dev .b32)
      (LoadSends (.ldOrdered ⟨0, 0, 0⟩ 4 1 8 .acq .dev .b32) 1 (fun g l => (rd32 g 8 l).toInt) 4 (fun s g => wideScope s g .dev) false true) ∧
    MetAt (.ldsImm ⟨0, 7⟩ true 2 1 31) (UniSends (.ldsImm ⟨0, 7⟩ true 2 1 31) 1 (fun _ => 31 * 8) 8) ∧
    MetAt (.ldsReg ⟨0, 7⟩ false 2 1 8) (UniSends (.ldsReg ⟨0, 7⟩ false 2 1 8) 1 (fun g => (getS g 8).toInt) 4) := by
  refine ⟨?_, ?_, ?_, ?_, ?_, ?_⟩ <;> exact tAt (tMapped tAccess) tAccess (by decide) (by decide)

/-- An access of lane 15 of the entry that the cursor stands on, answered. -/
def tDone (op : AccOp) (v : W64) : Acc :=
  { gid := 1, ent := 0, lane := 15, part := 0, core := 0, pasid := 0, op := op, place := .mem 0x100000, va := 0x100000, n := 4, wide := false, data := 0, lt := 0
    renew := false, nt := false, acq := false, sys := false, tg := 0, port := 31, rst := 5, perm := 1, st := .done v 0 (2 ^ 64) true }

/-- A group on a core that waits in an instruction of its last lane, with results `ds` outstanding. -/
def tBusy (core : Nat) (i : Instr) (ds : List Dest) : Group :=
  let g : Group := { tGroup core with a := tAccess.a, p := [(0, 0x8000)] }
  waiting i tCur g ds

/-- The state where that group's access is answered. -/
def tBack (core : Nat) (i : Instr) (ds : List Dest) (op : AccOp) (v : W64) : State :=
  { tMapped (tBusy core i ds) with accs := [tDone op v] }

/-- What `Resumes` and `Answered` ask, as a value that can be computed. -/
def tGoesOn (core : Nat) (i : Instr) (ds : List Dest) (op : AccOp) (v : W64) : Bool :=
  let s := tBack core i ds op v
  let g := tBusy core i ds
  tHere i s g && decide ((entAt g 0).busy = true) && decide ((mapGet noFlight g.flights 0).hint = 0) &&
    decide (seenOf g i = (mapGet noFlight g.flights 0).seen) &&
    decide (g.pend = if latent g then ds.map fun d => ⟨(mapGet noFlight g.flights 0).tok, d, none⟩ else []) && decide (g.kept = []) &&
    decide (15 < g.w) && decide (g.lt ≤ 2 ^ 64) && decide (mine s tCur = [tDone op v])

/-- An instruction whose accesses are answered, where `P` holds of the state, its kept issue, its group and its accesses. -/
def MetBack (i : Instr) (ds : List Acc → List Dest) (P : State → Flight → Group → List Acc → Prop) : Prop :=
  ∃ s cu g fl, Resumes i s cu g fl (ds (mine s cu)) ∧ Answered g (mine s cu) ∧ mine s cu ≠ [] ∧ P s fl g (mine s cu)

theorem tBack_ok {i : Instr} {ds : List Acc → List Dest} {P : State → Flight → Group → List Acc → Prop} (core : Nat) (op : AccOp) (v : W64)
    (h : tGoesOn core i (ds [tDone op v]) op v = true)
    (p : P (tBack core i (ds [tDone op v]) op v) (mapGet noFlight (tBusy core i (ds [tDone op v])).flights 0) (tBusy core i (ds [tDone op v])) [tDone op v]) : MetBack i ds P := by
  simp only [tGoesOn, Bool.and_eq_true, decide_eq_true_eq] at h
  obtain ⟨⟨⟨⟨⟨⟨⟨⟨h0, hb⟩, hh⟩, hs⟩, hp⟩, hk⟩, hw⟩, hl⟩, hm⟩ := h
  obtain ⟨h1, h2, h3, h4, h5, h6, h7, h8⟩ := tHere_ok h0
  refine ⟨tBack core i (ds [tDone op v]) op v, tCur, tBusy core i (ds [tDone op v]), mapGet noFlight (tBusy core i (ds [tDone op v])).flights 0,
    ?_, ?_, ?_, ?_⟩
  · rw [hm]
    exact ⟨h1, h2, h3, h4, hb, rfl, hh, fun _ _ => hs, hp, hk, h5, h6, h7, h8⟩
  · rw [hm]
    refine ⟨fun a ha => ?_, fun a ha => ?_⟩ <;> rw [List.mem_singleton] at ha <;> subst ha
    · exact ⟨v, 0, 2 ^ 64, true, rfl, fun _ _ => hl⟩
    · exact ⟨hw, (by decide : (15 : Nat) < 64)⟩
  · rw [hm]; exact List.cons_ne_nil _ _
  · rw [hm]; exact p

/-- Loads that take up their values, on an L-core, and one on a D-core. -/
theorem wit_LoadsTakeUpTheirValues :
    MetBack (.ldReg ⟨0, 0⟩ .i16 4 1 8) (laneDests 4 1) (fun _ _ _ _ => True) ∧ MetBack (.ldImm ⟨0, 0⟩ .b32 4 1 63) (laneDests 4 1) (fun _ _ _ _ => True) ∧
    MetBack (.ldNt ⟨0, 0⟩ .b32 4 1 8) (laneDests 4 1) (fun _ _ _ _ => True) ∧
    MetBack (.ldOrdered ⟨0, 0, 0⟩ 4 1 8 .acq .dev .b32) (laneDests 4 1) (fun _ _ _ _ => True) ∧
    MetBack (.ldsImm ⟨0, 7⟩ false 2 1 0) (fun _ => uniDests 2 false) (fun _ _ _ as => as ≠ []) ∧
    MetBack (.ldsReg ⟨0, 7⟩ true 2 1 8) (fun _ => uniDests 2 true) (fun _ _ _ as => as ≠ []) :=
  ⟨tBack_ok 0 .load 0x80 (by decide +kernel) trivial, tBack_ok 1 .load 0x80 (by decide +kernel) trivial, tBack_ok 0 .load 0x80 (by decide +kernel) trivial,
    tBack_ok 1 .load 0x80 (by decide +kernel) trivial, tBack_ok 0 .load 0x80 (by decide +kernel) (List.cons_ne_nil _ _),
    tBack_ok 1 .load 0x80 (by decide +kernel) (List.cons_ne_nil _ _)⟩

theorem wit_TableBranch :
    MetAt (.jtb ⟨0, 0⟩ 8 1) (fun s cu g =>
      let r := checked (.jtb ⟨0, 0⟩ 8 1) s cu g 1 (fun g l => 4 * ((rd32 g 8 l).toNat : Int)) 4 .rd
      r.2.1 = [] ∧ ∃ q ∈ r.2.2, accOpen (loadAcc r.1 q 4 0 (isSys (getA g 1)) false false false) = true) ∧
    MetBack (.jtb ⟨0, 0⟩ 8 1) (fun _ => []) (fun _ fl g as => fl.causes = [] ∧ fl.on = maskOf (as.map (·.lane)) ∧
      ∀ y ∈ as, targetAligned g (imageStart g + BitVec.ofNat 64 (accVal as y.lane)) = true) :=
  ⟨tAt (tMapped tAccess) tAccess (by decide) (by decide), tBack_ok 0 .load 0x80 (by decide +kernel) (by decide +kernel)⟩

/-- A place outside the register window. -/
def tOut : Place → Bool
  | .mem pa => !inRegs pa
  | _ => true

theorem tPlain {rs : List Req} {n : Nat} (h : ∀ q ∈ rs, ∀ p ∈ partsOf n, tOut (placeAdd q.place (8 * p)) = true) : Plain rs n := by
  intro q hq p hp pa e
  have := h q hq p hp
  rw [e] at this
  simpa [tOut] using this

/-- What a store that posts asks. -/
abbrev StorePosts (i : Instr) (a : BitVec 4) (off : Group → Nat → Int) (n : Nat) (s : State) (cu : Cursor) (g : Group) : Prop :=
  (checked i s cu g a off n .store).2.1 = [] ∧ isSys (getA g a.toNat) = false ∧ (checked i s cu g a off n .store).2.2 ≠ [] ∧
    Plain (checked i s cu g a off n .store).2.2 n

/-- What a uniform store that posts asks. -/
abbrev UniPosts (i : Instr) (a : BitVec 4) (off : Group → Int) (n : Nat) (s : State) (cu : Cursor) (g : Group) : Prop :=
  (checkedUni i s cu g a off n .store).2.1 = [] ∧ isSys (getA g a.toNat) = false ∧ (checkedUni i s cu g a off n .store).2.2 ≠ [] ∧
    Plain (checkedUni i s cu g a off n .store).2.2 n

theorem wit_StoresPostTheirBytes :
    MetAt (.stReg ⟨0, 0⟩ .b128 4 1 8) (StorePosts (.stReg ⟨0, 0⟩ .b128 4 1 8) 1 (fun g l => (rd32 g 8 l).toInt) 16) ∧
    MetAt (.stImm ⟨0, 0⟩ .b32 4 2 31) (StorePosts (.stImm ⟨0, 0⟩ .b32 4 2 31) 2 (fun _ _ => 31 * 4) 4) ∧
    MetAt (.stNt ⟨0, 0⟩ .b32 4 1 8) (StorePosts (.stNt ⟨0, 0⟩ .b32 4 1 8) 1 (fun g l => (rd32 g 8 l).toInt) 4) ∧
    MetAt (.stOrdered ⟨0, 0, 0⟩ 4 1 8 .rel .grp .b8) (StorePosts (.stOrdered ⟨0, 0, 0⟩ 4 1 8 .rel .grp .b8) 1
      (fun g l => (rd32 g 8 l).toInt) 1) ∧ Released (tMapped tAccess) tAccess .grp ∧
    MetAt (.stsImm ⟨0, 7⟩ true 2 1 31) (UniPosts (.stsImm ⟨0, 7⟩ true 2 1 31) 1 (fun _ => 31 * 8) 8) ∧
    MetAt (.stsReg ⟨0, 7⟩ false 2 2 8) (UniPosts (.stsReg ⟨0, 7⟩ false 2 2 8) 2 (fun g => (getS g 8).toInt) 4) := by
  refine ⟨?_, ?_, ?_, ?_, Or.inl rfl, ?_, ?_⟩ <;> exact tAt (tMapped tAccess) tAccess (by decide) ⟨by decide, rfl, by decide, tPlain (by decide)⟩

/-- What an atomic that sends its accesses asks. -/
abbrev AtomicSends (i : Instr) (n : Nat) (kind : AccessKind) (rel : Option Scope) (op : Group → Nat → AccOp × W64) (s : State) (cu : Cursor)
    (g : Group) : Prop :=
  (checked i s cu g 1 (fun g l => (getV g 8 l).toInt) n kind).2.1 = [] ∧
    (rel.all fun sc => !wideScope s g sc) = true ∧
    ∃ x ∈ (checked i s cu g 1 (fun g l => (getV g 8 l).toInt) n kind).2.2.map fun q =>
      rmwAcc (checked i s cu g 1 (fun g l => (getV g 8 l).toInt) n kind).1 q n (op g q.lane).1 (op g q.lane).2, accOpen x = true

theorem wit_AtomicsSendAndTakeUp :
    MetAt (.amo ⟨0, 0, 0⟩ 4 1 8 12 .ar .grp .b64 .cas) (AtomicSends (.amo ⟨0, 0, 0⟩ 4 1 8 12 .ar .grp .b64 .cas) 8 .amo (relScope .ar .grp)
      (fun g l => amoOperand g .cas .b64 12 l)) ∧
    MetAt (.lr ⟨0, 0, 0⟩ 4 1 8 .acq .dev .b32) (AtomicSends (.lr ⟨0, 0, 0⟩ 4 1 8 .acq .dev .b32) 4 .lr none (fun _ _ => (.lr, 0))) ∧
    MetAt (.sc ⟨0, 0, 0⟩ 4 1 8 2 .rel .grp .b32) (AtomicSends (.sc ⟨0, 0, 0⟩ 4 1 8 2 .rel .grp .b32) 4 .sc (relScope .rel .grp)
      (fun g l => (.sc, BitVec.ofNat 64 (runVal g 4 l 1)))) ∧
    MetBack (.amo ⟨0, 0, 0⟩ 4 1 8 10 .rlx .dev .b32 .fadd) (laneDests 4 1) (fun _ _ _ _ => True) ∧
    MetBack (.lr ⟨0, 0, 0⟩ 4 1 8 .rlx .dev .b32) (laneDests 4 1) (fun _ _ _ _ => True) ∧
    MetBack (.sc ⟨0, 0, 0⟩ 4 1 8 7 .rlx .dev .b32) (fun as => (accLanes as).map fun l => .p 7 l) (fun _ _ _ _ => True) :=
  ⟨tAt (tMapped tAccess) tAccess (by decide) (by decide), tAt (tMapped tAccess) tAccess (by decide) (by decide),
    tAt (tMapped tAccess) tAccess (by decide) (by decide), tBack_ok 0 .lr 1 (by decide +kernel) trivial, tBack_ok 1 .lr 1 (by decide +kernel) trivial,
    tBack_ok 0 .sc 0 (by decide +kernel) trivial⟩

/-- A place in device memory below the root region, in a plain line. -/
def tFree (s : State) (n : Nat) : Place → Bool
  | .mem pa => !inRegs pa && decide (pa + n ≤ Config.rootBase ∧ PlainLine s (lineOf pa))
  | _ => false

theorem tFree_ok {s : State} {n : Nat} {p : Place} (h : tFree s n p = true) :
    ∃ pa, p = .mem pa ∧ inRegs pa = false ∧ pa + n ≤ Config.rootBase ∧ PlainLine s (lineOf pa) := by
  cases p with
  | mem pa =>
    obtain ⟨h1, h2⟩ := (Bool.and_eq_true _ _).mp h
    exact ⟨pa, rfl, by simpa using h1, (of_decide_eq_true h2).1, (of_decide_eq_true h2).2⟩
  | _ => exact absurd h (by simp [tFree])

/-- What a system-space store through a3 asks. -/
abbrev SysStores (i : Instr) (rs : State → Cursor → Group → Ctx × List (Nat × Cause) × List Req) (n : Nat) (s : State) (cu : Cursor) (g : Group) : Prop :=
  active i g cu ≠ 0 ∧ (rs s cu g).2.1 = [] ∧ isSys (getA g 3) = true ∧ (rs s cu g).2.2 ≠ [] ∧
    ∀ q ∈ (rs s cu g).2.2, ∃ pa, q.place = .mem pa ∧ inRegs pa = false ∧ pa + n ≤ Config.rootBase ∧ PlainLine s (lineOf pa)

theorem wit_SystemStoresChangeTheirBytes :
    MetAt (.stReg ⟨0, 0⟩ .b64 4 3 8) (SysStores (.stReg ⟨0, 0⟩ .b64 4 3 8)
      (fun s cu g => checked (.stReg ⟨0, 0⟩ .b64 4 3 8) s cu g 3 (fun g l => (rd32 g 8 l).toInt) 8 .store) 8) ∧
    MetAt (.stImm ⟨0, 0⟩ .b8 4 3 31) (SysStores (.stImm ⟨0, 0⟩ .b8 4 3 31)
      (fun s cu g => checked (.stImm ⟨0, 0⟩ .b8 4 3 31) s cu g 3 (fun _ _ => 31) 1 .store) 1) ∧
    MetAt (.stNt ⟨0, 0⟩ .b64 4 3 8) (SysStores (.stNt ⟨0, 0⟩ .b64 4 3 8)
      (fun s cu g => checked (.stNt ⟨0, 0⟩ .b64 4 3 8) s cu g 3 (fun g l => (rd32 g 8 l).toInt) 8 .store) 8) ∧
    MetAt (.stOrdered ⟨0, 0, 0⟩ 4 3 8 .rel .grp .b32) (SysStores (.stOrdered ⟨0, 0, 0⟩ 4 3 8 .rel .grp .b32)
      (fun s cu g => checked (.stOrdered ⟨0, 0, 0⟩ 4 3 8 .rel .grp .b32) s cu g 3 (fun g l => (rd32 g 8 l).toInt) 4 .store) 4) ∧
    MetAt (.stsImm ⟨0, 7⟩ true 2 3 31) (SysStores (.stsImm ⟨0, 7⟩ true 2 3 31)
      (fun s cu g => checkedUni (.stsImm ⟨0, 7⟩ true 2 3 31) s cu g 3 (fun _ => 31 * 8) 8 .store) 8) ∧
    MetAt (.stsReg ⟨0, 7⟩ false 2 3 8) (SysStores (.stsReg ⟨0, 7⟩ false 2 3 8)
      (fun s cu g => checkedUni (.stsReg ⟨0, 7⟩ false 2 3 8) s cu g 3 (fun g => (getS g 8).toInt) 4 .store) 4) := by
  refine ⟨?_, ?_, ?_, ?_, ?_, ?_⟩ <;>
    exact tAt (tMapped tAccess) tAccess (by decide) ⟨by decide, by decide, rfl, by decide, fun q h => tFree_ok (by revert q h; decide)⟩

/-- An operation of the group in flight, with barrier 0x1000 of core 0. -/
def tOp (k : OpKind) : Op :=
  { id := 9, kind := k, gid := 1, lanes := 1, got := [], team := 1, srTeam := 0, srGroup := 0, core := 0, pasid := 0, sys := true, bar := 0x1000, barA := 0x1000, lt := 0
    moved := [], undelivered := 0, stamp := 0, fault := none, charged := false, park := none, denied := none }

/-- FENCE of r with nothing held; of rw within the group; of the copy class while a copy of the group has not moved; of w at .sys. -/
theorem wit_PrefetchAndFence :
    MetAt (.prfReg ⟨0, 0⟩ .l1 1 8) (fun s cu g => ∀ x ∈ (checked (.prfReg ⟨0, 0⟩ .l1 1 8) s cu g 1 (fun g l => (rd32 g 8 l).toInt) 1 .prefetch).2.1, 6 < x.2.rank) ∧
    MetAt (.prfImm ⟨0, 0⟩ .l2 1 1) (fun s cu g => ∀ x ∈ (checked (.prfImm ⟨0, 0⟩ .l2 1 1) s cu g 1 (fun _ _ => 1 * 128) 1 .prefetch).2.1, 6 < x.2.rank) ∧
    Met (.fence ⟨0, 7⟩ .dev 1 3) (fun c => fenceHeld c.s c.g c.on 1 = false) ∧
    Met (.fence ⟨0, 7⟩ .grp 3 3) (fun c => fenceHeld c.s c.g c.on 3 = false ∧ wideScope c.s c.g .grp = false) ∧
    Met (.fence ⟨0, 7⟩ .dev 4 3) (fun c => c.on ≠ 0 ∧ fenceHeld c.s c.g c.on 4 = true) ∧
    MetAt (.fence ⟨0, 7⟩ .sys 2 3) (fun s cu g => active (.fence ⟨0, 7⟩ .sys 2 3) g cu ≠ 0 ∧
      fenceHeld s g (active (.fence ⟨0, 7⟩ .sys 2 3) g cu) 2 = false ∧
      (2 : BitVec 6).getLsbD 1 = true ∧ wideScope s g .sys = true ∧ relHeld s g.core = false ∧ remoteWaits s g.gid = false ∧ g.remFail = none) :=
  ⟨tAt (tMapped tAccess) tAccess (by decide) (by decide), tAt (tMapped tAccess) tAccess (by decide) (by decide),
    tMet (tMapped tAccess) tAccess (by decide) (by decide), tMet (tMapped tAccess) tAccess (by decide) (by decide),
    tMet { tMapped tAccess with ops := [tOp (.xcpV 0 64 8)] } tAccess (by decide) (by decide),
    tAt (tMapped tAccess) tAccess (by decide) (by decide)⟩

/-! ## Barriers, chimes and queues -/

/-- The state with a barrier at offset 0x1000 of the vault of core 0, which a2 points to. -/
def tBarState (b : Bar) (g : Group) : State := { tMapped g with vault := writeN [] 0x1000 64 (barVal b) }

/-- A barrier with PEND, INIT and a phase. -/
def tBar (pend init : Nat) (phase : Bool) : Bar := ⟨7, 0, 0, 0, init, pend, [0, 0, 0, 0], 0, false, false, phase, true⟩

/-- Nothing of the core is buffered or on its way. -/
theorem tDrained {s : State} {g : Group} (h : s.cbuf = []) (k : s.accs = []) : Drained s g :=
  ⟨fun y m => by rw [h] at m; exact absurd m List.not_mem_nil, fun a m => by rw [k] at m; exact absurd m List.not_mem_nil⟩

theorem tDrainedFork {s : State} {g : Group} (h : s.cbuf = []) (k : s.accs = []) : DrainedFork s g :=
  ⟨tDrained h k, by simp [remoteWaits, k], fun a m => by rw [k] at m; exact absurd m List.not_mem_nil⟩

/-- p1 is true in the last lane, s8 names core 0, s9 is 2^31 and s2 asks for the phase after parity 0. -/
def tArrive : Group := { tAccess with p := [(0, 0x8001), (1, 0x8000)], s := [(9, 0x80000000)] }

/-- BAR.INIT of a new key; BAR.EXP with PEND 1; BAR.ARR of one lane with PEND 2 and 1; waits and tests before and after the phase;
BAR.INV. -/
theorem wit_TransactionBarriers :
    Met (.barInit ⟨0, 7⟩ 2 8) (fun c => BarAt c 2 1 false 0x1000 ∧ c.s.vpoison.contains (0x1000 / 128) = false ∧
      (readBar c.s 0x1000).valid = true ∧ (readBar c.s 0x1000).ops = 0 ∧ barParked c.s 0x1000 = false) ∧
    Met (.barExp ⟨0, 7⟩ 9 2 8) (fun c => BarAt c 2 1 true 0x1000 ∧ c.s.vpoison.contains (0x1000 / 128) = false ∧ (getS c.g 8).toNat < 64 ∧
      dieOf (getS c.g 8).toNat = dieOf (0x1000 / Config.vaultSize) ∧ (readBar c.s 0x1000).pend ≠ 0) ∧
    Met (.barArr ⟨0, 1⟩ 2) (fun c => BarAt c 2 1 true 0x1000 ∧ c.s.vpoison.contains (0x1000 / 128) = false ∧ Drained c.s c.g ∧
      (∃ l < c.g.w, c.on = BitVec.twoPow 64 l) ∧ 2 ≤ (readBar c.s 0x1000).pend) ∧
    Met (.barArr ⟨0, 1⟩ 2) (fun c => BarAt c 2 1 true 0x1000 ∧ c.s.vpoison.contains (0x1000 / 128) = false ∧ Drained c.s c.g ∧
      (∃ l < c.g.w, c.on = BitVec.twoPow 64 l) ∧ (readBar c.s 0x1000).pend = 1 ∧ (readBar c.s 0x1000).fail = false ∧
      (∀ x ∈ (readBar c.s 0x1000).slots, slotV x = true → slotRem x = 0) ∧ barParked c.s 0x1000 = false) ∧
    Met (.barWait ⟨0, 7⟩ 2 2 3) (fun c => BarAt c 2 0 true 0x1000 ∧ (readBar c.s 0x1000).phase = (getS c.g 2).getLsbD 16) ∧
    Met (.barWait ⟨0, 7⟩ 2 2 3) (fun c => BarAt c 2 0 true 0x1000 ∧ (readBar c.s 0x1000).phase ≠ (getS c.g 2).getLsbD 16) ∧
    Met (.barTest ⟨0, 7⟩ 2 2 7) (fun c => BarAt c 2 0 true 0x1000 ∧ (readBar c.s 0x1000).phase = (getS c.g 2).getLsbD 16) ∧
    Met (.barTest ⟨0, 7⟩ 2 2 7) (fun c => BarAt c 2 0 true 0x1000 ∧ (readBar c.s 0x1000).phase ≠ (getS c.g 2).getLsbD 16) ∧
    Met (.barInv ⟨0, 7⟩ 2) (fun c => BarAt c 2 1 true 0x1000 ∧ c.s.vpoison.contains (0x1000 / 128) = false ∧ (readBar c.s 0x1000).ops = 0 ∧
      barParked c.s 0x1000 = false) :=
  ⟨tMet (tBarState (tBar 2 2 false) tArrive) tArrive (by decide +kernel) (by decide +kernel),
    tMet (tBarState (tBar 1 2 false) tArrive) tArrive (by decide +kernel) (by decide +kernel),
    tMet (tBarState (tBar 2 2 false) tArrive) tArrive (by decide +kernel) ⟨by decide +kernel, by decide +kernel, tDrained rfl rfl, by decide +kernel⟩,
    tMet (tBarState (tBar 1 2 false) tArrive) tArrive (by decide +kernel) ⟨by decide +kernel, by decide +kernel, tDrained rfl rfl, by decide +kernel⟩,
    tMet (tBarState (tBar 1 2 false) tArrive) tArrive (by decide +kernel) (by decide +kernel),
    tMet (tBarState (tBar 1 2 true) tArrive) tArrive (by decide +kernel) (by decide +kernel),
    tMet (tBarState (tBar 1 2 false) tArrive) tArrive (by decide +kernel) (by decide +kernel),
    tMet (tBarState (tBar 1 2 true) tArrive) tArrive (by decide +kernel) (by decide +kernel),
    tMet (tBarState (tBar 1 2 false) tArrive) tArrive (by decide +kernel) (by decide +kernel)⟩

/-- TBAR in a team of two groups, and in a team of one. -/
theorem wit_TeamBarrier :
    Met (.tbar ⟨0, 7⟩ 15) (fun c => c.on ≠ 0 ∧ wideScope c.s c.g .team = false ∧
      ∃ x ∈ c.s.groups, x.gid ≠ c.g.gid ∧ x.team = c.g.team ∧ liveMask x &&& ~~~ tbarArrived x 15 ≠ 0) ∧
    MetAt (.tbar ⟨0, 7⟩ 0) (fun s cu g => isResident g = true ∧ g.stopped = none ∧ wideScope s g .team = false ∧ s.groups.filter (fun x => x.team == g.team) = [g] ∧
      g.lanes.length = g.w ∧ liveMask g &&& ~~~ active (.tbar ⟨0, 7⟩ 0) g cu = 0 ∧ active (.tbar ⟨0, 7⟩ 0) g cu ≠ 0) :=
  ⟨tMet { tState (tGroup 0) with groups := [tGroup 0, { tGroup 0 with gid := 2 }] } (tGroup 0) (by decide +kernel) (by decide +kernel),
    tAt (tState (tGroup 0)) (tGroup 0) (by decide +kernel) (by decide +kernel)⟩

/-- A group of context 5 in user mode, with s4:5 = 3. -/
def tUser : Group := { tGroup 0 with sys := false, pasid := 5, s := [(4, 3)] }

/-- The state where chime 0 of context 5 stands at 0x2000 with a value. -/
def tChime (v : Nat) (g : Group) : State := { tState g with mem := writeN (writeN [] 376 8 0x2000) 0x2000 8 v }

theorem wit_Chimes :
    (∀ i ∈ ([.chimeAdd ⟨0, 7⟩ 4 8, .chimeSet ⟨0, 7⟩ 4 8] : List Instr), MetAt i (fun s cu g =>
      let k := chimeSel (runCtx i s cu g) 8
      ChimeOk (runCtx i s cu g) 8 ∧ Drained s g ∧ chimeAddr s k.1 k.2 = 0x2000 ∧ PlainLine s (lineOf 0x2000) ∧
        ∀ y ∈ s.groups, tracing s y.core y.pasid = false)) ∧
    Met (.chimeWait ⟨0, 7⟩ 4 8) (fun c => ChimeReads c 8 ∧ chimeValue c.s (chimeSel c 8).1 (chimeSel c 8).2 < (getS2 c.g 4).toNat) ∧
    Met (.chimeWait ⟨0, 7⟩ 4 8) (fun c => ChimeReads c 8 ∧ (getS2 c.g 4).toNat ≤ chimeValue c.s (chimeSel c 8).1 (chimeSel c 8).2) ∧
    Met (.chimeRd ⟨0, 7⟩ 4 8) (fun c => ChimeReads c 8) := by
  refine ⟨?_, tMet (tChime 2 tUser) tUser (by decide) ⟨⟨⟨by decide, by decide⟩, by decide⟩, by decide⟩,
    tMet (tChime 3 tUser) tUser (by decide) ⟨⟨⟨by decide, by decide⟩, by decide⟩, by decide⟩,
    tMet (tChime 3 tUser) tUser (by decide) ⟨⟨by decide, by decide⟩, by decide⟩⟩
  intro i hi
  simp only [List.mem_cons, List.not_mem_nil, or_false] at hi
  rcases hi with rfl | rfl <;>
    exact tAt (tChime (2 ^ 64 - 1) tUser) tUser (by decide) ⟨⟨by decide, by decide⟩, tDrained rfl rfl, by decide, by decide, by decide⟩

/-- Memory words by address. -/
def tWords (l : List (Nat × Nat)) : List Host.Cell := l.foldl (fun m x => writeN m x.1 8 x.2) []

/-- Interface 0 of function 0, enabled, with rings of 64 entries at 0x3000 and 0x4000, one packet of context 5 in the first; the context
is valid and its function's; interrupt entry 0 at 0x5000 is valid. -/
def tRings (g : Group) : State := { tState g with
  regs := [(offQif 0 3, 0x0066040000000000), (offQif 0 5, 0x100000000), (offQif 0 6, 0x4000), (offQif 0 7, 0x3000), (offPamap, 0x200001),
    (offIrtbase, 0x5001)]
  mem := tWords [(320, 1), (0x3000, 0x500000000077), (0x3008, 0xAB), (0x5000, 0xFEE00000), (0x5008, 0x200000041), (0x200005, 1)] }

/-- A group that pops to the vault, and whose s4:5 hold a tag and a status. -/
def tPop : Group := { tAccess with s := [(4, 0x77), (5, 0x10001)] }

theorem tNoQdone {s : State} {g : Group} (h : s.groups = [g])
    (k : waitsOf g (fun w => match w with | .qdone .. => true | _ => false) = []) : NoQdone s := by
  intro x hx
  rw [h, List.mem_singleton] at hx
  exact hx ▸ k

/-- The same state with other registers before those. -/
def tRingsWith (r : List (Nat × W64)) (g : Group) : State := { tRings g with regs := r ++ (tRings g).regs }

/-- The address of the interrupt entry that s8 names. -/
def tVector (c : Ctx) : Nat :=
  regField c.s offIrtbase 63 12 * 4096 + 16 * (32 * ((getS c.g 8).toNat % 256) + (getS c.g 8).toNat / 256)

/-- QPOP on empty rings, with a packet to a vault and to system memory; QDONE on a disabled interface, on a full ring and with room; IRQ with
the table off, through an entry that is not valid, one that is masked and one that is not. -/
theorem wit_QueueInstructions :
    Met (.qpop ⟨0, 7⟩ 2 2 false) (fun c => c.on ≠ 0 ∧ (uniAccess c (getA c.g 2) 0 64 .wr).2.1 = [] ∧
      (∃ q, (uniAccess c (getA c.g 2) 0 64 .wr).2.2 = [q] ∧ packetHeld c.s q.place (isSys (getA c.g 2)) = false) ∧ popSet c.s (dieOf c.g.core) = [] ∧ NoQdone c.s) ∧
    Met (.qpop ⟨0, 7⟩ 2 2 true) (fun c => c.on ≠ 0 ∧ uniAccess c (getA c.g 2) 0 64 .wr = (c, [], [⟨0, 0x1000, .vault 0x1000⟩]) ∧
      packetHeld c.s (.vault 0x1000) (isSys (getA c.g 2)) = false ∧ popSet c.s (dieOf c.g.core) = [] ∧ NoQdone c.s) ∧
    (∀ w ∈ [true, false], MetAt (.qpop ⟨0, 7⟩ 2 2 w) (fun s cu g => active (.qpop ⟨0, 7⟩ 2 2 w) g cu ≠ 0 ∧ NoQdone s ∧ isSys (getA g 2) = false ∧
      ∃ q, (checkedUni (.qpop ⟨0, 7⟩ 2 2 w) s cu g 2 (fun _ => 0) 64 .wr).2 = ([], [q]) ∧
        (popStep (checkedUni (.qpop ⟨0, 7⟩ 2 2 w) s cu g 2 (fun _ => 0) 64 .wr).1.s (dieOf g.core)).2 =
          .packet 0 [0x500000000077, 0xAB, 0, 0, 0, 0, 0, 0] 0)) ∧
    MetAt (.qpop ⟨0, 7⟩ 2 3 true) (fun s cu g => active (.qpop ⟨0, 7⟩ 2 3 true) g cu ≠ 0 ∧ NoQdone s ∧ isSys (getA g 3) = true ∧
      (checkedUni (.qpop ⟨0, 7⟩ 2 3 true) s cu g 3 (fun _ => 0) 64 .wr).2 = ([], [⟨0, 0x200000, .mem 0x200000⟩]) ∧
      let r := popStep (checkedUni (.qpop ⟨0, 7⟩ 2 3 true) s cu g 3 (fun _ => 0) 64 .wr).1.s (dieOf g.core)
      r.2 = .packet 0 [0x500000000077, 0xAB, 0, 0, 0, 0, 0, 0] 0 ∧ PlainLine r.1 (lineOf 0x200000)) ∧
    Met (.qdone ⟨0, 7⟩ 4 8) (fun c => c.on ≠ 0 ∧ DrainedFork c.s c.g ∧ (getS c.g 8).toNat < 256 ∧ (getS c.g 5).toNat / 2 ^ 18 = 0 ∧
      (getS c.g 5).toNat / 2 ^ 16 ≠ 3 ∧ qifLive c.s (getS c.g 8).toNat = false) ∧
    Met (.qdone ⟨0, 7⟩ 4 8) (fun c => c.on ≠ 0 ∧ DrainedFork c.s c.g ∧ (getS c.g 8).toNat < 256 ∧ (getS c.g 5).toNat / 2 ^ 18 = 0 ∧
      (getS c.g 5).toNat / 2 ^ 16 ≠ 3 ∧ qifLive c.s (getS c.g 8).toNat = true ∧ complRoom c.s (getS c.g 8).toNat = false) ∧
    MetAt (.qdone ⟨0, 7⟩ 4 8) (fun s cu g => active (.qdone ⟨0, 7⟩ 4 8) g cu ≠ 0 ∧ DrainedFork s g ∧ NoQdone s ∧
      (getS g 8).toNat = 0 ∧ (getS g 5).toNat / 2 ^ 18 = 0 ∧ (getS g 5).toNat / 2 ^ 16 ≠ 3 ∧
      qifLive s 0 = true ∧ complRoom s 0 = true ∧ s.compl = [] ∧ regField s (offFs2root (qif s 0).func) 0 0 = 0 ∧
      (qif s 0).cbase + 16 * ((qif s 0).ctail % 2 ^ (qif s 0).csize) = 0x4000 ∧ PlainLine s (lineOf 0x4000)) ∧
    Met (.irq ⟨0, 7⟩ 8) (fun c => c.on ≠ 0 ∧ DrainedFork c.s c.g ∧ (getS c.g 8).toNat < 8192 ∧ regField c.s offIrtbase 0 0 = 0) ∧
    Met (.irq ⟨0, 7⟩ 8) (fun c => c.on ≠ 0 ∧ DrainedFork c.s c.g ∧ (getS c.g 8).toNat < 8192 ∧ (homeAt c.s (lineOf (tVector c))).mesi ≠ .e ∧
      wordsHeld c.s (tVector c) 2 = false ∧ (memRead c.s 0 (tVector c + 8) 8).testBit 33 = false) ∧
    (∀ x ∈ [0x200000041, 0x600000041], Met (.irq ⟨0, 7⟩ 8) (fun c => c.on ≠ 0 ∧ DrainedFork c.s c.g ∧ (getS c.g 8).toNat < 8192 ∧ regField c.s offIrtbase 0 0 = 1 ∧
      (qif c.s ((getS c.g 8).toNat % 256)).func ≤ 3 ∧ tVector c + 16 ≤ Config.rootBase ∧ PlainLine c.s (lineOf (tVector c)) ∧
      (memRead c.s 0 (tVector c + 8) 8).testBit 33 = true ∧ (memRead c.s 0 (tVector c + 8) 8).testBit 34 = (x / 2 ^ 34 == 1) ∧
        (memRead c.s 0 (tVector c + 8) 8).testBit 35 = false)) := by
  refine ⟨tMet (tState tPop) tPop (by decide +kernel) ⟨by decide +kernel, by decide +kernel, ⟨⟨0, 0x1000, .vault 0x1000⟩, by decide +kernel⟩, by decide +kernel,
      tNoQdone rfl (by decide +kernel)⟩,
    tMet (tState tPop) tPop (by decide +kernel) ⟨by decide +kernel, by decide +kernel, by decide +kernel, by decide +kernel, tNoQdone rfl (by decide +kernel)⟩,
    ?_, tAt (tRings tPop) tPop (by decide +kernel) ⟨by decide +kernel, tNoQdone rfl (by decide +kernel), by decide +kernel⟩,
    tMet (tState tPop) tPop (by decide +kernel) ⟨by decide +kernel, tDrainedFork rfl rfl, by decide +kernel⟩,
    tMet (tRingsWith [(offQif 0 4, 0x4000000000)] tPop) tPop (by decide +kernel) ⟨by decide +kernel, tDrainedFork rfl rfl, by decide +kernel⟩,
    tAt (tRings tPop) tPop (by decide +kernel) ⟨by decide +kernel, tDrainedFork rfl rfl, tNoQdone rfl (by decide +kernel), by decide +kernel⟩,
    tMet (tState tPop) tPop (by decide +kernel) ⟨by decide +kernel, tDrainedFork rfl rfl, by decide +kernel⟩,
    tMet (tRingsWith [(offIrtbase, 0x6001)] tPop) tPop (by decide +kernel) ⟨by decide +kernel, tDrainedFork rfl rfl, by decide +kernel⟩, ?_⟩
  · intro w hw
    simp only [List.mem_cons, List.not_mem_nil, or_false] at hw
    rcases hw with rfl | rfl <;> exact tAt (tRings tPop) tPop (by decide +kernel)
      ⟨by decide +kernel, tNoQdone rfl (by decide +kernel), rfl, ⟨0, 0x1000, .vault 0x1000⟩, by decide +kernel, by decide +kernel⟩
  · intro x hx
    simp only [List.mem_cons, List.not_mem_nil, or_false] at hx
    rcases hx with rfl | rfl
    · exact tMet (tRings tPop) tPop (by decide +kernel) ⟨by decide +kernel, tDrainedFork rfl rfl, by decide +kernel⟩
    · exact tMet { tRings tPop with mem := writeN (tRings tPop).mem 0x5008 8 0x600000041 } tPop (by decide +kernel)
        ⟨by decide +kernel, tDrainedFork rfl rfl, by decide +kernel⟩

/-- Instructions whose guard, p2 or q1, is true for no lane. -/
def tIdle : List Instr := [.barInit ⟨0, 1⟩ 2 8, .barArr ⟨0, 2⟩ 2, .tbar ⟨0, 2⟩ 1, .fence ⟨0, 1⟩ .sys 3 3, .chimeWait ⟨0, 1⟩ 4 8, .qpop ⟨0, 1⟩ 2 2 true,
  .launch ⟨0, 1⟩ 2, .spawn ⟨0, 2⟩ 1 4 8, .migr ⟨0, 1⟩, .trap ⟨0, 2⟩ 5, .tret ⟨0, 1⟩, .halt ⟨0, 1⟩, .rgnEnter ⟨0, 1⟩ 1, .traceMark ⟨0, 1⟩ 2,
  .xcpIn ⟨0, 2, 0⟩ 8 1 2 3 4, .trd ⟨0, 2, 0⟩ 0 1 8 false 0, .ldReg ⟨0, 2⟩ .b32 4 1 8, .ldsImm ⟨0, 1⟩ true 2 1 0]

theorem wit_FalseGuardHasNoEffect : ∀ i ∈ tIdle, Met i (fun c => c.on = 0 ∧ (entAt c.g c.e).busy = false) := fun i hi =>
  tMet (tState tAccess) tAccess (List.all_eq_true.mp (by decide +kernel : (tIdle.all fun i => tCan i (tState tAccess) tAccess) = true) i hi)
    ⟨(by decide +kernel : ∀ i ∈ tIdle, active i tAccess tCur = 0) i hi, rfl⟩

/-! ## Rods, launches and gangs -/

/-- A rod configuration record of context 5: key 0x1000, MAXRES 1, kernel object 0x80000, stepping tag B0, EN. -/
def tRodRec (en : Nat) : Nat := 0x1000 * 2 ^ 448 + 5 * 2 ^ 252 + 2 ^ 237 + 0x80000 * 2 ^ 128 + 0x4230 * 2 ^ 96 + en

/-- A launch record of context 5: one team of one group of 16 threads. -/
def tLaunchRec : Nat := 5 * 2 ^ 332 + 0x4230 * 2 ^ 64 + 0x80000

/-- A gang record with GID 7, a timeout of 1000 ns and one member; its launch record at 0x1080 and its members at 0x1040. -/
def tGangRec : Nat := 0x1080 * 2 ^ 448 + 0x1040 * 2 ^ 384 + 7 * 2 ^ 352 + 1000 * 2 ^ 320 + 2 ^ 300

/-- Rod 0 of pair 0, EMPTY with `b` beads, of context `p` with key 0x1000. -/
def tRod (st : RodSt) (p : BitVec 20) (b : List Bead) : Rod :=
  { rod0 with st := st, cfg := { rod0.cfg with key := 0x1000, pasid := p, w := 16 }, beads := b }

/-- A bead. -/
def tBead : Bead := ⟨[], 0x1000, 100, 0, 0, 0⟩

/-- A state with a record in the vault at 0x1000, a rod, and context 5 valid. -/
def tRec (rec : Nat) (x : Rod) (g : Group) : State :=
  { tState g with vault := writeN (writeN (writeN [] 0x1000 64 rec) 0x1040 4 3) 0x1080 128 tLaunchRec, mem := tWords [(320, 1)]
                  rods := if x.st = .off then [] else [(0, x)] }

/-- s4:5 is the key 0x1000. -/
def tSpawn : Group := { tAccess with p := [(1, 0x8000)], s := [(4, 0x1000)] }

/-- A kernel was read, and `q` holds of the state and the group afterwards. -/
def tRead (q : State → Group → Bool) (x : State × Except KerErr Kernel) (gid : Nat) : Bool :=
  match x.2, getGroup x.1 gid with
  | .ok _, some g => q x.1 g
  | _, _ => false

theorem tRead_ok {q : State → Group → Bool} {x : State × Except KerErr Kernel} {gid : Nat} (h : tRead q x gid = true) :
    ∃ s1 g1 ker, x = (s1, .ok ker) ∧ getGroup s1 gid = some g1 ∧ q s1 g1 = true := by
  obtain ⟨s1, e⟩ := x
  cases e with
  | error e => exact absurd h (by simp [tRead])
  | ok ker =>
    cases k : getGroup s1 gid with
    | none => exact absurd h (by simp [tRead, k])
    | some g1 => exact ⟨s1, g1, ker, rfl, k, by simpa [tRead, k] using h⟩

/-- These members were read. -/
theorem tMembers {c : Ctx} {ms : List (BitVec 20)} {x : Ctx × Except (Option (List (Nat × Cause))) (List (BitVec 20))} (h : x.1 = c)
    (k : (match x.2 with | .ok l => l == ms | .error _ => false) = true) : x = (c, .ok ms) := by
  obtain ⟨y, e⟩ := x
  cases e with
  | error e => cases k
  | ok l => exact Prod.ext h (congrArg Except.ok (eq_of_beq k))

/-- A record is read from the vault at 0x1000 through a2. -/
theorem tRecord {i : Instr} {s : State} {g : Group} {n : Nat} (h : active i g tCur ≠ 0)
    (k : uniAccess (runCtx i s tCur g) (getA g 2) 0 n .rd = (runCtx i s tCur g, [], [⟨0, 0x1000, .vault 0x1000⟩])) (p : s.vpoison = [])
    (q : s.accs = []) : RecordAt (runCtx i s tCur g) 2 n 0x1000 :=
  ⟨h, ⟨0, 0x1000, k⟩, by show s.accs.any _ = false; rw [q]; rfl, fun _ _ => by show s.vpoison.contains _ = false; rw [p]; rfl⟩

theorem wit_RodInstructions :
    Met (.spawn ⟨0, 1⟩ 1 4 8) (fun c => Drained c.s c.g ∧ 15 < c.g.w ∧ c.on = BitVec.twoPow 64 15 ∧ rodFind c.s (pairOf c.g.core) (getS2 c.g 4) c.g.pasid = some 0 ∧
      (getRod c.s (pairOf c.g.core) 0).st ≠ .draining ∧ (getRod c.s (pairOf c.g.core) 0).beads.length < 1024) ∧
    MetAt (.spawn ⟨0, 1⟩ 1 4 8) (fun s _ g => relHeld s g.core = false ∧ rodFind s (pairOf g.core) (getS2 g 4) g.pasid = none) ∧
    Met (.rodCfg ⟨0, 7⟩ 8 2) (fun c => RecordAt c 2 64 0x1000 ∧ rodCfgBad c.s c.g.core (getS c.g 8).toNat (vaultRead c.s 0x1000 64) = false ∧
      bit (vaultRead c.s 0x1000 64) 0 = false) ∧
    MetAt (.rodCfg ⟨0, 7⟩ 8 2) (fun s cu g => RecordAt (runCtx (.rodCfg ⟨0, 7⟩ 8 2) s cu g) 2 64 0x1000 ∧
      rodCfgBad s g.core 0 (vaultRead s 0x1000 64) = false ∧ bit (vaultRead s 0x1000 64) 0 = true ∧
      let cfg := rodCfgOf (vaultRead s 0x1000 64)
      ∃ s1 g1 ker, kernelRead (setGroup { s with cur := none } (noted s g 0x1000 64)) (noted s g 0x1000 64) cfg.pasid (rodKernel cfg) (if cfg.kindL then 0 else cfg.key)
          (if cfg.kindL then cfg.key else 0) = (s1, .ok ker) ∧ getGroup s1 1 = some g1 ∧ (taskSystem s1 0 || !beadsHeld s1 0) = true) ∧
    Met (.rodStrike ⟨0, 7⟩ 9) (fun c => c.on ≠ 0 ∧ 63 < (getS c.g 9).toNat) ∧
    Met (.rodStrike ⟨0, 7⟩ 8) (fun c => c.on ≠ 0 ∧ (getS c.g 8).toNat ≤ 63 ∧ (getRod c.s (pairOf c.g.core) (getS c.g 8).toNat).st ≠ .off ∧
      (getRod c.s (pairOf c.g.core) (getS c.g 8).toNat).cfg.pasid ≠ c.g.pasid) ∧
    Met (.rodStrike ⟨0, 7⟩ 10) (fun c => c.on ≠ 0 ∧ (getS c.g 10).toNat = 63 ∧ (getRod c.s (pairOf c.g.core) (getS c.g 10).toNat).st = .off) ∧
    Met (.rodStrike ⟨0, 7⟩ 8) (fun c => c.on ≠ 0 ∧ (getS c.g 8).toNat ≤ 63 ∧
      let x := getRod c.s (pairOf c.g.core) (getS c.g 8).toNat
      x.cfg.pasid = c.g.pasid ∧ (x.st = .empty ∨ x.st = .filling) ∧ x.beads ≠ []) :=
  ⟨tMet (tRec 0 (tRod .empty 0 []) tSpawn) tSpawn (by decide +kernel) ⟨tDrained rfl rfl, by decide +kernel⟩,
    tAt (tRec 0 (tRod .empty 5 []) tSpawn) tSpawn (by decide +kernel) (by decide +kernel),
    tMet (tRec (tRodRec 0) rod0 tAccess) tAccess (by decide +kernel) ⟨tRecord (by decide +kernel) (by decide +kernel) rfl rfl, by decide +kernel⟩,
    tAt (tRec (tRodRec 1) rod0 tAccess) tAccess (by decide +kernel) ⟨tRecord (by decide +kernel) (by decide +kernel) rfl rfl, by decide +kernel, by decide +kernel,
      tRead_ok (q := fun s1 _ => taskSystem s1 0 || !beadsHeld s1 0) (gid := 1) (by decide +kernel)⟩,
    tMet (tRec 0 rod0 { tAccess with s := [(9, 64)] }) { tAccess with s := [(9, 64)] } (by decide +kernel) (by decide +kernel),
    tMet (tRec 0 (tRod .ready 5 []) tAccess) tAccess (by decide +kernel) (by decide +kernel),
    tMet (tRec 0 rod0 { tAccess with s := [(10, 63)] }) { tAccess with s := [(10, 63)] } (by decide +kernel) (by decide +kernel),
    tMet (tRec 0 (tRod .filling 0 [tBead]) tAccess) tAccess (by decide +kernel) (by decide +kernel)⟩

/-- A launch record can be submitted for a group, and `q` holds of the state and the group once its kernel has been read. -/
theorem tSubmits (q : State → Group → Bool) {s : State} {g : Group} {x : Nat} (h : g.gid = 1)
    (k : tRead q (kernelRead (setGroup s g) g (launchOf x).pasid (launchKernel (launchOf x)) (launchOf x).entryD (launchOf x).entryL) 1 = true) :
    ∃ s1 g1 ker, SubmitsFrom s g x s1 g1 ker ∧ q s1 g1 = true :=
  let ⟨s1, g1, ker, h1, h2, h3⟩ := tRead_ok k
  ⟨s1, g1, ker, ⟨h1, by rw [h]; exact h2⟩, h3⟩

/-- Nothing of any core is buffered or on its way, as a value that can be computed. -/
def tStill (s : State) (_ : Group) : Bool := decide (s.cbuf = []) && decide (s.accs = [])

/-- A prepared gang of C-die 0. -/
def tGang : Gang := ⟨0, 0, 7, 1000, 9, [3], [3], true, false, 0, false⟩

/-- A record at 0x1000 that asks for one team. -/
def tLaunch : State := { tRec tGangRec rod0 tAccess with vault := writeN [] 0x1000 128 tLaunchRec }

/-- What the instruction sees once it has read its records and its member list. -/
def tListed : Ctx × Except (Option (List (Nat × Cause))) (List (BitVec 20)) :=
  let s := tRec tGangRec rod0 tAccess
  let c := runCtx (.gangPrep ⟨0, 7⟩ 20 2) s tCur tAccess
  readMembers { c with g := noted s (noted s tAccess 0x1000 64) 0x1080 128 } (gangReg c 2 (fld 64 447 384 (vaultRead s 0x1000 64))) 0 1

/-- LAUNCH of a record at 0x1000, GANG.PREP of one member, GANG.COMMIT of the prepared gang, and of one whose TIMEOUT has passed. -/
theorem wit_LaunchAndGangs :
    MetAt (.launch ⟨0, 7⟩ 2) (fun s cu g => RecordAt (runCtx (.launch ⟨0, 7⟩ 2) s cu g) 2 128 0x1000 ∧
      launchCause s (vaultRead s 0x1000 128) = none ∧
      ∃ s1 g1 ker, SubmitsFrom { s with cur := none } (noted s g 0x1000 128) (vaultRead s 0x1000 128) s1 g1 ker ∧ tStill s1 g1 = true) ∧
    MetAt (.gangPrep ⟨0, 7⟩ 20 2) (fun s cu g => RecordAt (runCtx (.gangPrep ⟨0, 7⟩ 20 2) s cu g) 2 64 0x1000 ∧
      let c := runCtx (.gangPrep ⟨0, 7⟩ 20 2) s cu g
      let x := vaultRead s 0x1000 64
      bits x 299 0 = 0 ∧ (fld 32 351 320 x : W32) ≠ 0 ∧ bits x 319 300 = 1 ∧ gangsOf s (dieOf g.core) = [] ∧
      let c1 := { c with g := noted s g 0x1000 64 }
      let c2 := { c with g := noted s (noted s g 0x1000 64) 0x1080 128 }
      uniAccess c1 (gangReg c 2 (fld 64 511 448 x)) 0 128 .rd = (c1, [], [⟨0, 0x1080, .vault 0x1080⟩]) ∧
      placeBusy s g (.vault 0x1080) 128 = false ∧ s.vpoison = [] ∧ launchCause s (vaultRead s 0x1080 128) = none ∧
      ∃ c3 ms, readMembers c2 (gangReg c 2 (fld 64 447 384 x)) 0 1 = (c3, .ok ms) ∧
        ∃ s1 g1 ker, SubmitsFrom c3.s c3.g (vaultRead s 0x1080 128) s1 g1 ker ∧ (!(gangPairs s1 (launchOf (vaultRead s 0x1080 128))).isEmpty) = true) ∧
    (∀ b, MetAt (.gangCommit ⟨0, 7⟩ 22 8) (fun s cu g => active (.gangCommit ⟨0, 7⟩ 22 8) g cu ≠ 0 ∧ Drained s g ∧
      (gangsOf s (dieOf g.core)).find? (fun x => x.handle == (getS g 8).toNat && x.prepared && !x.committing) = some { tGang with broken := b })) :=
  ⟨tAt tLaunch tAccess (by decide +kernel)
      ⟨tRecord (by decide +kernel) (by decide +kernel) rfl rfl, by decide +kernel, tSubmits tStill rfl (by decide +kernel)⟩,
    tAt (tRec tGangRec rod0 tAccess) tAccess (by decide +kernel) ⟨tRecord (by decide +kernel) (by decide +kernel) rfl rfl, by decide +kernel, by decide +kernel, by decide +kernel,
      by decide +kernel, by decide +kernel, rfl, rfl, by decide +kernel, tListed.1, [3], tMembers rfl (by decide +kernel),
      tSubmits (fun s1 _ => !(gangPairs s1 (launchOf (vaultRead (tRec tGangRec rod0 tAccess) 0x1080 128))).isEmpty) (by decide +kernel) (by decide +kernel)⟩,
    fun b => tAt { tRec tGangRec rod0 tAccess with gangs := [{ tGang with broken := b }] } tAccess (by cases b <;> decide +kernel)
      ⟨by decide +kernel, tDrained rfl rfl, by cases b <;> decide +kernel⟩⟩

/-! ## Pre-emption, migration and traps -/

/-- A state where context 5 is valid with a STATE, and has a group besides the one that issues. -/
def tCtx (st : Nat) (g : Group) : State :=
  { tState g with mem := tWords [(320, 1 + 2 * st)], groups := [g, { tGroup 1 with gid := 2, pasid := 5, team := 2 }] }

/-- s8 names context 5, s4:5 is a deadline of 1 ns, s6 asks for a save without a signal. -/
def tAsk : Group := { tAccess with s := [(4, 1), (8, 5)] }

/-- A fault record with a code and a resume kind, and zero elsewhere. -/
def tFaultRec (code : BitVec 16) (res : BitVec 2) : FaultRec :=
  ⟨0, 0, 0, 0, 0, 0, 0, code, 0, false, true, res, 0, 0, 0, 0, 0, 0, 0, 0⟩

/-- A slice in its BUDGET handler. -/
def tBudget : Group := { tGroup 0 with
  slice := some ⟨0, 0, 0, true⟩, frames := [⟨tFaultRec 0x0501 0, 0xFFFF, 0x100000, Config.none64⟩] }

/-- PREEMPT of a context with a resident group; RESUME of an active context, and of a pre-empted one without a saved group; YIELD in
a BUDGET handler without a free save slot. -/
theorem wit_PreemptResumeAndYield :
    Met (.preempt ⟨0, 7⟩ 4 8 6) (fun c => c.on ≠ 0 ∧ (getS c.g 8).toNat = 5 ∧ (getS c.g 6).toNat = 0 ∧ c.s.preempts = [] ∧ ctxState c.s 5 = 0 ∧
      (getS2 c.g 4).toNat ≠ 0 ∧ ∃ z ∈ c.s.groups, z.pasid = 5 ∧ isResident z = true) ∧
    MetAt (.resume ⟨0, 7⟩ 1 8) (fun s cu g => active (.resume ⟨0, 7⟩ 1 8) g cu ≠ 0 ∧ ctxState s (fld 20 19 0 (getS g 8).toNat) ≠ 2) ∧
    Met (.resume ⟨0, 7⟩ 7 8) (fun c => c.on ≠ 0 ∧ ctxState c.s (fld 20 19 0 (getS c.g 8).toNat) = 2 ∧
      ∀ z ∈ c.s.groups, z.pasid = fld 20 19 0 (getS c.g 8).toNat → preempted z = false) ∧
    Met (.yield ⟨0, 7⟩) (fun c => c.on ≠ 0 ∧ budgetHandler c.g = some ⟨0, 0, 0, true⟩ ∧ spFree c.s c.g.pasid = none) :=
  ⟨tMet (tCtx 0 tAsk) tAsk (by decide +kernel) (by decide +kernel), tAt (tCtx 0 tAsk) tAsk (by decide +kernel) (by decide +kernel),
    tMet (tCtx 2 tAsk) tAsk (by decide +kernel) (by decide +kernel), tMet (tState tBudget) tBudget (by decide +kernel) (by decide +kernel)⟩

/-- A group of a kernel object at 0x100000 whose trap handler is equivalence point 3, with a migration request or not. -/
def tKernel (req : Bool) : Group := { tGroup 0 with
  front := false, tbase := 0x80000003, migReq := req, ker := ⟨0x100000, 0x100000, 0x100000, true, true, Config.ownTag, Config.ownTag, 64, 64⟩ }

/-- Memory with the kernel object: equivalence point 3 stands at offset 0x40 of both images and has empty lists. -/
def tEqp (g : Group) : State := { tState g with
  mem := tWords (fetchTables ++ [(0x100000, 0xA17D), (0x100020, 0x10000000000), (0x100100, 1), (0x100108, 192), (0x100120, 1 + 3 * 2 ^ 52), (0x100130, 0x40),
    (0x100138, 0x40)]) }

/-- The same with the group's team, whose vault space holds migration frames. -/
def tEqpTeam (g : Group) : State := { tEqp g with teams := [⟨g.team, none, 0, 5, 0, [0], 0, 0x1000, [(0, [3]), (1, [4])], 1, [1], false, 0, none, 1⟩] }

/-- An entry of that group stands at an instruction and can take a trap. -/
def tStand (s : State) (g : Group) : Bool :=
  decide (s.cur = some tCur) && decide (getGroup s 1 = some g) && liveMask g &&& actLanes g tCur != 0 && decide (0 < g.ents.length) &&
    !tracing s g.core g.pasid && decide (mapGet 0 s.tags (16 * g.gid + tCur.ent) = 0) &&
    (handlerAddr s g).isSome && decide (g.frames.length < 4)

theorem tStands {s : State} {g : Group} (h : tStand s g = true) : Stands s tCur g ∧ CanTrap s g := by
  simp only [tStand, Bool.and_eq_true, decide_eq_true_eq, Bool.not_eq_true', bne_iff_ne] at h
  obtain ⟨⟨⟨⟨⟨⟨⟨h1, h2⟩, h3⟩, h4⟩, h5⟩, h6⟩, h7⟩, h8⟩ := h
  exact ⟨⟨h1, h2, h3, h4, h5, h6⟩, h7, h8⟩

/-- No core traces where no register has been written. -/
theorem tUntraced {s : State} {core : Nat} {pasid : BitVec 20} (h : s.regs = []) : tracing s core pasid = false := by
  simp [tracing, regField, regGet, h, mapGet, bits]

/-- A group in the migrating state at point 3. -/
def tMigr : Group := { setEnt (tKernel true) 0 { entAt (tKernel true) 0 with st := .migrating } with migCore := some 1, migWord := 3 * 8 }

/-- EQP without a request, with one that is taken, and with one that a call on the stack refuses; a migration that can run. -/
theorem wit_EquivalencePointsAndMigration :
    Met (.eqp ⟨0, 7⟩ 3) (fun c => ¬(c.g.migReq = true ∧ c.g.frames = [] ∧ c.act = liveMask c.g)) ∧
    MetAt (.eqp ⟨0, 7⟩ 3) (fun s cu g => g.migReq = true ∧ g.frames = [] ∧ actLanes g cu = liveMask g ∧
      migRefused { s with cur := none } g 3 = false ∧ cu.ent < g.ents.length) ∧
    MetAt (.eqp ⟨0, 7⟩ 4095) (fun s cu g => Stands s cu g ∧ CanTrap s g ∧ g.migReq = true ∧ g.frames = [] ∧ actLanes g cu = liveMask g ∧
      migRefused { s with cur := none } g 4095 = true) ∧
    Met (.migr ⟨0, 7⟩) (fun c => c.on ≠ 0) ∧
    ∃ s g p, getGroup s 1 = some g ∧ migEntry g = some 0 ∧ migReady s g = true ∧ migPlan s (landAll g) (bits g.migWord.toNat 14 3) = some p ∧
      p.src = [] ∧ p.dst = [] ∧ (∀ core < 64, ∀ pasid, tracing s core pasid = false) ∧ g.core < 64 ∧ g.w ≤ 64 :=
  ⟨tMet (tEqp (tKernel false)) (tKernel false) (by decide +kernel) (by decide +kernel),
    tAt (tEqpTeam (tKernel true)) (tKernel true) (by decide +kernel) (by decide +kernel),
    tAt (tEqp (tKernel true)) (tKernel true) (by decide +kernel)
      ⟨(tStands (by decide +kernel)).1, (tStands (by decide +kernel)).2, by decide +kernel⟩,
    tMet (tState (tGroup 0)) (tGroup 0) (by decide +kernel) (by decide +kernel),
    tEqpTeam tMigr, tMigr, ⟨192, ⟨0x40, 0x40, 0, 0, 3, 0, true, 0⟩, [], []⟩, by decide +kernel, by decide +kernel, by decide +kernel, by decide +kernel, rfl, rfl,
    fun _ _ _ => tUntraced rfl, by decide, by decide⟩

/-- A state where a trap is taken by an instruction that `P` holds of. -/
def MetTrap (i : Instr) (P : Ctx → Prop) : Prop := ∃ s cu g, Runs i s cu g ∧ Stands s cu g ∧ CanTrap s g ∧ P (runCtx i s cu g)

theorem tTrap {i : Instr} {P : Ctx → Prop} (s : State) (g : Group) (h : tCan i s g = true) (k : tStand s g = true) (p : P (runCtx i s tCur g)) :
    MetTrap i P := ⟨s, tCur, g, tRuns h, (tStands k).1, (tStands k).2, p⟩

theorem wit_TrapRaisesSoftwareTrap :
    MetTrap (.trap ⟨0, 7⟩ 0xFFF) (fun c => within c.g c.on ≠ 0) ∧ Met (.trap ⟨0, 2⟩ 5) (fun c => c.on = 0) :=
  ⟨tTrap (tEqp (tKernel false)) (tKernel false) (by decide +kernel) (by decide +kernel) (by decide +kernel),
    tMet (tEqp (tKernel false)) (tKernel false) (by decide +kernel) (by decide +kernel)⟩

/-- A group with one frame, whose record has code 0x0203. -/
def tFrame (h : W64) : Group := { tKernel false with
  frames := [⟨tFaultRec 0x0203 1, h, 0x100020, Config.none64⟩], s := [(2, 1), (3, 4), (4, 8), (5, 32)] }

/-- FREC.RD of a word of the top frame, of a word past the record, of a frame that does not exist, and of an index out of range. -/
theorem wit_FaultRecordReadSelectsWord : ∀ i ∈ ([.frecRd ⟨0, 7⟩ 20 2, .frecRd ⟨0, 7⟩ 20 3, .frecRd ⟨0, 7⟩ 20 4, .frecRd ⟨0, 7⟩ 20 5] : List Instr),
    Runs i (tState (tFrame 0xFFFF)) tCur (tFrame 0xFFFF) := tAll (by decide +kernel)

theorem wit_TrapReturnPopsTheFrame : MetAt (.tret ⟨0, 7⟩) (fun _ cu g => active (.tret ⟨0, 7⟩) g cu ≠ 0 ∧
    ∃ f, g.frames = [] ++ [f] ∧ actLanes g cu = f.h &&& liveMask g) :=
  tAt (tState (tFrame 0xFFFF)) (tFrame 0xFFFF) (by decide +kernel) ⟨by decide +kernel, _, rfl, by decide +kernel⟩

/-- A user group, and one whose a5 is misaligned, a6 read-only, a4 empty. -/
def tFaulty (sys : Bool) : Group := { tKernel false with sys := sys, a := tAccess.a, p := [(0, 0x8001)] }

/-- The same with eight lane registers. -/
def tFew : Group := { tFaulty true with ker := { (tFaulty true).ker with regsL := 8 } }

/-- A privileged instruction in user mode, a register past .regs; a misaligned load, a load out of bounds, stores
without W; BKPT; TRET without a frame and with other lanes; the collective instructions with lanes missing. -/
theorem wit_TrapsEnterTheHandler :
    (∃ s g, privileged (.halt ⟨0, 7⟩) = true ∧ Stands s tCur g ∧ CanTrap s g ∧ encOk g (.halt ⟨0, 7⟩) (pcOf g tCur) = true ∧ g.sys = false) ∧
    (∃ s g, encode (.mov ⟨0, 7⟩ 63 1) ≠ none ∧ Illegal (.mov ⟨0, 7⟩ 63 1) s tCur g) ∧
    (∃ s g, Runs (.ldReg ⟨0, 0⟩ .b32 4 5 8) s tCur g ∧ Stands s tCur g ∧ (entAt g 0).busy = false ∧
      let r := checked (.ldReg ⟨0, 0⟩ .b32 4 5 8) s tCur g 5 (fun g l => (rd32 g 8 l).toInt) 4 .load
      r.2.1 ≠ [] ∧ (∀ x ∈ r.2.1, x.2.rank ≠ 7) ∧ CanTrap r.1.s g) ∧
    (∃ s g, Runs (.ldImm ⟨0, 0⟩ .b32 4 4 0) s tCur g ∧ Stands s tCur g ∧
      let r := checked (.ldImm ⟨0, 0⟩ .b32 4 4 0) s tCur g 4 (fun _ _ => 0) 4 .load
      r.2.1 ≠ [] ∧ (∀ x ∈ r.2.1, x.2.rank ≠ 7) ∧ CanTrap r.1.s g) ∧
    (∃ s g, Runs (.stReg ⟨0, 0⟩ .b32 4 6 8) s tCur g ∧ Stands s tCur g ∧
      let r := checked (.stReg ⟨0, 0⟩ .b32 4 6 8) s tCur g 6 (fun g l => (rd32 g 8 l).toInt) 4 .store
      r.2.1 ≠ [] ∧ (∀ x ∈ r.2.1, x.2.rank ≠ 7) ∧ CanTrap r.1.s g) ∧
    (∃ s g, Runs (.stImm ⟨0, 0⟩ .b32 4 6 1) s tCur g ∧ Stands s tCur g ∧
      let r := checked (.stImm ⟨0, 0⟩ .b32 4 6 1) s tCur g 6 (fun _ _ => 4) 4 .store
      r.2.1 ≠ [] ∧ (∀ x ∈ r.2.1, x.2.rank ≠ 7) ∧ CanTrap r.1.s g) ∧
    MetTrap (.bkpt ⟨0, 7⟩ 0xFFF) (fun c => within c.g c.on ≠ 0 ∧ debugStops c.s c.g.pasid = false ∧ ∀ l < c.g.w, (laneAt c.g l).dbg = false) ∧
    MetTrap (.tret ⟨0, 7⟩) (fun c => c.on ≠ 0 ∧ c.g.frames = []) ∧
    MetTrap (.tret ⟨0, 7⟩) (fun c => c.on ≠ 0 ∧ ∃ f, c.g.frames.getLast? = some f ∧ c.act ≠ f.h &&& liveMask c.g) ∧
    (∀ i ∈ ([.mma ⟨0, 0, 0⟩ .e4m3 2 2 4 0 7 63 0 true, .mmas ⟨0, 0, 0⟩ .bf16 2 2 4 0 7 0 0 false .x2, .tld ⟨0, 0, 0⟩ 2 4 0 8 7 0 5 .f32,
      .tst ⟨0, 0, 0⟩ 2 4 0 8 7 0 5 .e4m3 .dyn .none, .tscale ⟨0, 0, 0⟩ 2 0 3 0 0 0 .row .rn, .tzero ⟨0, 0, 0⟩ 2 0 0 0] : List Instr),
      MetTrap i (fun c => c.on ≠ fullMask c.g.w)) := by
  have k : ∀ b, Stands (tEqp (tFaulty b)) tCur (tFaulty b) ∧ CanTrap (tEqp (tFaulty b)) (tFaulty b) := fun b => tStands (by cases b <;> decide +kernel)
  refine ⟨⟨tEqp (tFaulty false), tFaulty false, rfl, (k false).1, (k false).2, by decide +kernel, rfl⟩,
    ⟨tEqp tFew, tFew, by decide +kernel, (tStands (by decide +kernel)).1,
      (tStands (by decide +kernel)).2, by decide +kernel⟩,
    ⟨tEqp (tFaulty true), tFaulty true, tRuns (by decide +kernel), (k true).1, rfl, by decide +kernel, by decide +kernel, by decide +kernel, by decide +kernel⟩,
    ⟨tEqp (tFaulty true), tFaulty true, tRuns (by decide +kernel), (k true).1, by decide +kernel, by decide +kernel, by decide +kernel, by decide +kernel⟩,
    ⟨tEqp (tFaulty true), tFaulty true, tRuns (by decide +kernel), (k true).1, by decide +kernel, by decide +kernel, by decide +kernel, by decide +kernel⟩,
    ⟨tEqp (tFaulty true), tFaulty true, tRuns (by decide +kernel), (k true).1, by decide +kernel, by decide +kernel, by decide +kernel, by decide +kernel⟩,
    tTrap (tEqp (tFaulty true)) (tFaulty true) (by decide +kernel) (by decide +kernel) (by decide +kernel),
    tTrap (tEqp (tFaulty true)) (tFaulty true) (by decide +kernel) (by decide +kernel) (by decide +kernel),
    tTrap (tEqp (tFrame 0xFF)) (tFrame 0xFF) (by decide +kernel) (by decide +kernel)
      ⟨by decide +kernel, ⟨tFaultRec 0x0203 1, 0xFF, 0x100020, Config.none64⟩, rfl, by decide +kernel⟩, ?_⟩
  intro i hi
  simp only [List.mem_cons, List.not_mem_nil, or_false] at hi
  rcases hi with rfl | rfl | rfl | rfl | rfl | rfl <;>
    exact tTrap (tEqp (tFaulty true)) (tFaulty true) (by decide +kernel) (by decide +kernel) (by decide +kernel)

/-- A state whose trace of core 0 is on for the context of the group. -/
def tTraced (g : Group) : State := { tState g with regs := [(offTrctl 0, 1)] }

theorem wit_HaltRegionsAndMarks :
    MetAt (.halt ⟨0, 7⟩) (fun s cu g => active (.halt ⟨0, 7⟩) g cu ≠ 0 ∧ debugSlot s g.pasid = none ∧ (batchAt s (dieOf g.core)).closed = none ∧
      ((batchAt s (dieOf g.core)).entries.filter (·.kind == 1)).length < 32 ∧ stopAwaits g = false) ∧
    Met (.rgnEnter ⟨0, 7⟩ 0xFFF) (fun c => c.on ≠ 0 ∧ c.g.halt = false) ∧ Met (.rgnLeave ⟨0, 7⟩ 1) (fun c => c.on ≠ 0 ∧ c.g.halt = false) ∧
    Met (.traceMark ⟨0, 7⟩ 3) (fun _ => True) ∧
    ∃ s g, s.cur = some tCur ∧ getGroup s 1 = some g ∧ encOk g (.traceMark ⟨0, 7⟩ 3) (pcOf g tCur) = true ∧ (entAt g tCur.ent).busy = false ∧ g.pend = [] ∧ g.released = 0 ∧
      active (.traceMark ⟨0, 7⟩ 3) g tCur ≠ 0 ∧ tracing s g.core g.pasid = true :=
  ⟨tAt (tState (tGroup 0)) (tGroup 0) (by decide +kernel) (by decide +kernel), tMet (tState (tGroup 0)) (tGroup 0) (by decide +kernel) (by decide +kernel),
    tMet (tState (tGroup 0)) (tGroup 0) (by decide +kernel) (by decide +kernel), tMet (tState (tGroup 0)) (tGroup 0) (by decide +kernel) trivial,
    tTraced (tGroup 0), tGroup 0, by decide +kernel⟩

/-! ## Engine copies and the matrix unit -/

/-- A layout record of elements of 4 bytes: `r` dimensions of 16, boxes of 4 elements of the first. -/
def tLayout (r : Nat) : Nat := 2 + r * 16 + 3 * 2 ^ 112 + (List.range r).foldl (fun x i => x + 16 * 2 ^ (192 + 32 * i)) 0 + (if r = 2 then 64 * 2 ^ 352 else 0)

/-- A team of the group with all of the vault of core 0 and four tiles on cores 0 and 1. -/
def tTeam : Team := ⟨1, none, 0, 0, 0, [0, 1], 0, 0x3C00000, [(0, [3, 4, 5, 6]), (1, [3, 4, 5, 6])], 4, [1], false, 0, none, 1⟩

/-- A state with a barrier at 0x1000 and a layout record at 0x1040 of the vault of core 0. -/
def tEngine (r : Nat) (g : Group) : State := { tMapped g with
  vault := writeN (writeN [] 0x1000 64 (barVal (tBar 1 1 false))) 0x1040 64 (tLayout r), teams := [tTeam] }

/-- a1 a global register of 4 KiB, a2 the barrier, a3 the layout record, a5 and a6 vault registers. -/
def tCopy : Group := { tAccess with
  a := [(1, ⟨0x100000, 0x100000, 0x101000, 0, 15⟩), (2, ⟨0x1000, 0x1000, 0x1100, 1, 15⟩), (3, ⟨0x1040, 0x1000, 0x1100, 1, 15⟩),
    (5, ⟨0x2000, 0x2000, 0x4000, 1, 15⟩), (6, ⟨0x8000, 0x8000, 0x10000, 1, 15⟩)]
  s := [(12, 1)] }

/-- The layout record at 0x1040 is read for the first active lane. -/
theorem tLayoutAt {c : Ctx} (l : Nat) (h : c.s.vpoison = []) (k : let ar := getA c.g 3
    ar.space = 1 ∧ recCauses c ar = [] ∧ placeBusy c.s c.g (.vault 0x1040) 64 = false ∧
      lowestLane c.g.w c.on = some l ∧ gather c (BitVec.twoPow 64 l) ar (fun _ => 0) 64 .rd = (c, [], [⟨l, 0x1040, .vault 0x1040⟩])) :
    LayoutAt c 3 0x1040 :=
  ⟨k.1, k.2.1, k.2.2.1, ⟨l, l, 0x1040, k.2.2.2.1, k.2.2.2.2⟩, fun _ _ => by rw [h]; rfl⟩

/-- What a fork of `n` operations on the barrier asks. -/
abbrev Forking (n : Nat) (c : Ctx) : Prop := BarAt c 2 3 true 0x1000 ∧ DrainedFork c.s c.g ∧ (readBar c.s 0x1000).ops + n ≤ 65535 ∧
  (c.s.ops.filter fun o => dieOf o.core == dieOf c.g.core).length + n ≤ Config.copyRequests

theorem tFork {c : Ctx} {n : Nat} (h : BarAt c 2 3 true 0x1000) (d : c.s.cbuf = []) (e : c.s.accs = [])
    (o : (readBar c.s 0x1000).ops + n ≤ 65535 ∧ (c.s.ops.filter fun o => dieOf o.core == dieOf c.g.core).length + n ≤ Config.copyRequests) :
    Forking n c := ⟨h, tDrainedFork d e, o⟩

/-- A group whose lanes 0 and 15 copy 8 KiB. -/
def tCopyLong : Group := { tCopy with v := [(640, 0x2000), (655, 0x2000)] }

theorem wit_EngineCopiesForkOperations :
    Met (.xcpIn ⟨0, 0, 0⟩ 8 1 5 3 2) (fun c => Forking 2 c ∧ LayoutAt c 3 0x1040 ∧ EngineReg c 1 [0] ∧ EngineReg c 5 [0, 1] ∧
      ∀ l ∈ lanesOf c.g.w c.on, OwnDevice c 5 (packPtr c (getA c.g 5) 8 l) ∧
        xcpPost c (getA c.g 1) (getA c.g 5) 8 true (fun _ => false) (vaultRead c.s 0x1040 64) l = []) ∧
    Met (.xcpOut ⟨0, 0, 0⟩ 8 1 5 3 2) (fun c => Forking 2 c ∧ LayoutAt c 3 0x1040 ∧ EngineReg c 1 [0] ∧ EngineReg c 5 [1] ∧
      ∀ l ∈ lanesOf c.g.w c.on, xcpPost c (getA c.g 1) (getA c.g 5) 8 false (fun _ => false) (vaultRead c.s 0x1040 64) l = []) ∧
    Met (.xred ⟨0, 0, 0⟩ 8 1 5 3 2 .f32) (fun c => Forking 2 c ∧ LayoutAt c 3 0x1040 ∧ EngineReg c 1 [0, 1] ∧ EngineReg c 5 [1] ∧
      (layoutOf (vaultRead c.s 0x1040 64)).playout = 0 ∧ esOf (layoutOf (vaultRead c.s 0x1040 64)) = xredEs .f32 ∧
      ∀ l ∈ lanesOf c.g.w c.on, xcpPost c (getA c.g 1) (getA c.g 5) 8 false (fun x => x.playout != 0 || esOf x != xredEs .f32)
        (vaultRead c.s 0x1040 64) l = []) ∧
    Met (.xgath ⟨0, 0, 0⟩ 8 1 5 3 2) (fun c => Forking 1 c ∧ LayoutAt c 3 0x1040 ∧ EngineReg c 1 [0] ∧ EngineReg c 5 [0, 1] ∧
      OwnDevice c 5 (getA c.g 5).ptr.toNat ∧
      ∀ l ∈ lanesOf c.g.w c.on, xgathPost c (getA c.g 1) (getA c.g 5) (vaultRead c.s 0x1040 64) (rd32 c.g 8 l).toInt = []) ∧
    Met (.xcpV ⟨0, 0, 0⟩ 8 5 6 2) (fun c => Forking 2 c ∧ EngineReg c 5 [1] ∧ EngineReg c 6 [1] ∧ ∀ l ∈ lanesOf c.g.w c.on,
      (((getA c.g 5).ptr.toNat : Int) + (rd32 c.g 8 l).toNat) % 4 = 0 ∧ (((getA c.g 6).ptr.toNat : Int) + (getV c.g 9 l).toNat) % 4 = 0 ∧
      (getV c.g 10 l).toNat = 0x2000 ∧ engRange c (getA c.g 5) ((getA c.g 5).ptr.toNat + (rd32 c.g 8 l).toNat) 0x2000 = [] ∧
      engRange c (getA c.g 6) ((getA c.g 6).ptr.toNat + (getV c.g 9 l).toNat) 0x2000 = []) :=
  ⟨tMet (tEngine 1 tCopy) tCopy (by decide +kernel) ⟨tFork (by decide +kernel) rfl rfl (by decide +kernel), tLayoutAt 0 rfl (by decide +kernel), by decide +kernel⟩,
    tMet (tEngine 1 tCopy) tCopy (by decide +kernel) ⟨tFork (by decide +kernel) rfl rfl (by decide +kernel), tLayoutAt 0 rfl (by decide +kernel), by decide +kernel⟩,
    tMet (tEngine 1 tCopy) tCopy (by decide +kernel) ⟨tFork (by decide +kernel) rfl rfl (by decide +kernel), tLayoutAt 0 rfl (by decide +kernel), by decide +kernel⟩,
    tMet (tEngine 2 tCopy) tCopy (by decide +kernel) ⟨tFork (by decide +kernel) rfl rfl (by decide +kernel), tLayoutAt 0 rfl (by decide +kernel), by decide +kernel⟩,
    tMet (tEngine 1 tCopyLong) tCopyLong (by decide +kernel) ⟨tFork (by decide +kernel) rfl rfl (by decide +kernel), by decide +kernel⟩⟩

/-- The same group on core 1, a D-core. -/
def tCopyD : Group := { tGroup 1 with a := tCopy.a, s := tCopy.s }

theorem wit_MatrixInstructionsEnterTheQueue :
    Met (.mma ⟨0, 7, 0⟩ .e4m3 3 6 20 24 2 15 48 true) (fun c => c.on = fullMask c.g.w ∧ (queueOf c.s c.g.core).length < 32 ∧ Forking 1 c ∧
      TileRows c 3 6 48 16 ∧ MmaOk c .e4m3 6 20 16 none) ∧
    Met (.mmas ⟨0, 7, 0⟩ .bf16 0 6 20 24 2 0 0 false .x2) (fun c => c.on = fullMask c.g.w ∧ (queueOf c.s c.g.core).length < 32 ∧ Forking 1 c ∧
      TileRows c 0 3 0 1 ∧ MmaOk c .bf16 6 20 1 (some .x2)) ∧
    Met (.tld ⟨0, 7, 0⟩ 1 1 20 24 2 0 63 .f32) (fun c => c.on = fullMask c.g.w ∧ Forking 1 c ∧ physTile c.s c.g 1 = some 4 ∧
      tileMem c (getA c.g 1) (getS c.g 24).toNat (getS c.g 25).toInt (tldEs .f32) 1 1 63 = []) ∧
    Met (.tst ⟨0, 7, 0⟩ 1 1 20 24 2 0 0 .f16 .rn .srow) (fun c => c.on = fullMask c.g.w ∧ Forking 1 c ∧ physTile c.s c.g 1 = some 4 ∧
      tileMem c (getA c.g 1) (getS c.g 24).toNat (getS c.g 25).toInt (tstEs .f16) 1 1 0 = [] ∧
      (physTile c.s c.g ((getS c.g 26).toNat % 16)).isSome = true) ∧
    Met (.tzero ⟨0, 7, 0⟩ 2 20 63 0) (fun c => c.on = fullMask c.g.w ∧ (queueOf c.s c.g.core).length < 32 ∧ TileRows c 2 5 0 64) ∧
    Met (.tscale ⟨0, 7, 0⟩ 2 20 3 0 5 63 .row .rn) (fun c => c.on = fullMask c.g.w ∧ TileRows c 2 5 5 1 ∧ TileRows c 3 6 63 1) ∧
    Met (.twr ⟨0, 7, 0⟩ 2 0 12 true 254) (fun c => c.on ≠ 0 ∧ (queueOf c.s c.g.core).length < 32 ∧ physTile c.s c.g 2 = some 5 ∧
      (getS c.g 12).toNat + 254 < 256) ∧
    (∀ b, MetAt (.trd ⟨0, 7, 0⟩ 0 2 12 false 62) (fun s cu g => latent g = b ∧ active (.trd ⟨0, 7, 0⟩ 0 2 12 false 62) g cu ≠ 0 ∧
      (queueOf s g.core).length < 32 ∧ physTile s g 2 = some 5 ∧ (getS g 12).toNat + 62 < 64)) ∧
    MetBack (.trd ⟨0, 7, 0⟩ 0 2 12 false 62) (fun _ => []) (fun s _ g as => latent g = false ∧ (as.map fun y => (y.lane, y.part)).Nodup ∧
      queueOf s g.core = []) := by
  have m : ∀ c, (c = runCtx (.mma ⟨0, 7, 0⟩ .e4m3 3 6 20 24 2 15 48 true) (tEngine 1 tCopy) tCur tCopy) → MmaOk c .e4m3 6 20 16 none := fun c h => by
    subst h
    exact ⟨rfl, by decide +kernel, by decide +kernel, by decide +kernel, by decide +kernel, by decide +kernel, by decide +kernel,
      ⟨by decide +kernel, fun _ _ => .inl rfl⟩, fun h => absurd h (by decide), fun h => by cases h⟩
  have n : ∀ c, (c = runCtx (.mmas ⟨0, 7, 0⟩ .bf16 0 6 20 24 2 0 0 false .x2) (tEngine 1 tCopy) tCur tCopy) → MmaOk c .bf16 6 20 1 (some .x2) := fun c h => by
    subst h
    exact ⟨rfl, by decide +kernel, by decide +kernel, by decide +kernel, by decide +kernel, by decide +kernel, by decide +kernel,
      ⟨by decide +kernel, fun _ _ => .inl rfl⟩, fun _ => ⟨by decide +kernel, by decide +kernel, fun _ _ => .inl rfl⟩, fun h => by cases h⟩
  refine ⟨tMet (tEngine 1 tCopy) tCopy (by decide +kernel) ⟨by decide +kernel, by decide +kernel, tFork (by decide +kernel) rfl rfl (by decide +kernel), by decide +kernel, m _ rfl⟩,
    tMet (tEngine 1 tCopy) tCopy (by decide +kernel) ⟨by decide +kernel, by decide +kernel, tFork (by decide +kernel) rfl rfl (by decide +kernel), by decide +kernel, n _ rfl⟩,
    tMet (tEngine 1 tCopy) tCopy (by decide +kernel) ⟨by decide +kernel, tFork (by decide +kernel) rfl rfl (by decide +kernel), by decide +kernel⟩,
    tMet (tEngine 1 tCopy) tCopy (by decide +kernel) ⟨by decide +kernel, tFork (by decide +kernel) rfl rfl (by decide +kernel), by decide +kernel⟩,
    tMet (tEngine 1 tCopy) tCopy (by decide +kernel) ⟨by decide +kernel, by decide +kernel, by decide +kernel⟩,
    tMet (tEngine 1 tCopy) tCopy (by decide +kernel) ⟨by decide +kernel, by decide +kernel, by decide +kernel⟩,
    tMet (tEngine 1 tCopy) tCopy (by decide +kernel) (by decide +kernel), fun b => ?_,
    tBack_ok 0 .load 5 (by decide +kernel) (by decide +kernel)⟩
  cases b
  · exact tAt (tEngine 1 tCopy) tCopy (by decide +kernel) (by decide +kernel)
  · exact tAt (tEngine 1 tCopyD) tCopyD (by decide +kernel) (by decide +kernel)

/-! ## Encoding, steps and the whole machine -/

/-- Well-formed instructions with operands at the ends of their ranges. -/
theorem wit_DecodeOfEncode : ∀ i ∈ ([.add ⟨3, 6⟩ true true 62 0 62, .movi ⟨1, 0⟩ 63 0x800, .ldImm ⟨0, 7⟩ .b128 60 15 63, .bra ⟨0, 7⟩ 0x20000,
    .ffma ⟨0, 7, 2⟩ .f64 62 62 0 2 .rd, .eqp ⟨0, 7⟩ 0xFFF, .amo ⟨0, 0, 0⟩ 62 15 63 60 .ar .sys .b64 .cas, .trd ⟨0, 7, 0⟩ 0 15 63 true 0xFF] : List Instr),
    i.WellFormed = true := by decide

/-- A word and an extension word that decode. -/
theorem wit_EncodeOfDecode : decode 0xBF051410 0x03200000 = .ok (.ffma ⟨2, 7, 0⟩ .f32 10 10 2 3 .rn) ∧
    decode 0x39008046 0xFFFFFFFF = .ok (.movi ⟨0, 7⟩ 1 8) := ⟨rfl, rfl⟩

/-- The word `w` is fetched at `va`. -/
def tFetched (s : State) (g : Group) (act : W64) (va : Nat) (w : W32) : Bool :=
  (match (fetchPlace s g va).1 with
    | .ok pa => decide (pa < Config.memSize → (fetchPlace s g va).2.poison.contains (lineOf pa) = false) &&
        w == BitVec.ofNat 32 (memRead (fetchPlace s g va).2 (pasidKey (fetchPlace s g va).2 g.pasid) pa 4)
    | .error _ => false) && (cachedWord (fetchPlace s g va).2 g va w).1 == w && (fetchDenied g act va).isEmpty

/-- The state after that fetch. -/
def tAfter (s : State) (g : Group) (va : Nat) (w : W32) : State := (cachedWord (fetchPlace s g va).2 g va w).2

theorem tFetches {s : State} {g : Group} {act : W64} {va : Nat} {w : W32} (h : tFetched s g act va w = true) : Fetches s g act va w (tAfter s g va w) := by
  simp only [tFetched, Bool.and_eq_true] at h
  obtain ⟨⟨h1, h2⟩, h3⟩ := h
  split at h1
  · rename_i pa e
    obtain ⟨h1, h4⟩ := (Bool.and_eq_true _ _).mp h1
    exact ⟨pa, _, Prod.ext e rfl, of_decide_eq_true h1, eq_of_beq h4, Prod.ext (eq_of_beq h2) rfl, List.isEmpty_iff.mp h3⟩
  · cases h1

/-- The state where a word and an extension word stand where the next step fetches, once its turn has been taken. -/
def tNext (n w : Nat) : State := taken (State.reset.withFetchWord n w) []

/-- Its group after the issue cycle of the turn. -/
def tIssued (n w : Nat) : Group :=
  let g := groupCycle (fetchGroup State.reset)
  { setEnt g 0 { entAt g 0 with last := (tNext n w).seq + 1 } with last := (tNext n w).seq + 1, arriving := false, yielded := false }

/-- The state after the issue cycle. -/
def tTurn (n w : Nat) : State := setGroup (endYields { tNext n w with seq := (tNext n w).seq + 1 } (tIssued n w).core) (tIssued n w)

theorem tIssues (n w : Nat) (h : runningGroup (tNext n w) 0 = some (fetchGroup State.reset))
    (j : mayIssue (tNext n w) (fetchGroup State.reset) 0 = true) (k : selected (tNext n w) (fetchGroup State.reset) = true) (l : (holdLanes (tIssued n w) 0).lanes = (tIssued n w).lanes)
    (m : inTokens (entAt (tIssued n w) 0).pc = false) : Issues (tNext n w) 0 0 (tTurn n w) (tIssued n w) :=
  ⟨fetchGroup State.reset, h, by decide +kernel, rfl, j, k, rfl, rfl, rfl, l, m⟩

/-- A reset without images. -/
def tBoot : BootInput := ⟨0, 0, [], [], 0, [], [], false, false, 0⟩

/-- A group that waits in LD.b32 v8, [a3 + 16]. -/
def tInLoad : Group := setEnt { tGroup 0 with flights := [(0, { noFlight with w0 := 0x3CA40624 })] } 0 { entAt (tGroup 0) 0 with busy := true }

/-- A one-word instruction, a two-word instruction, an entry that waits, a device turn, a failed device. -/
theorem wit_StepRunsDecodedInstruction :
    (∃ t g, (State.reset.withFetchWord 32 0x39008046).agenda = [.issue 0 0] ∧ (State.reset.withFetchWord 32 0x39008046).failed = false ∧
      Issues (taken (State.reset.withFetchWord 32 0x39008046) []) 0 0 t g ∧ (entAt g 0).busy = false ∧ (entAt g 0).pc = 0x100000 ∧
      (∃ t0, Fetches t g (entAt g 0).act 0x100000 0x39008046 t0) ∧ wide 0x39008046 = false ∧ decode 0x39008046 0 = .ok (.movi ⟨0, 7⟩ 1 8) ∧
      uniHeld g (.movi ⟨0, 7⟩ 1 8) = false) ∧
    (∃ t g, Issues (taken (State.reset.withFetchWord 64 0x032000003F051410) []) 0 0 t g ∧ (entAt g 0).busy = false ∧ formL g = true ∧
      (∃ t0 t1, Fetches t g (entAt g 0).act 0x100000 0x3F051410 t0 ∧ Fetches t0 g (entAt g 0).act 0x100004 0x03200000 t1) ∧ wide 0x3F051410 = true ∧
      decode 0x3F051410 0x03200000 = .ok (.ffma ⟨0, 7, 0⟩ .f32 10 10 2 3 .rn) ∧ uniHeld g (.ffma ⟨0, 7, 0⟩ .f32 10 10 2 3 .rn) = false) ∧
    (∃ s g0, s.agenda = [.issue 1 0] ∧ s.failed = false ∧ runningGroup s 1 = some g0 ∧ busyReady g0 0 = true ∧ decode (mapGet noFlight g0.flights 0).w0 (mapGet noFlight g0.flights 0).w1 = .ok (.ldImm ⟨0, 7⟩ .b32 8 3 4)) ∧
    (∃ s : State, s.agenda = [.event .rebase] ∧ s.failed = false) ∧ (∃ s : State, s.agenda = []) ∧
    (∃ b, ∃ s : State, s.agenda = [.event (.deviceReset b)]) ∧
    (∃ s : State, s.agenda = [.event (.notifyWrite 0 0 8 1)] ∧ s.failed = true) ∧
    (∃ s : State, s.agenda = [.event (.registerWrite 8 1)] ∧ s.failed = true ∧ barDrops (.event (.registerWrite 8 1)) = true) ∧
    (∃ s : State, s.agenda = [.tick (.ns 7)]) ∧ ∃ s : State, s.agenda = [.issue 0 0] ∧ s.failed = true :=
  ⟨⟨tTurn 32 0x39008046, tIssued 32 0x39008046, rfl, rfl, tIssues _ _ (by decide +kernel) (by decide +kernel) (by decide +kernel) (by decide +kernel) (by decide +kernel), by decide +kernel, by decide +kernel,
      ⟨_, tFetches (by decide +kernel)⟩, by decide +kernel, rfl, by decide +kernel⟩,
    ⟨tTurn 64 0x032000003F051410, tIssued 64 0x032000003F051410, tIssues _ _ (by decide +kernel) (by decide +kernel) (by decide +kernel) (by decide +kernel) (by decide +kernel), by decide +kernel, by decide +kernel,
      ⟨_, _, tFetches (by decide +kernel), tFetches (by decide +kernel)⟩, by decide +kernel, rfl, by decide +kernel⟩,
    ⟨{ tState tInLoad with agenda := [.issue 1 0] }, tInLoad, rfl, rfl, by decide +kernel, by decide +kernel, rfl⟩,
    ⟨{ State.reset with agenda := [.event .rebase] }, rfl, rfl⟩, ⟨State.reset, rfl⟩,
    ⟨tBoot, { State.reset with agenda := [.event (.deviceReset tBoot)] }, rfl⟩,
    ⟨{ State.reset with agenda := [.event (.notifyWrite 0 0 8 1)], failed := true }, rfl, rfl⟩,
    ⟨{ State.reset with agenda := [.event (.registerWrite 8 1)], failed := true }, rfl, rfl, rfl⟩, ⟨{ State.reset with agenda := [.tick (.ns 7)] }, rfl⟩,
    ⟨{ State.reset with agenda := [.issue 0 0], failed := true }, rfl, rfl⟩⟩

theorem wit_StepKeepsMemoryCanonical : ∃ s s', Canonical s ∧ step s = .next s' ∧ s ≠ s' :=
  ⟨{ State.reset with agenda := [.event .invAll], mem := [(5, 1)] }, _, ⟨by decide +kernel, by decide +kernel⟩, rfl, by decide +kernel⟩

/-! ## One step, with results worked out by hand from the rules -/

/-- A group on an L-core with v1, v2 and v3 of lane 0 set. -/
def tVals (a b d : W32) : Group := { tGroup 0 with v := [(64, a), (128, b), (192, d)] }

/-- Register `r` of lane 0 after one instruction of that group, its late results landed. -/
def tResult (i : Instr) (a b d : W32) (r : Nat) : Option W32 :=
  match exec i (tState (tVals a b d)) with
  | .next t => (getGroup t 1).map fun g => getV (landAll g) r 0
  | _ => none

/-- 09 R113: ADD wraps. -/
theorem test_add_wraps : tResult (.add ⟨0, 7⟩ false false 3 1 2) 0xFFFFFFFF 2 0 3 = some 1 := by decide +kernel

/-- 09 R113: ADD.SAT stops at the largest signed number. -/
theorem test_add_saturates : tResult (.add ⟨0, 7⟩ true false 3 1 2) 0x7FFFFFFF 1 0 3 = some 0x7FFFFFFF := by decide +kernel

/-- 09 R113: a source may be the destination: 5 - 7 is -2. -/
theorem test_sub_into_source : tResult (.sub ⟨0, 7⟩ false false 1 1 2) 5 7 0 1 = some 0xFFFFFFFE := by decide +kernel

/-- 09 R113: the high half of -1 times 2 is -1 signed, 1 unsigned. -/
theorem test_mulh_signed : tResult (.mulh ⟨0, 7⟩ false false 3 1 2) 0xFFFFFFFF 2 0 3 = some 0xFFFFFFFF := by decide +kernel
theorem test_mulh_unsigned : tResult (.mulh ⟨0, 7⟩ true false 3 1 2) 0xFFFFFFFF 2 0 3 = some 1 := by decide +kernel

/-- 09 R113: a quotient by zero is all ones, a remainder by zero the dividend. -/
theorem test_idiv_by_zero : tResult (.idiv ⟨0, 7⟩ false false 3 1 2) 7 0 0 3 = some 0xFFFFFFFF := by decide +kernel
theorem test_irem_by_zero : tResult (.irem ⟨0, 7⟩ false false 3 1 2) 7 0 0 3 = some 7 := by decide +kernel

/-- 11 R133: 1.0 + 2.0 is 3.0 in FP32. -/
theorem test_fadd : tResult (.fadd ⟨0, 7⟩ .f32 3 1 2) 0x3F800000 0x40000000 0 3 = some 0x40400000 := by decide +kernel

/-- The address of lane 0 after one instruction of a group on an L-core, or on a D-core. -/
def tGoes (core : Nat) (i : Instr) : Option W64 :=
  match exec i (tState (tGroup core)) with
  | .next t => (getGroup t 1).map fun g => (laneAt g 0).pc
  | _ => none

/-- 09 R101: a branch of -1 goes back by a word in the L-form, by a packet of twelve bytes in the D-form. -/
theorem test_bra_backwards_l : tGoes 0 (.bra ⟨0, 7⟩ 0x3FFFF) = some 0xFFFFC := by decide +kernel
theorem test_bra_backwards_d : tGoes 1 (.bra ⟨0, 7⟩ 0x3FFFF) = some 0xFFFF4 := by decide +kernel

/-- 05 R65: a branch whose guard is true for no lane goes on at the next instruction. -/
theorem test_bra_false_guard : tGoes 0 (.bra ⟨0, 2⟩ 5) = some 0x100004 := by decide +kernel

/-! ## Device steps -/

/-- Entry 0 of a group changed. -/
def tEntry (f : Entry → Entry) (g : Group) : Group := setEnt g 0 (f (entAt g 0))

/-- A group whose entry 0 stands at cell 0 of the token table of its kernel object. -/
def tToken : Group :=
  { tEntry (fun x => { x with pc := 0xFFFF000000000000 }) (tKernel false) with lanes := (List.range 16).map fun _ => newLane 0xFFFF000000000000 false }

/-- The kernel object with one bound cell. -/
def tCell (g : Group) : State := { tEqp g with mem := tWords (fetchTables ++ [(0x100000, 0xA17D), (0x100030, 0x20000080000), (0x100200, 2),
  (0x100210, 0x100040)]) }

/-- What a read of a context's memory answered. -/
theorem tAnswer {α : Type} {v : α} [DecidableEq α] {x : State × Except CtxErr α} (h : (match x.2 with | .ok y => decide (y = v) | .error _ => false) = true) :
    x = (x.1, .ok v) := by
  obtain ⟨s, e⟩ := x
  cases e with
  | error e => cases h
  | ok y => exact congrArg (fun z => (s, Except.ok z)) (of_decide_eq_true h)

/-- The state after the header of that object was read, and after the cell was. -/
def tHeader : State := (cellAddr { tCell tToken with seq := (tCell tToken).seq + 1 } tToken (entAt tToken 0).pc).1
def tBound : State := (ctxLoads tHeader tToken tToken.pasid 0x100200 true 4).1

theorem tHeaderRead : cellAddr { tCell tToken with seq := (tCell tToken).seq + 1 } tToken (entAt tToken 0).pc = (tHeader, .ok (some 0x100200)) :=
  tAnswer (by decide +kernel)

theorem tBoundRead : ctxLoads tHeader tToken tToken.pasid 0x100200 true 4 = (tBound, .ok (2 + 0x100040 * 2 ^ 128)) := tAnswer (by decide +kernel)

/-- A hold at its limit; a rotation at its limit; a result that has not returned and one that has; a bound cell; lt below its limit; a
pending BUDGET; a slice in the last cycle of its budget. -/
theorem wit_GroupDeviceSteps :
    (∃ s g, getGroup s 1 = some g ∧ tracing s g.core g.pasid = false ∧ runningGroup s 1 = some g ∧ (entAt g 0).v = true ∧ 4096 ≤ (entAt g 0).hold) ∧
    (∃ s g, getGroup s 1 = some g ∧ runningGroup s 1 = some g ∧ (entAt g 0).v = true ∧ (entAt g 0).st = .ready ∧ (entAt g 0).busy = false ∧
      4096 ≤ (entAt g 0).dcnt ∧ deferredMask g 0 &&& liveMask g &&& laneWhere g canRun &&& frameSet g ≠ 0) ∧
    (∀ v ∈ [none, some 7], ∃ s g, getGroup s 1 = some g ∧ g.pend = [⟨9, .v 3 0, v⟩] ∧ gated s g.core = false) ∧
    (∃ s g va s1 g1 s2 g2 x, getGroup s 1 = some g ∧ tracing s g.core g.pasid = false ∧ (isResident g = true ∧ g.stopped = none ∧ entReady g 0 = true ∧
      (entAt g 0).busy = false ∧ inTokens (entAt g 0).pc = true ∧ mayIssue s g 0 = true) ∧
      cellAddr { s with seq := s.seq + 1 } g (entAt g 0).pc = (s1, .ok (some va)) ∧ (getGroup s1 1 = some g1 ∧ (∀ l < g1.w, (laneAt g1 l).denied = none) ∧
      va % 32 = 0 ∧ va + 32 ≤ 2 ^ 57) ∧ ctxLoads s1 g1 g1.pasid va true 4 = (s2, .ok x) ∧ getGroup s2 1 = some g2 ∧
      (∀ l < g2.w, (laneAt g2 l).denied = none) ∧ liveMask g2 ≠ 0 ∧ tracing s2 g2.core g2.pasid = false ∧ bits x 1 0 = 2 ∧
      targetAligned g2 (BitVec.ofNat 64 (if formL g2 then bits x 191 128 else bits x 127 64)) = true) ∧
    (∃ s g, getGroup s 1 = some g ∧ isResident g = true ∧ g.lt = 2 ^ 48 - 2) ∧
    (∃ s g, getGroup s 1 = some g ∧ g.budgetPend = true ∧ g.frames = [] ∧ isResident g = true ∧ g.stopped = none ∧ g.spark = false ∧ entReady g 0 = true ∧
      (entAt g 0).busy = false ∧ mayIssue s g 0 = true ∧ liveMask g ≠ 0 ∧ 0 < g.ents.length ∧ (handlerAddr s g).isSome = true ∧ mapGet 0 s.tags (16 * g.gid + 0) = 0) ∧
    ∃ s g sl, getGroup s 1 = some g ∧ g.slice = some sl ∧ sl.limited = true ∧ isResident g = true ∧ gated s g.core = false ∧ g.budget = 1 :=
  ⟨⟨tState (tEntry (fun x => { x with hold := 4096 }) (tGroup 0)), tEntry (fun x => { x with hold := 4096 }) (tGroup 0), by decide +kernel⟩,
    ⟨tState (tEntry (fun x => { x with dcnt := 4096, act := 0xFF }) (tGroup 0)), tEntry (fun x => { x with dcnt := 4096, act := 0xFF }) (tGroup 0), by decide +kernel⟩,
    fun v h => ⟨tState { tGroup 1 with pend := [⟨9, .v 3 0, v⟩] }, { tGroup 1 with pend := [⟨9, .v 3 0, v⟩] }, by
      simp only [List.mem_cons, List.not_mem_nil, or_false] at h
      rcases h with rfl | rfl <;> decide +kernel⟩,
    ⟨tCell tToken, tToken, 0x100200, tHeader, tToken, tBound, tToken, 2 + 0x100040 * 2 ^ 128, by decide +kernel, by decide +kernel, by decide +kernel,
      tHeaderRead, by decide +kernel, tBoundRead, by decide +kernel⟩,
    ⟨tState { tGroup 0 with lt := 2 ^ 48 - 2 }, { tGroup 0 with lt := 2 ^ 48 - 2 }, by decide +kernel⟩,
    ⟨tEqp { tKernel false with budgetPend := true }, { tKernel false with budgetPend := true }, by decide +kernel⟩,
    ⟨tState { tSlice with budget := 1 }, { tSlice with budget := 1 }, ⟨0, 0, 0, true⟩, by decide +kernel⟩⟩

/-- A line in the coalescing buffer of core 0, at 0x100000. -/
def tBuf (left : Bool) : BufLine := ⟨0, 0x2000, 0xF, 0x12345678, 5, [1], 0, false, left⟩

/-- An access on its way to an address of memory, or to a vault. -/
def tSent (op : AccOp) (p : Place) : Acc := { tDone op 0 with place := p, data := 9, st := .sent }

/-- A state with accesses. -/
def tAccs (l : List Acc) : State := { tState (tGroup 0) with accs := l }

/-- No other access of its instruction keeps an atomic from being performed. -/
abbrev Alone (s : State) (a : Acc) : Prop := rmwStopped s a = false ∧ rmwWaits s a (fun _ => true) = false

/-- The access at 0x100000 may be performed at its home. -/
theorem tHome {s : State} {k : Nat} {a : Acc} (h : openAcc s k = some a ∧ PlainLine s (lineOf 0x100000) ∧ accKey s a = 0)
    (p : a.place = .mem 0x100000 ∧ a.n = 4) (c : s.cbuf = []) : AtHome s k a 0x100000 :=
  ⟨h.1, p.1, h.2.1, h.2.2, by rw [p.2]; decide, by rw [p.2]; decide, by rw [p.2]; decide, fun y m => by rw [c] at m; exact absurd m List.not_mem_nil⟩

/-- An access whose reply is on its way. -/
def tReply (install : Bool) : Acc := { tSent .load (.mem 0x100000) with st := .replied 5 1 9 0x77 install }

theorem wit_MemoryDeviceSteps :
    (∃ s : State, (coreBufs s 0 false)[1]? = some (tBuf false) ∧ ∀ z ∈ (coreBufs s 0 false).take 1, z.line ≠ (tBuf false).line) ∧
    (∃ s : State, (coreBufs s 0 true).head? = some (tBuf true) ∧ biasHeld s (tBuf true).line = false ∧ PlainLine s (tBuf true).line ∧ pasidKey s (tBuf true).pasid = 0) ∧
    (∃ (s : State) (a : Acc), AtHome s 0 a 0x100000 ∧ a.op = .load ∧ a.renew = false) ∧
    (∃ (s : State) (a : Acc), s.accs[0]? = some a ∧ a.st = .replied 5 1 9 0x77 false ∧ a.place = .mem 0x100000 ∧ a.op ≠ .pfL1) ∧
    (∃ (s : State) (a : Acc), s.accs[0]? = some a ∧ a.st = .replied 5 1 9 0x77 true ∧ a.place = .mem 0x100000 ∧ a.op ≠ .pfL1 ∧ l1Find s a.core (lineOf 0x100000) = none ∧
      ∀ y ∈ s.cbuf, y.core ≠ a.core) ∧
    (∃ (s : State) (a : Acc), openAcc s 0 = some a ∧ a.place = .vault 0x1000 ∧ a.op = .store ∧ s.vpoison.contains (0x1000 / 128) = false) ∧
    (∃ (s : State) (a : Acc), openAcc s 0 = some a ∧ a.place = .vault 0x1000 ∧ a.op = .load ∧ s.vpoison.contains (0x1000 / 128) = false) ∧
    (∃ (s : State) (a : Acc) (v : Nat), AtHome s 0 a 0x100000 ∧ Alone s a ∧ a.op = .amo .swap 7 0 ∧ amoNew .swap a.n (readN s.mem 0x100000 a.n) 7 0 = some v) ∧
    (∃ (s : State) (a : Acc), AtHome s 0 a 0x100000 ∧ Alone s a ∧ a.op = .lr ∧ (∀ r ∈ s.scf, r.line = lineOf 0x100000 → r.window = false) ∧
      (resvOf s (lineOf 0x100000)).length < 4096) ∧
    (∃ (s : State) (a : Acc), AtHome s 0 a 0x100000 ∧ Alone s a ∧ a.op = .sc ∧ ⟨a.gid, a.lane, lineOf 0x100000⟩ ∈ s.resv) ∧
    (∃ (s : State) (a : Acc), AtHome s 0 a 0x100000 ∧ Alone s a ∧ a.op = .sc ∧ (⟨a.gid, a.lane, lineOf 0x100000⟩ : Resv) ∉ s.resv) ∧
    ∃ (s : State) (r : ScFail), s.scf[0]? = some r :=
  ⟨⟨{ State.reset with cbuf := [{ tBuf false with line := 0x2001 }, tBuf false] }, by decide +kernel⟩, ⟨{ State.reset with cbuf := [tBuf true] }, by decide +kernel⟩,
    ⟨tAccs [tSent .load (.mem 0x100000)], tSent .load (.mem 0x100000), tHome (by decide +kernel) ⟨rfl, rfl⟩ rfl, rfl, rfl⟩,
    ⟨tAccs [tReply false], tReply false, by decide +kernel⟩, ⟨tAccs [tReply true], tReply true, by decide +kernel⟩,
    ⟨tAccs [tSent .store (.vault 0x1000)], tSent .store (.vault 0x1000), by decide +kernel⟩,
    ⟨tAccs [tSent .load (.vault 0x1000)], tSent .load (.vault 0x1000), by decide +kernel⟩,
    ⟨tAccs [tSent (.amo .swap 7 0) (.mem 0x100000)], tSent (.amo .swap 7 0) (.mem 0x100000), 7, tHome (by decide +kernel) ⟨rfl, rfl⟩ rfl, by decide +kernel⟩,
    ⟨tAccs [tSent .lr (.mem 0x100000)], tSent .lr (.mem 0x100000), tHome (by decide +kernel) ⟨rfl, rfl⟩ rfl, by decide +kernel⟩,
    ⟨{ tAccs [tSent .sc (.mem 0x100000)] with resv := [⟨1, 15, 0x2000⟩] }, tSent .sc (.mem 0x100000), tHome (by decide +kernel) ⟨rfl, rfl⟩ rfl, by decide +kernel⟩,
    ⟨tAccs [tSent .sc (.mem 0x100000)], tSent .sc (.mem 0x100000), tHome (by decide +kernel) ⟨rfl, rfl⟩ rfl, by decide +kernel⟩,
    ⟨{ State.reset with scf := [⟨1, 0, 5, 2, true⟩] }, ⟨1, 0, 5, 2, true⟩, rfl⟩⟩

/-- A state whose host ports have trained, and whose page at 0x100000 has host bias or not. -/
def tHost (bias : Bool) : State := { State.reset with
  cxl := 3, regs := [(offBias, 0x200000)], mem := if bias then tWords [(0x200020, 1)] else [] }

/-- A request of four bytes at window 0x40, and one answered by an export entry at 0x5000 of context 0, which maps 0x100000. -/
def tRequest (op : RemoteOp) (n : W32) : RemoteReq := { src := 3, win := 0x40, op := op, bytes := 4, lt := 1, incn := n }

/-- The state with that entry. -/
def tExport : State := { State.reset with
  regs := [(offExport, 0x5000)]
  mem := [(0, 1), (49, 16), (50, 16), (20480, 3), (20495, 0x40), (20502, 0x40), (1052672, 1), (1052673, 1), (1052704, 15), (1052714, 16),
    (1052722, 16), (1052729, 16), (1052730, 16)] }

theorem tOk {x : Remote} (h : x.toBool = true) : ∃ v z, x = .ok (v, z) := by
  cases x with
  | error e => cases h
  | ok y => exact ⟨y.1, y.2, rfl⟩

theorem wit_LinkAndHostDeviceSteps :
    (∃ s : State, requestOk (tRequest .load 1) = true ∧ (tRequest .load 1).incn.toNat ≠ incn s) ∧
    (∃ s s1 v z, requestOk (tRequest .load 0) = true ∧ (tRequest .load 0).incn.toNat = incn s ∧ requestHeld s (tRequest .load 0) = false ∧
      atTarget s 0x40 4 0x40 4 1 .load = (s1, .ok (v, z))) ∧
    (∃ (s : State) (a : Acc), openAcc s 0 = some a ∧ a.place = .remote 7 0x40 ∧ a.op = .load ∧ 7 ≠ devid s) ∧
    (∃ s : State, (17 : BitVec 5).toNat ≤ 17 ∧ s.portDown.contains 17 = false ∧ s.accs = []) ∧
    (∃ (s : State) (a : Acc), s.portDown.contains 17 = false ∧ s.accs = [a] ∧ a.place = .remote 7 0x40 ∧ a.op = .load ∧ a.st = .sent ∧ 7 ≠ devid s ∧ a.port = 17) ∧
    (∃ s : State, mapGet 0 s.replays 17 + 1 < 16) ∧ (∃ s : State, mapGet 0 s.replays 17 = 15) ∧
    (∃ s : State, s.cxl.getLsbD 1 = true ∧ 0x7FFFFFFFFF < Config.memSize ∧ inRoot 0x7FFFFFFFFF = true ∧ biasHeld s (0x7FFFFFFFFF / 128) = false) ∧
    (∃ s : State, hostReach s true 0x100000 = true ∧ biasHeld s 0x2000 = false ∧ (homeAt s 0x2000).mesi = .i ∧ hostBias s 0x2000 = false ∧ s.poison.contains 0x2000 = false ∧
      PlainLine s 0x2000 ∧ hostKey s true = 0) ∧
    (∃ s : State, hostReach s false 0x100000 = true ∧ biasHeld s 0x2000 = false ∧ hostBias s 0x2000 = true ∧ (homeAt s 0x2000).mesi = .i ∧ s.poison.contains 0x2000 = false) ∧
    (∃ s : State, hostReach s false 0x100000 = true ∧ biasHeld s 0x2000 = false ∧ (homeAt s 0x2000).mesi = .e ∧ (homeAt s 0x2000).port = false ∧
      mapGet 0 s.lineKey 0x2000 = 0 ∧ s.poison.contains 0x2000 = false ∧ hostKey s false = 0) ∧
    ∃ s : State, biasHeld s 0x2000 = true := by
  refine ⟨⟨State.reset, by decide +kernel⟩, ?_, ⟨tAccs [tSent .load (.remote 7 0x40)], tSent .load (.remote 7 0x40), by decide +kernel⟩,
    ⟨State.reset, by decide +kernel⟩,
    ⟨tAccs [{ tSent .load (.remote 7 0x40) with port := 17 }], { tSent .load (.remote 7 0x40) with port := 17 }, by decide +kernel⟩,
    ⟨{ State.reset with replays := [(17, 14)] }, by decide +kernel⟩, ⟨{ State.reset with replays := [(17, 15)] }, by decide +kernel⟩,
    ⟨tHost false, by decide +kernel⟩, ⟨tHost false, by decide +kernel⟩, ⟨tHost true, by decide +kernel⟩,
    ⟨{ tHost true with home := [(0x2000, ⟨0, 0, 8, false, false, .e, false⟩)] }, by decide +kernel⟩,
    ⟨{ tHost true with biasRun := some (0x100, 1, true) }, by decide +kernel⟩⟩
  obtain ⟨v, z, h⟩ := tOk (by decide +kernel : (atTarget tExport 0x40 4 0x40 4 1 .load).2.toBool = true)
  exact ⟨tExport, (atTarget tExport 0x40 4 0x40 4 1 .load).1, v, z, by decide +kernel, by decide +kernel, by decide +kernel, Prod.ext rfl h⟩

/-! ### Operations, reports, invalidations -/

/-- A copy of 64 bytes within the vault, with elements done, and bytes not yet delivered. -/
def tCopyOp (moved : List Nat) (un : Nat) (fault : Option (BitVec 16)) (charged : Bool) : Op :=
  ⟨7, .xcpV 0x2000 0x8000 64, 1, 1, 1, 0, 0, 0, 0, true, 0x1000, 0x1000, 5, [], moved, un, 9, fault, charged, none, none⟩

/-- The same before its last element has moved, which has been read. -/
def tCopyRead : Op := { tCopyOp [] 0 none false with got := [(15, 0xAB)] }

/-- A state with that operation and a barrier in the vault. -/
def tFlying (o : Op) : State := { tEngine 1 tCopy with ops := [o] }

/-- TZERO of the last row of the last tile. -/
def tZero (started : Bool) (rows : List Nat) : MatOp := ⟨8, .tzero 15 63 1, 1, 0, 1, 0, 0, 0, true, 16, none, 0, 5, started, rows, [], 0, none, none, none⟩

/-- A state with that operation in the queue of core 63. -/
def tQueue (o : MatOp) : State := { State.reset with mq := [(63, [o])] }

theorem wit_OperationDeviceSteps :
    (∃ s o, opFind s 7 = some o ∧ o.kind = .xcpV 0x2000 0x8000 64 ∧ o.park = none ∧ o.fault = none ∧ 15 ∉ o.moved ∧ 15 < 64 / 4 ∧
      (∀ x ∈ o.got, x.1 ≠ 15) ∧ s.vpoison.contains ((0x2000 + 4 * 15) / 128) = false) ∧
    (∃ s o, opFind s 7 = some o ∧ o.kind = .xcpV 0x2000 0x8000 64 ∧ o.park = none ∧ o.fault = none ∧ 15 ∉ o.moved ∧
      (∀ x ∈ o.got, x.1 ≠ 15) ∧ s.vpoison.contains ((0x2000 + 4 * 15) / 128) = true) ∧
    (∃ s o, opFind s 7 = some o ∧ o.kind = .xcpV 0x2000 0x8000 64 ∧ o.park = none ∧ o.fault = none ∧ 15 ∉ o.moved ∧
      o.got.find? (fun x => x.1 == 15) = some (15, 0xAB) ∧ s.vpoison.contains ((0x8000 + 4 * 15) / 128) = false) ∧
    (∃ s o, opFind s 7 = some o ∧ o.undelivered ≠ 0) ∧ (∃ s o, opFind s 7 = some o ∧ o.fault = some 0x0103 ∧ o.charged = false) ∧
    (∃ s o, opFind s 7 = some o ∧ opMoved o = true ∧ o.undelivered = 0 ∧ o.fault = none) ∧
    (∃ s o, opFind s 7 = some o ∧ opMoved o = true ∧ o.undelivered = 0 ∧ o.fault ≠ none ∧ o.charged = true) ∧
    (∃ s, matReady (queueOf s 63) 0 = true ∧ gated s 63 = false) ∧
    (∃ (s : State) (m : MatOp), (queueOf s 63)[0]? = some m ∧ gated s 63 = false ∧ m.kind = .tzero 15 63 1 ∧ m.started = true ∧ m.park = none ∧ m.bar = none ∧
      matMoved m = false ∧ 0 ∉ m.rows) ∧
    (∃ s, gated s 63 = true) ∧ (∃ (s : State) (m : MatOp), (queueOf s 63)[0]? = some m ∧ inArray m.kind = true ∧ 7 ≠ m.rows.length) ∧
    ∃ (s : State) (m : MatOp), (queueOf s 63)[0]? = some m ∧ gated s 63 = false ∧ m.started = true ∧ matMoved m = true :=
  ⟨⟨tFlying (tCopyOp [] 0 none false), (tCopyOp [] 0 none false), rfl, rfl, rfl, rfl, by decide +kernel⟩,
    ⟨{ tFlying (tCopyOp [] 0 none false) with vpoison := [0x2000 / 128] }, tCopyOp [] 0 none false, rfl, rfl, rfl, rfl, by decide +kernel⟩,
    ⟨tFlying tCopyRead, tCopyRead, rfl, rfl, rfl, rfl, by decide +kernel⟩, ⟨tFlying (tCopyOp [3] 4 none false), (tCopyOp [3] 4 none false), rfl, by decide⟩,
    ⟨tFlying (tCopyOp [3] 4 (some 0x0103) false), (tCopyOp [3] 4 (some 0x0103) false), rfl, rfl, rfl⟩, ⟨tFlying (tCopyOp (List.range 16) 0 none false), (tCopyOp (List.range 16) 0 none false), rfl, by decide +kernel, rfl, rfl⟩,
    ⟨tFlying (tCopyOp [3] 0 (some 0x0103) true), (tCopyOp [3] 0 (some 0x0103) true), rfl, by decide +kernel, rfl, by decide, rfl⟩, ⟨tQueue (tZero false []), by decide +kernel⟩,
    ⟨tQueue (tZero true []), (tZero true []), rfl, by decide +kernel, rfl, rfl, rfl, rfl, by decide +kernel, by decide +kernel⟩,
    ⟨{ State.reset with regs := [(offIslctl 63, 0x40)] }, by decide +kernel⟩,
    ⟨tQueue { tZero true [] with kind := .mma .e4m3 3 0 16 true 0x2000 0 0 0 0 none }, { tZero true [] with kind := .mma .e4m3 3 0 16 true 0x2000 0 0 0 0 none },
      rfl, rfl, by decide +kernel⟩,
    ⟨tQueue (tZero true [0]), (tZero true [0]), rfl, by decide +kernel, rfl, by decide +kernel⟩⟩

/-- A ring of 64 entries at 0x8000 with `used` of them taken, its descriptor at 0x4000; a batch of C-die 3 with one report. -/
def tBatch (en : Nat) (since : Nat) (closed : Option (BitVec 16)) (used : Nat) : State := { State.reset with
  now := 2000, regs := [(offFring 3, BitVec.ofNat 64 (0x4000 + en))], batches := [(3, ⟨[{ report0 2 with pasid := 5 }], since, closed, []⟩)],
  mem := tWords [(320, 1), (376, 0x2000), (0x4028, used * 2 ^ 32 + 2 ^ 20 + 5), (0x4030, 64 * 2 ^ 32), (0x4038, 0x8000)] }

/-- Where no line is keyed, poisoned or held by a host, every range below the root region is plain. -/
theorem tPlainRange {s : State} {a n : Nat} (h : a + n ≤ Config.rootBase) (k : s.lineKey = [] ∧ s.poison = [] ∧ s.home = [] ∧ s.biasRun = none) : PlainRange s a n :=
  ⟨h, fun x _ _ => ⟨by simp [mapGet, k.1], by simp [k.2.1], by simp [homeAt, mapGet, k.2.2.1, freshLine], by simp [biasHeld, k.2.2.2]⟩⟩

/-- The ring of that batch, its descriptor and its chime at 0x2010 of context 5 stand apart. -/
theorem tRingPlace (en since : Nat) (closed : Option (BitVec 16)) (used : Nat)
    (h : let s := tBatch en since closed used
      ringWord s 3 7 = 0x8000 ∧ bits (ringWord s 3 6) 63 32 = 64 ∧ ringDesc s 3 = 0x4000 ∧ ringChime s 3 = 0x2010 ∧
        ctxAddr s (BitVec.ofNat 20 (ringWord s 3 5)) 0 = 320) : RingPlace (tBatch en since closed used) 3 := by
  obtain ⟨h1, h2, h3, h4, h5⟩ := h
  have p : ∀ a n, a + n ≤ Config.rootBase → PlainRange (tBatch en since closed used) a n := fun a n h => tPlainRange h ⟨rfl, rfl, rfl, rfl⟩
  exact ⟨by rw [h1, h2]; exact p _ _ (by decide), by rw [h3]; exact p _ _ (by decide),
    fun _ => by rw [h1, h2, h3, h4]; exact ⟨by decide, p _ _ (by decide), .inl (by decide), .inl (by decide)⟩,
    by rw [h1, h2, h3]; exact .inl (by decide),
    fun a n m => by
      rw [h1, h2, h3] at m
      simp only [List.mem_cons, Prod.mk.injEq, List.not_mem_nil, or_false] at m
      rw [h5]
      rcases m with ⟨rfl, rfl⟩ | ⟨rfl, rfl⟩ <;> exact .inl (by decide),
    fun y m => absurd m List.not_mem_nil⟩

/-- A page that lane 15 of a group and an engine operation wait for. -/
def tPage : PageFault := ⟨0, 0xFFFFF000, false, true, false⟩

/-- A state with both of them. -/
def tParked : State :=
  let g := setLane (tGroup 0) 15 { laneAt (tGroup 0) 15 with park := .faulted tPage false }
  { tState { setEnt g 0 { entAt g 0 with st := .faulted } with spark := false } with ops := [{ tCopyOp [] 0 none false with park := some tPage }] }

theorem wit_FaultReportSteps :
    (∃ s, (batchAt s 3).closed = none ∧ (batchAt s 3).entries ≠ [] ∧ (batchAt s 3).since + 2000 = s.now ∧
      ringRoom s 3 (batchEntries (batchAt s 3) (dtime s 3) 0).length = true ∧ RingPlace s 3 ∧ ringChimes s 3 = true) ∧
    (∃ s, (batchAt s 3).closed = none ∧ (batchAt s 3).entries ≠ [] ∧ (batchAt s 3).since + 2000 = s.now ∧
      ringRoom s 3 (batchEntries (batchAt s 3) (dtime s 3) 0).length = false) ∧
    (∃ s, s.now + 1 = (batchAt s 3).since + 2000) ∧ (∃ s, (batchAt s 3).closed = none) ∧
    (∃ s, (batchAt s 3).closed = some 1 ∧ ringRoom s 3 (batchEntries (batchAt s 3) (dtime s 3) 1).length = false) ∧
    (∃ s, (batchAt s 3).closed = some 1 ∧ ringRoom s 3 (batchEntries (batchAt s 3) (dtime s 3) 1).length = true ∧ RingPlace s 3) ∧
    ∃ s, (regGet s offFresVa).toNat % 4096 = 0 ∧ (s.groups.map (·.gid)).Nodup ∧ (∃ o ∈ s.ops, o.park = some tPage) ∧
      ∃ g ∈ s.groups, 15 < g.w ∧ (laneAt g 15).park = .faulted tPage false ∧ inPages tPage 0 0xFFFFF000 1 false = true :=
  ⟨⟨tBatch 1 0 none 62, by decide +kernel, by decide +kernel, by decide +kernel, by decide +kernel, tRingPlace _ _ _ _ (by decide +kernel), by decide +kernel⟩,
    ⟨tBatch 1 0 none 63, by decide +kernel⟩, ⟨tBatch 0 1 none 0, by decide +kernel⟩, ⟨tBatch 0 1 none 0, by decide +kernel⟩,
    ⟨tBatch 1 0 (some 1) 63, by decide +kernel⟩,
    ⟨tBatch 1 0 (some 1) 62, by decide +kernel, by decide +kernel, tRingPlace _ _ _ _ (by decide +kernel)⟩, ⟨tParked, by decide +kernel⟩⟩

/-- An invalidation that all parties but one have acknowledged, of 16 pages from 0x100000 in context 5. -/
def tInv (kind : BitVec 2) (missing : List Nat) : Inv := ⟨kind, 5, 0x100000, 16, false, (List.range 72).filter fun q => !missing.contains q⟩

/-- A state with `n` invalidations, translations of the last page covered and the first after it, and such L1 lines. -/
def tInvs (n : Nat) (missing : List Nat) : State := { State.reset with
  invs := List.replicate n (tInv 0 missing), tlb := [⟨3, 5, 0x10F, 0x200, 3, []⟩, ⟨3, 5, 0x110, 0x201, 3, []⟩],
  l1 := [⟨63, 0x4000, 5, 32 * 0x10F, 3, 0, 0, 9⟩, ⟨63, 0x4020, 5, 32 * 0x110, 3, 0, 0, 9⟩] }

theorem wit_InvalidationAndRevocationSteps :
    (∃ s : State, s.invs.length = 15 ∧ (regGet s offInvVa).toNat % 4096 = 0) ∧ (∃ s : State, ¬ s.invs.length < 16) ∧
    (∀ party ∈ [0, 3, 4, 67, 68, 71], ∃ (s : State) (v : Inv), s.invs[0]? = some v ∧ party ∉ v.acks ∧ s.accs = [] ∧ s.cbuf = [] ∧ ∀ p < 72, p ≠ party → p ∈ v.acks) ∧
    (∃ (s : State) (v : Inv), s.invs[0]? = some v ∧ 3 ∉ v.acks ∧ s.accs = [] ∧ s.cbuf = [] ∧ ∃ p < 72, p ≠ 3 ∧ p ∉ v.acks) ∧
    (∃ s : State, s.revoking = none) ∧ (∃ s : State, s.revoking ≠ none) ∧
    ∀ en ∈ [0, 1], ∃ s : State, s.revoking = some (0xFFFFF, 15) ∧ s.accs = [] ∧ regField s offPamap 0 0 = en ∧
      let a := regField s offPamap 63 20 * 2 ^ 20 + 0xFFFFF
      a < Config.memSize ∧ PlainLine s (lineOf a) := by
  refine ⟨⟨tInvs 15 [3], by decide +kernel⟩, ⟨tInvs 16 [3], by decide +kernel⟩, fun party h => ⟨tInvs 1 [party], tInv 0 [party], rfl, ?_, rfl, rfl, ?_⟩,
    ⟨tInvs 1 [3, 4], tInv 0 [3, 4], rfl, by decide +kernel, rfl, rfl, 4, by decide, by decide, by decide +kernel⟩, ⟨State.reset, rfl⟩,
    ⟨{ State.reset with revoking := some (5, 3) }, by decide⟩,
    fun en h => ⟨{ State.reset with revoking := some (0xFFFFF, 15), regs := [(offPamap, BitVec.ofNat 64 (0x100000 + en))] }, by revert en h; decide +kernel⟩⟩
  · simp [tInv]
  · intro p a b; simp [tInv, a, b]

/-! ### Saves, restores, tear-downs -/

/-- Context 5 in a state, with a save pool of `n` slots at 0x700000 whose bitmap at 0x600000 holds `used`. -/
def tPool (st n used : Nat) : List Host.Cell :=
  tWords [(320, 1 + 2 * st), (352, 0x600000 * 2 ^ 32), (360, n * 2 ^ 32), (368, 0x700000), (0x600000, used)]

/-- A group of context 5. -/
def tFive (f : Group → Group) : Group := f { tGroup 0 with front := false, sys := false, pasid := 5 }

/-- That group on its own, with a pre-emption running or not. -/
def tSaving (g : Group) (p : List Preempt) (n used : Nat) : State := { tState g with mem := tPool (if p = [] then 0 else 1) n used, preempts := p }

/-- Its only entry FAULTED. -/
def tWaiter (g : Group) : Group :=
  { setLane (setEnt g 0 { entAt g 0 with st := .faulted }) 0 { laneAt g 0 with park := .faulted { tPage with pasid := 5 } true } with last := 1 }

theorem wit_SaveRestoreAndTeardownSteps :
    (∃ s g, getGroup s 1 = some g ∧ savable s g = true ∧ saveHeld s g = false ∧ preempting s g.pasid = true ∧ spFree s g.pasid = some 9) ∧
    (∃ s g, getGroup s 1 = some g ∧ savable s g = true ∧ saveHeld s g = false ∧ preempting s g.pasid = false ∧ faultIdle g = true ∧ spFree s g.pasid = some 0) ∧
    (∃ s g, getGroup s 1 = some g ∧ savable s g = false) ∧ (∃ s g, getGroup s 1 = some g ∧ savable s g = true ∧ spFree s g.pasid = none) ∧ (∃ s g, getGroup s 1 = some g ∧ saveHeld s g = true) ∧
    (∃ s g, getGroup s 1 = some g ∧ g.res = .savedPreempt 9 ∧ ctxState s g.pasid = 0 ∧ g.core = 0 ∧ restoreRoom s g 0 = true ∧
      poolHeld s g.pasid 9 = false ∧ framePoisoned s (spSlot s g.pasid 9) = false ∧ g.halt = false ∧ ∀ l < g.w, (match (laneAt g l).park with | .satisfied .. => false | _ => true) = true) ∧
    (∃ s g, getGroup s 1 = some g ∧ g.res = .savedFault 0 ∧ couldIssue g = true ∧ ctxState s g.pasid = 0 ∧ g.core = 0 ∧ restoreRoom s g 0 = true ∧
      poolHeld s g.pasid 0 = false ∧ framePoisoned s (spSlot s g.pasid 0) = false ∧ g.halt = false ∧ ∀ l < g.w, (match (laneAt g l).park with | .satisfied .. => false | _ => true) = true) ∧
    (∃ (s : State) (p : Preempt), s.preempts[0]? = some p ∧ p.deadline + 1 = s.now ∧ ctxState s p.pasid = 1 ∧ p.sig = none ∧ ∃ g ∈ s.groups, g.pasid = p.pasid) ∧
    (∃ (s : State) (p : Preempt), s.preempts[0]? = some p ∧ s.now = p.deadline) ∧
    (∃ (s : State) (p : Preempt), s.preempts[1]? = some p ∧ p.pasid = 5 ∧ p.deadline + 1 = s.now ∧ (∀ y ∈ s.preempts.take 1, y.pasid = 5 → s.now ≤ y.deadline) ∧
      ctxState s 5 = 1 ∧ p.sig = none) ∧
    (∃ s : State, (∃ y ∈ s.preempts, y.pasid = 5) ∧ ∀ y ∈ s.preempts, y.pasid = 5 → s.now ≤ y.deadline) ∧ ∃ s g, getGroup s 1 = some g :=
  ⟨⟨tSaving (tFive id) [⟨5, false, 9, none⟩] 10 0x1FF, tFive id, by decide +kernel⟩, ⟨tSaving (tFive tWaiter) [] 1 0, tFive tWaiter, by decide +kernel⟩,
    ⟨tState (tGroup 0), tGroup 0, by decide +kernel⟩, ⟨tSaving (tFive id) [] 8 0xFF, tFive id, by decide +kernel⟩,
    ⟨{ tSaving (tFive id) [] 8 0 with biasRun := some (0x600, 1, true) }, tFive id, by decide +kernel⟩,
    ⟨tSaving (tFive fun g => { g with res := .savedPreempt 9 }) [] 10 0x200, tFive fun g => { g with res := .savedPreempt 9 }, by decide +kernel⟩,
    ⟨tSaving (tFive fun g => { tWaiter g with res := .savedFault 0 }) [] 1 1, tFive fun g => { tWaiter g with res := .savedFault 0 }, by decide +kernel⟩,
    ⟨{ tSaving (tFive id) [⟨5, false, 9, none⟩] 8 0 with now := 10 }, ⟨5, false, 9, none⟩, by decide +kernel⟩,
    ⟨{ tSaving (tFive id) [⟨5, false, 9, none⟩] 8 0 with now := 9 }, ⟨5, false, 9, none⟩, by decide +kernel⟩,
    ⟨{ tSaving (tFive id) [⟨5, true, 10, none⟩, ⟨5, false, 9, none⟩] 8 0 with now := 10 }, ⟨5, false, 9, none⟩, by decide +kernel⟩,
    ⟨{ tSaving (tFive id) [⟨5, false, 9, none⟩] 8 0 with now := 9 }, by decide +kernel⟩, ⟨tState (tGroup 0), tGroup 0, by decide +kernel⟩⟩

/-! ### Scheduling -/

/-- A grid of two teams of one group of 16 threads each, of context 5 and priority 7. -/
def tGrid : Grid :=
  { id := 4, lrec := { launchOf tLaunchRec with prio := 7, gx := 1 }, ker := (tKernel false).ker, lt := 6, key := 0, candAt := 0, next := 1, ended := 0, stamp := 0,
    held := false, gbar := none }

/-- A state with that grid; context 5 is active. -/
def tGrids (now : Nat) : State := { State.reset with grids := [tGrid], nextId := 9, now := now, mem := tPool 0 0 0 }

/-- A pair whose rod 0 is READY with a bead. -/
def tReady : State := { State.reset with
  nextId := 9, mem := tPool 0 0 0, rods := [(0, { tRod .ready 5 [tBead] with cfg := { (tRod .ready 5 []).cfg with maxres := 1 } })] }

/-- Rod 63 of pair 0 can hold beads of the key that rod 0 of pair 1 holds two of. -/
def tSteal : State := { State.reset with
  rods := [(63, tRod .empty 5 []), (64, tRod .ready 5 [tBead, tBead])] }

/-- A state where the steal tick of pair 0 falls in this cycle. -/
def tTick (s : State) : State := { s with stealCyc := [(0, Config.stealPhase s.stealSeed 0 % 1024)], stealDone := [] }

theorem tDue (s : State) : stealDue (tTick s) 0 = true := by
  have h : Config.stealPhase s.stealSeed 0 % 1024 < 1024 := Nat.mod_lt _ (by decide)
  simp only [stealDue, stealTicks, tTick, mapGet, List.contains_nil, Bool.not_false, Bool.and_true, Bool.and_eq_true, decide_eq_true_eq, if_true]
  omega

/-- Interface 255 of function 3, enabled with rings of 64 entries, RTAIL `t`, CHEAD 0 and CTAIL `c`, and a waiting completion record. -/
def tLast (t c : Nat) : State := { State.reset with
  regs := [(offQif 255 3, 0x0366040000000000), (offQif 255 4, BitVec.ofNat 64 (c * 2 ^ 32)), (offQif 255 5, BitVec.ofNat 64 (t * 2 ^ 32)), (offQif 255 6, 0x4000),
    (offQif 255 7, 0x3000)]
  compl := [⟨255, 0x77, 0x0102, 1⟩] }

theorem tNone {s : State} (h : s.groups = []) : NoQdone s := by
  intro x hx
  rw [h] at hx
  cases hx

theorem wit_SchedulingSteps :
    (∃ s c x cores vbase, chosen s 31 = some c ∧ c.code = 72 ∧ c.cls = 1 ∧ (s.grids.find? fun (y : Grid) => y.id == c.idx) = some x ∧
      teamFit s 31 x.lrec = some (cores, vbase)) ∧
    (∃ s c, chosen s 0 = some c ∧ c.code = 0 ∧ c.cls = 0) ∧ (∃ s, ∀ y, chosen s 0 = some y → y.code ≠ 1) ∧
    (∃ s x, (s.grids.find? fun (y : Grid) => 64 + 2 * y.id == 72) = some x ∧ gridOpen s x = true ∧ waitedLong s x = true ∧ couldFit s 31 x.lrec = true ∧
      (31, x.id) ∉ s.resvd) ∧
    (∃ s, (getRod s 31 63).st = .filling ∧ (getRod s 31 63).cfg.timer = 0 ∧ (getRod s 31 63).cycles = 2048) ∧
    (∃ s, (getRod s 31 63).st = .filling ∧ (getRod s 31 63).cfg.timer = 5 ∧ (getRod s 31 63).cycles = 5) ∧
    (∃ s, (getRod s 31 63).st ≠ .filling) ∧ (∃ s, (getRod s 31 63).st = .filling ∧ (getRod s 31 63).cfg.timer = 0 ∧ (getRod s 31 63).cycles = 2047) ∧
    (∃ s, stealDue s 0 = true ∧ (freeSlots s 0 ≠ [] ∨ freeSlots s 1 ≠ []) ∧ chosen s 0 = none ∧ stealVictim s 0 = some (1, 0, 63) ∧ (getRod s 0 63).beads.length < 1024) ∧
    (∃ s, stealDue s 0 = true ∧ stealVictim s 0 = none) ∧ (∃ s, stealDue s 32 = false) ∧
    (∃ s, NoQdone s ∧ (∀ g ∈ s.groups, waitsOf g (fun w => match w with | .qpop .. => true | _ => false) = []) ∧ (qif s 255).func = 3 ∧ qifLive s 255 = true ∧ (64 + 2 ^ 32 - (qif s 255).rtail) % 2 ^ 32 ≤ 2 ^ (qif s 255).rsize ∧
      (64 + 2 ^ 32 - (qif s 255).rhead) % 2 ^ 32 ≤ 2 ^ (qif s 255).rsize) ∧
    (∃ s, qifLive s 255 = false ∧ NoQdone s ∧ s.compl[0]? = some ⟨255, 0x77, 0x0102, 1⟩ ∧ ∀ y ∈ s.compl.take 0, y.intf ≠ 255) ∧
    (∃ s, let a := (qif s 255).cbase + 16 * ((qif s 255).ctail % 2 ^ (qif s 255).csize)
      NoQdone s ∧ s.compl[0]? = some ⟨255, 0x77, 0x0102, 1⟩ ∧ qifLive s 255 = true ∧ complRoom s 255 = true ∧ regField s (offFs2root (qif s 255).func) 0 0 = 0 ∧
      a % 16 = 0 ∧ a + 16 ≤ Config.rootBase ∧ PlainLine s (lineOf a)) ∧
    (∃ s, NoQdone s ∧ s.compl[0]? = some ⟨255, 0x77, 0x0102, 1⟩ ∧ qifLive s 255 = true ∧ complRoom s 255 = false) ∧
    (∃ s tm, getTeam s 1 = some tm ∧ tm.ended = true ∧ teamIdle s 1 = true ∧ tm.grid.isSome = true ∧ tm.cores ≠ [] ∧ ∀ core ∈ tm.cores, relHeld s core = false) ∧
    (∃ s tm, getTeam s 1 = some tm ∧ tm.grid.isSome = true ∧ ∃ core ∈ tm.cores, relHeld s core = true) ∧ ∃ s tm, getTeam s 1 = some tm ∧ tm.ended = false :=
  ⟨⟨tGrids 0, ⟨72, 7, 0, 1, 4⟩, tGrid, [63], 0, by decide +kernel⟩, ⟨tReady, ⟨0, 0, 100, 0, 0⟩, by decide +kernel⟩,
    ⟨State.reset, fun y h => absurd h (by simp [(by decide +kernel : chosen State.reset 0 = none)])⟩, ⟨tGrids 65536, tGrid, by decide +kernel⟩,
    ⟨{ State.reset with rods := [(2047, { tRod .filling 5 [tBead] with cycles := 2048 })] }, by decide +kernel⟩,
    ⟨{ State.reset with rods := [(2047, { tRod .filling 5 [tBead] with cycles := 5, cfg := { rod0.cfg with timer := 5 } })] }, by decide +kernel⟩,
    ⟨State.reset, by decide +kernel⟩, ⟨{ State.reset with rods := [(2047, { tRod .filling 5 [tBead] with cycles := 2047 })] }, by decide +kernel⟩, ⟨tTick tSteal, tDue _, by decide +kernel⟩, ⟨tTick State.reset, tDue _, by decide +kernel⟩,
    ⟨State.reset, rfl⟩,
    ⟨tLast 0 63, tNone rfl, fun g h => absurd h List.not_mem_nil, by decide +kernel⟩,
    ⟨{ tLast 0 63 with regs := [] }, by decide +kernel, tNone rfl, rfl, fun y h => absurd h List.not_mem_nil⟩, ⟨tLast 0 63, tNone rfl, by decide +kernel⟩,
    ⟨tLast 0 64, tNone rfl, by decide +kernel⟩, ⟨{ State.reset with teams := [{ tTeam with ended := true, grid := some 4, cores := [0] }] }, { tTeam with ended := true, grid := some 4, cores := [0] }, by decide +kernel⟩,
    ⟨{ State.reset with teams := [{ tTeam with ended := true, grid := some 4, cores := [0] }], cbuf := [tBuf false], biasRun := some (0x100, 1, true) },
      { tTeam with ended := true, grid := some 4, cores := [0] }, by decide +kernel⟩,
    ⟨{ State.reset with teams := [tTeam] }, tTeam, by decide +kernel⟩⟩

/-! ### Gangs -/

/-- Member entry 15 of gang 7 and leader 0xFFFFF in state `m`, which holds grid 4; its launch record at 0x8000 asks for a vault of 64 bytes. -/
def tMember (m : Nat) : State := { State.reset with
  regs := [(offMember 15 0, 1), (offMember 15 1, BitVec.ofNat 64 (m * 2 ^ 52)), (offMember 15 2, 0x7FFFFF000), (offMember 15 3, 0x8000)]
  mem := writeN (tWords [(320, 1)]) 0x8000 128 (tLaunchRec + 2 ^ 427), grids := [{ tGrid with held := true }], members := [⟨15, 4, 1000⟩] }

/-- A gang of this device with members 3 and 4, of which 3 may have answered. -/
def tLeader (acks : List (BitVec 20)) (prepared committing : Bool) (now : Nat) : State := { State.reset with
  now := now, gangs := [{ tGang with members := [3, 4], acks := acks, prepared := prepared, committing := committing }] }

/-- The gang whose answer from a device counts. -/
abbrev Mine (s : State) (dev : BitVec 20) : Option Gang :=
  s.gangs.find? fun y => y.gid == 7 && !y.broken && y.members.contains dev && (!y.prepared || y.committing) && !y.acks.contains dev

/-- A kernel was read, or a page of it is missing: no home holds a line. -/
def tNoWait (x : Except KerErr Kernel) : Bool :=
  match x with
  | .error .wait => false
  | _ => true

theorem wit_GangSteps :
    (∃ s, memberFind s 7 0xFFFFF = none) ∧ (∃ s, memberFind s 7 0xFFFFF = some 15 ∧ memberState s 15 ≠ 0 ∧ memberState s 15 ≠ 3) ∧
    (∀ m ∈ [0, 3], ∃ s, memberFind s 7 0xFFFFF = some 15 ∧ memberState s 15 = m ∧
      let a := memberWord s 15 3
      a % 128 = 0 ∧ targetOk a = true ∧ launchCause s (physRecord s a) = none ∧ 64 * memberGbar s 15 + 64 = 64 * (launchOf (physRecord s a)).vault64 ∧
        gangPairs s (launchOf (physRecord s a)) ≠ [] ∧ wordsHeld s a 16 = false ∧ (homeAt s (lineOf a)).mesi ≠ .e ∧
        let l := launchOf (physRecord s a)
        tNoWait (kernelRead s (memberGroup s) l.pasid (launchKernel l) l.entryD l.entryL).2 = true) ∧
    (∃ s, memberFind s 7 0xFFFFF = some 15 ∧ memberState s 15 = 0 ∧ memberWord s 15 3 % 128 ≠ 0 ∧ wordsHeld s (memberWord s 15 3) 16 = false ∧ (homeAt s (lineOf (memberWord s 15 3))).mesi ≠ .e) ∧
    (∀ m ∈ [0, 1, 2, 3], ∃ s, memberFind s 7 0xFFFFF = some 15 ∧ memberState s 15 = m) ∧
    (∃ s : State, ∃ y ∈ s.members, y.slot = 15 ∧ ∃ z ∈ s.grids, z.id = y.grid ∧ z.held = true) ∧
    (∃ (s : State) (m : Member), s.members[0]? = some m ∧ m.deadline + 1 = s.now ∧ memberState s m.slot = 1) ∧
    (∃ (s : State) (m : Member), s.members[0]? = some m ∧ s.now = m.deadline) ∧
    (∃ s, ∃ y < 16, bit (memberWord s y 0) 0 = true ∧ bits (memberWord s y 2) 31 12 = 0xFFFFF) ∧
    (∃ s, ∀ y < 16, bit (memberWord s y 0) 0 = true → bits (memberWord s y 2) 31 12 ≠ 3) ∧
    (∃ s, Mine s 3 = none) ∧ (∃ s x, Mine s 4 = some x ∧ ∃ y ∈ x.members, y ∉ x.acks ++ [4]) ∧
    (∃ s x, Mine s 4 = some x ∧ (∀ y ∈ x.members, y ∈ x.acks ++ [4]) ∧ x.committing = false) ∧
    (∃ s x, Mine s 4 = some x ∧ (∀ y ∈ x.members, y ∈ x.acks ++ [4]) ∧ x.committing = true) ∧
    (∃ (s : State) (x : Gang), s.gangs[0]? = some x ∧ s.now = x.since + x.timeout.toNat) ∧
    (∃ (s : State) (x : Gang), s.gangs[0]? = some x ∧ x.broken = true) ∧
    (∃ (s : State) (x : Gang), s.gangs[0]? = some x ∧ x.broken = false ∧ x.since + x.timeout.toNat + 1 = s.now ∧ x.prepared = true ∧ x.committing = false) ∧
    (∃ (s : State) (x : Gang), s.gangs[0]? = some x ∧ x.broken = false ∧ x.since + x.timeout.toNat + 1 = s.now ∧ x.prepared = false) ∧
    ∃ (s : State) (x : Gang), s.gangs[0]? = some x ∧ x.broken = false ∧ x.since + x.timeout.toNat + 1 = s.now ∧ x.committing = true :=
  ⟨⟨State.reset, by decide +kernel⟩, ⟨tMember 1, by decide +kernel⟩, fun m h => ⟨tMember m, by revert m h; decide +kernel⟩,
    ⟨{ tMember 0 with regs := mapPut 0 (tMember 0).regs (offMember 15 3) 0x8040 }, by decide +kernel⟩, fun m h => ⟨tMember m, by revert m h; decide +kernel⟩,
    ⟨tMember 1, by decide +kernel⟩, ⟨{ tMember 1 with now := 1001 }, ⟨15, 4, 1000⟩, by decide +kernel⟩, ⟨{ tMember 1 with now := 1000 }, ⟨15, 4, 1000⟩, by decide +kernel⟩,
    ⟨tMember 1, by decide +kernel⟩, ⟨tMember 1, by decide +kernel⟩, ⟨State.reset, by decide +kernel⟩,
    ⟨tLeader [] false false 0, { tGang with members := [3, 4], acks := [], prepared := false }, by decide +kernel, 3, by simp, by simp⟩,
    ⟨tLeader [3] false false 0, { tGang with members := [3, 4], prepared := false }, by decide +kernel, by simp [tGang], rfl⟩,
    ⟨tLeader [3] true true 0, { tGang with members := [3, 4], committing := true }, by decide +kernel, by simp [tGang], rfl⟩,
    ⟨tLeader [3] true true 1000, { tGang with members := [3, 4], committing := true }, by decide +kernel⟩,
    ⟨{ State.reset with gangs := [{ tGang with broken := true }] }, { tGang with broken := true }, by decide +kernel⟩,
    ⟨tLeader [3, 4] true false 1001, { tGang with members := [3, 4], acks := [3, 4] }, by decide +kernel⟩,
    ⟨tLeader [3] false false 1001, { tGang with members := [3, 4], prepared := false }, by decide +kernel⟩,
    ⟨tLeader [3] true true 1001, { tGang with members := [3, 4], committing := true }, by decide +kernel⟩⟩

/-! ### Registers and commands -/

/-- A bias table, and a command that runs or not. -/
def tBias (busy : Bool) : State := { State.reset with regs := [(offBias, 0x200000)], biasRun := if busy then some (1, 2, true) else none, cxl := 2 }

/-- Interface 255 belongs to function 3; its interrupt entry 31 at 0x5000 + 16 × 8191 holds `x`. -/
def tIrt (x : Nat) : State := { State.reset with
  regs := [(offQif 255 3, 0x0366040000000000), (offIrtbase, 0x5001)], mem := tWords [(0x5000 + 16 * 8191, 0xFEE00000), (0x5008 + 16 * 8191, x)] }

/-- A request at 2^27 with a command, a PASID, and one word of operand. -/
def tMbox (cmd x : Nat) : State := { State.reset with
  regs := [(offMbox, 0x8000001)], mem := writeN (tWords [(0x8000000, cmd + 0xFFFFF * 2 ^ 32), (0x8000008, x)]) 0x8000010 1 0
  keyGen := [(1, 1)], keyOwner := [(1, 0xFFFFF)], keys := 1 }

/-- A stopped group in the last slot of core 63, which debug slot 3 serves. -/
def tStopped : Group := { tGroup 63 with res := .resident 7, stopped := some 0, sys := false }

/-- A state with that group. -/
def tDebug : State := { State.reset with groups := [tStopped], regs := [(offDbgatt 3, 3)] }

/-- The selector of that group's register of a kind, lane and number. -/
def tSel (kind lane num : Nat) : W64 := BitVec.ofNat 64 (63 * 2 ^ 58 + 7 * 2 ^ 52 + kind * 2 ^ 48 + lane * 2 ^ 42 + num * 2 ^ 30)

theorem wit_RegisterAndCommandSteps :
    (∃ off : BitVec 24, off.toNat ∈ [offAsd, offCtxtab, offPamap, offBias, offRoute, offExport, offIrtbase, offFresVa, offInvVa, offBiaspa, offRasring]) ∧
    (∃ off : BitVec 24, off.toNat = offFstat 3) ∧ (∃ off : BitVec 24, off.toNat % 8 ≠ 0) ∧ (∃ s, (batchAt s 3).closed = none) ∧
    (∃ s : State, s.biasRun = none ∧ s.cxl ≠ 0 ∧ (regGet s offBias).toNat ≠ 0) ∧ (∃ s : State, s.biasRun = none ∧ s.cxl = 0) ∧
    (∃ s : State, s.biasRun.isSome = true ∧ s.accs = [] ∧ s.biasQ = [] ∧ s.groups = [] ∧ ∀ d < 4, (batchAt s d).closed = none) ∧
    (∃ s, wordsHeld s (regField s offIrtbase 63 12 * 4096 + 16 * (32 * 255 + 31)) 2 = false ∧ (homeAt s (lineOf (regField s offIrtbase 63 12 * 4096 + 16 * (32 * 255 + 31)))).mesi ≠ .e ∧ regField s offIrtbase 0 0 = 1 ∧ (qif s 255).func = 3 ∧
      let e := regField s offIrtbase 63 12 * 4096 + 16 * (32 * 255 + 31)
      bit (memRead s 0 (e + 8) 8) 33 = true ∧ bit (memRead s 0 (e + 8) 8) 34 = false ∧ bit (memRead s 0 (e + 8) 8) 35 = true) ∧
    (∃ s, regField s offIrtbase 0 0 = 0) ∧
    (∃ s, regField s offIrtbase 0 0 = 1 ∧ bit (memRead s 0 (regField s offIrtbase 63 12 * 4096 + 16 * (32 * 255 + 31) + 8) 8) 35 = false) ∧
    (∀ cmd ∈ [1, 2, 3, 4], ∃ s, mboxReq s = some 0x8000000 ∧ memRead s 0 0x8000000 1 = cmd ∧ s.accs = [] ∧ wordsHeld s 0x8000000 40 = false ∧
      ∀ l < 4, PlainLine s (lineOf 0x8000000 + l)) ∧
    (∃ s : State, ((List.range 8191).find? fun y => mapGet 0 s.keyGen (y + 1) = 0) = some 1) ∧
    (∃ s, memRead s 0 0x8000008 8 = 8191 ∧ slotNamed s 8191 = false) ∧ (∃ s, slotNamed s 1 = true ∧ memRead s 0 0x8000008 8 = 1) ∧
    (∃ s : State, mapGet 0 s.keyGen 1 ≠ 0 ∧ mapGet 0 s.keyOwner 1 = mboxPasid s 0x8000000 ∧ memRead s 0 0x8000008 8 = 2 ^ 33 ∧ inRoot (memRead s 0 0x8000058 8) = false ∧
      asdAddr s (mboxPasid s 0x8000000) % 64 = 0 ∧ PlainLine s (lineOf (asdAddr s (mboxPasid s 0x8000000))) ∧ asdAddr s (mboxPasid s 0x8000000) + 64 ≤ 0x8000000) ∧
    (∀ k ≤ 8, ∃ s g v, daccGroup s (tSel k 15 3).toNat = some g ∧ bits (tSel k 15 3).toNat 51 48 ≠ 15 ∧ daccReadReg s g k 15 3 = some v) ∧
    (∀ k ≤ 7, ∃ s g g', daccGroup s (tSel k 15 3).toNat = some g ∧ daccWriteReg g k 15 3 9 = some g') ∧
    (∃ s, daccGroup s (tSel 0 0 0).toNat = none) ∧ (∃ lo : W64, lo.getLsbD 0 = false) ∧ ∃ lo : W64, lo.getLsbD 0 = true ∧ lo.getLsbD 1 = true :=
  ⟨⟨0x200410, by decide +kernel⟩, ⟨BitVec.ofNat 24 (offFstat 3), by decide +kernel⟩, ⟨1, by decide +kernel⟩, ⟨State.reset, by decide +kernel⟩, ⟨tBias false, by decide +kernel⟩, ⟨State.reset, by decide +kernel⟩,
    ⟨tBias true, by decide +kernel⟩, ⟨tIrt 0xA00000041, by decide +kernel⟩, ⟨State.reset, by decide +kernel⟩, ⟨tIrt 0x200000041, by decide +kernel⟩,
    fun cmd h => ⟨tMbox cmd 0, by revert cmd h; decide +kernel⟩, ⟨tMbox 1 0, by decide +kernel⟩, ⟨tMbox 2 8191, by decide +kernel⟩,
    ⟨{ tMbox 2 1 with regs := [(offFkey 3, 1)] }, by decide +kernel⟩, ⟨tMbox 3 (2 ^ 33), by decide +kernel⟩,
    fun k h => ⟨tDebug, tStopped, (daccReadReg tDebug tStopped k 15 3).getD 0, by revert k h; decide +kernel⟩,
    fun k h => ⟨tDebug, tStopped, (daccWriteReg tStopped k 15 3 9).getD tStopped, by revert k h; decide +kernel⟩,
    ⟨State.reset, by decide +kernel⟩, ⟨0, by decide⟩, ⟨3, by decide⟩⟩

/-! ### The platform -/

/-- A group that is to halt for `n` cycles, alone on a core of a device with nothing enabled. -/
def tHalting (h : Bool) (n : Nat) : Group := { tGroup 0 with halt := h, haltCyc := n }

/-- A group whose stop awaits nothing any more. -/
def tStopping : Group := { tGroup 0 with stopReq := some ⟨0, none, 0xFF⟩ }

/-- Two lanes of an atomic on the line at 0x100000: one has been performed, one has not. -/
def tHalfDone : State := tAccs [tDone (.amo .swap 7 0) 3, tSent (.amo .swap 7 0) (.mem 0x100000)]

/-- A stop record waits for slot 3, whose ring holds `n` records. -/
def tStops (n : Nat) : State := { State.reset with regs := [(offDbgatt 3, BitVec.ofNat 64 (n * 2 ^ 24))], stopQ := [(3, ⟨tFaultRec 0 0, 0, 3, 5⟩)] }

theorem wit_PlatformSteps :
    (∃ s g, runningGroup s 1 = some g ∧ g.stopReq = none ∧ g.halt = true ∧ g.haltCyc = 10000 ∧ migEntry g = none ∧ stopAwaits g = false ∧ debugSlot s g.pasid = none ∧
      tracing s g.core g.pasid = false ∧ liveMask g ≠ 0) ∧
    (∃ s g r, runningGroup s 1 = some g ∧ g.stopReq = some r ∧ stopAwaits g = false ∧ debugSlot s g.pasid = none ∧ tracing s g.core g.pasid = false ∧ liveMask g ≠ 0) ∧
    (∃ s g, runningGroup s 1 = some g ∧ g.stopReq = none ∧ g.halt = false) ∧
    (∃ s g, runningGroup s 1 = some g ∧ g.stopReq = none ∧ g.halt = true ∧ g.haltCyc = 9999) ∧
    (∃ s g, runningGroup s 1 = some g ∧ g.stopReq = none ∧ g.halt = true ∧ g.haltCyc = 10000 ∧ migEntry g ≠ none) ∧
    (∃ (s : State) (q : Nat × StopRec), (s.stopQ.find? fun y => y.1 == 3) = some q ∧ stopRoom s 3 = true ∧ regField s (offDbgatt 3) 31 24 = 63) ∧
    (∃ s : State, ∀ y ∈ s.stopQ, y.1 ≠ 3) ∧ (∃ s : State, s.stopQ ≠ [] ∧ stopRoom s 3 = false) ∧
    (∃ s, regField s (offIslctl 71) 3 3 = 1) ∧ (∃ s, regField s (offIslctl 71) 3 3 = 0) ∧ (∃ s watts, plimit s + 1 = watts) ∧
    (∃ s watts, watts ≤ plimit s ∧ 95 * plimit s = watts * 100) ∧ (∃ s watts, watts * 100 < 95 * plimit s ∧ s.limLow = 8) ∧
    (∃ s watts, watts * 100 < 95 * plimit s ∧ s.limLow = 9) ∧
    (∃ s, rmwPartly s (inLine false 0x2000) = true) ∧
    (∃ (s : State) (line : Nat), (line + 1) * 128 = Config.memSize ∧ line ∉ s.poison ∧ rmwPartly s (inLine false line) = false) ∧
    (∃ (s : State) (line : Nat), (line + 1) * 128 = 64 * Config.vaultSize ∧ line ∉ s.vpoison ∧ rmwPartly s (inLine true line) = false) ∧
    (∃ s : State, 2 * 5 ∈ s.rasPend ∧ mapGet 0 s.spareRows (8 * Config.hbmBank 5 + 5 % 8) < 16) ∧
    (∃ s : State, 2 * 5 ∈ s.rasPend ∧ 16 ≤ mapGet 0 s.spareRows (8 * Config.hbmBank 5 + 5 % 8)) ∧ (∃ s : State, 2 * 5 ∉ s.rasPend) ∧
    (∃ s : State, 2 * 5 + 1 ∈ s.rasPend ∧ rmwPartly s (inLine true 5) = false ∧ mapGet 0 s.spareLines 0 = 7) ∧
    (∃ s : State, 2 * 5 + 1 ∈ s.rasPend ∧ rmwPartly s (inLine true 5) = false ∧ mapGet 0 s.spareLines 0 = 8) ∧
    (∃ s : State, 2 * 5 + 1 ∉ s.rasPend) ∧ (∃ s : State, rebaseDue s = true ∧ inFlight s = false ∧ s.biasRun = none ∧ s.cbuf = []) ∧ (∃ s : State, rebaseDue s = false) ∧
    ∃ s : State, s.biasRun.isSome = true :=
  ⟨⟨tState (tHalting true 10000), tHalting true 10000, by decide +kernel⟩, ⟨tState tStopping, tStopping, ⟨0, none, 0xFF⟩, by decide +kernel⟩,
    ⟨tState (tHalting false 0), tHalting false 0, by decide +kernel⟩, ⟨tState (tHalting true 9999), tHalting true 9999, by decide +kernel⟩,
    ⟨tState (tEntry (fun x => { x with st := .migrating }) (tHalting true 10000)), tEntry (fun x => { x with st := .migrating }) (tHalting true 10000), by decide +kernel⟩,
    ⟨tStops 63, (3, ⟨tFaultRec 0 0, 0, 3, 5⟩), by decide +kernel⟩, ⟨State.reset, by decide +kernel⟩, ⟨tStops 64, by decide +kernel⟩,
    ⟨{ State.reset with regs := [(offIslctl 71, 8)] }, by decide +kernel⟩, ⟨State.reset, by decide +kernel⟩, ⟨State.reset, plimit State.reset + 1, rfl⟩,
    ⟨State.reset, 95 * plimit State.reset / 100, by decide +kernel⟩, ⟨{ State.reset with limLow := 8 }, 0, by decide +kernel⟩, ⟨{ State.reset with limLow := 9 }, 0, by decide +kernel⟩,
    ⟨tHalfDone, by decide +kernel⟩, ⟨State.reset, Config.memSize / 128 - 1, by decide +kernel⟩, ⟨State.reset, 64 * Config.vaultSize / 128 - 1, by decide +kernel⟩,
    ⟨{ State.reset with rasPend := [10] }, by simp, by simp [State.reset, mapGet]⟩,
    ⟨{ State.reset with rasPend := [10], spareRows := [(8 * Config.hbmBank 5 + 5 % 8, 16)] }, by simp, by simp [mapGet]⟩, ⟨State.reset, by simp [State.reset]⟩,
    ⟨{ State.reset with rasPend := [11], spareLines := [(0, 7)] }, by decide +kernel⟩, ⟨{ State.reset with rasPend := [11], spareLines := [(0, 8)] }, by decide +kernel⟩,
    ⟨State.reset, by simp [State.reset]⟩, ⟨tState { tGroup 0 with lt := 2 ^ 47 }, by decide +kernel⟩, ⟨State.reset, by decide +kernel⟩,
    ⟨{ State.reset with biasRun := some (0x100, 1, true) }, rfl⟩⟩

end Sys2Proof.Tests
end

section
/-! PROOFS. Registers and commands: the bias flip on a poisoned line of its table (25 R322, R324; 31 R366). -/

namespace Sys2Proof.Machine

/-- Refutes O59: its clause on BIAS_TO_HOST claims that the pages end in host bias, and does not ask that the bias table be free of
poison. Writes to a poisoned line are dropped until device reset (31 R366), those of bias bits too: with the line poisoned that holds the
bit of page 0, the flip of page 0 leaves the bit 0, which is device bias (25 R322). -/
theorem not_registerAndCommandSteps : ¬ Obligations.RegisterAndCommandSteps := by
  unfold Obligations.RegisterAndCommandSteps
  intro h
  obtain ⟨-, -, -, -, toHost, -⟩ := h (off := 0) (val := 0) (sel := 0) (lo := 0) (hi := 0) (pa := 0) (req := 0) (c := 0) (core := 0)
    (intf := 0) (vec := 0) (pages := 1) (n := 0) (j := 0) (g := fetchGroup State.reset) (g' := fetchGroup State.reset) (v := 0)
  -- One CXL port, the bias table at 0x200000, and its first line, that of page 0, poisoned.
  obtain ⟨t, run, flipped⟩ := toHost
    { State.reset with cxl := 1, regs := [(offBias, 0x200000)], poison := [lineOf 0x200000] } (by decide +kernel)
  obtain rfl := Host.Outcome.next.inj run
  have inDevice : 0 < (1 : BitVec 24).toNat ∧ (0 : W64).toNat / 4096 + 0 < Config.memSize / 4096 := by decide
  obtain ⟨-, hostBit, -⟩ := flipped inDevice
  -- The write of the bit was dropped, so it still reads 0.
  exact absurd hostBit (by decide +kernel)

end Sys2Proof.Machine
end

section
/-! PROOFS. Register instructions with one body for every active lane: lists of writes in any order, bodies that write several registers
of a lane, the active lanes as sets, and the register instruction that such a body makes (11 R133 to R150). -/

namespace Sys2Proof.FloatLanes

open Sys2Proof.Machine Sys2Proof.Safety

/-! ## Lists of writes -/

/-- Writes to registers of different numbers may be listed in any order. -/
theorem look_perm {α : Type} {ws ws' : List (Nat × α)} (p : ws.Perm ws') (distinct : (ws.map Prod.fst).Nodup) (r : Nat) (d : α) :
    look ws r d = look ws' r d := by
  induction p with
  | nil => rfl
  | cons x _ ih => rw [look_cons, look_cons, ih (List.nodup_cons.1 distinct).2]
  | swap x y ws =>
    have ne : y.1 ≠ x.1 := fun e => (List.nodup_cons.1 distinct).1 (by simp [e])
    rw [look_cons, look_cons, look_cons, look_cons]
    by_cases hx : r = x.1
    · rw [if_pos hx, if_pos hx, if_neg fun hy => ne (hy.symm.trans hx)]
    · rw [if_neg hx, if_neg hx]
  | trans p _ ih ih' => rw [ih distinct, ih' ((p.map Prod.fst).nodup_iff.1 distinct)]

/-- The writes of a body may be listed in any order. -/
theorem body_perm {f w w' pw late} (b : Body f w pw late) (p : ∀ l, (w l).Perm (w' l))
    (distinct : ∀ l, ((w l).map Prod.fst).Nodup) : Body f w' pw late :=
  { b with v := fun g l hl hp hi r l' hl' => by rw [← look_perm (p l) (distinct l)]; exact b.v g l hl hp hi r l' hl' }

/-! ## Bodies that write several registers of a lane -/

/-- A body that does nothing. -/
theorem body_none : Body (fun g _ => g) (fun _ => []) (fun _ => []) false where
  rest _ _ := rfl
  now _ _ _ h := h
  pend _ _ h := h
  v g l _ _ _ r l' _ := by
    by_cases e : l' = l
    · rw [if_pos e, e, look_nil]
    · rw [if_neg e]
  p g l _ _ _ r l' _ _ := by
    by_cases e : l' = l
    · rw [if_pos e, e, look_nil]
    · rw [if_neg e]
  other _ _ _ _ := OtherRegs.refl _

/-- A body that writes two neighbouring registers. -/
theorem body_putV_putV (d : Nat) (x y : Nat → W32) :
    Body (fun g l => putV (putV g d l (x l)) (d + 1) l (y l)) (fun l => [(d, x l), (d + 1, y l)]) (fun _ => []) false :=
  body_perm ((Body.putV d x).seq (Body.putV (d + 1) y)) (fun _ => List.Perm.swap _ _ _) fun _ => by simp

/-- A body that writes a run of registers. -/
theorem body_putRun (d n : Nat) (x : Nat → Nat → W32) :
    Body (fun g l => (List.range n).foldl (fun g i => putV g (d + i) l (x i l)) g)
      (fun l => (List.range n).map fun i => (d + i, x i l)) (fun _ => []) false := by
  have reversed : Body (fun g l => (List.range n).foldl (fun g i => putV g (d + i) l (x i l)) g)
      (fun l => ((List.range n).map fun i => (d + i, x i l)).reverse) (fun _ => []) false := by
    induction n with
    | zero => exact body_none
    | succ n ih =>
      simp only [List.range_succ, List.foldl_append, List.map_append, List.reverse_append]
      exact ih.seq (Body.putV (d + n) (x n))
  refine body_perm reversed (fun _ => List.reverse_perm _) fun l => ?_
  rw [((List.reverse_perm _).map Prod.fst).nodup_iff, List.map_map]
  exact List.Pairwise.map _ (fun i j ne e => ne (Nat.add_left_cancel e)) List.nodup_range

theorem ofNat_low (n : Nat) : BitVec.ofNat 32 n = (BitVec.ofNat 64 n).extractLsb' 0 32 := by
  apply BitVec.eq_of_toNat_eq
  simp only [BitVec.extractLsb'_toNat, BitVec.toNat_ofNat, Nat.shiftRight_zero]
  omega

theorem ofNat_high (n : Nat) : BitVec.ofNat 32 (n / 2 ^ 32) = (BitVec.ofNat 64 n).extractLsb' 32 32 := by
  apply BitVec.eq_of_toNat_eq
  simp only [BitVec.extractLsb'_toNat, BitVec.toNat_ofNat, Nat.shiftRight_eq_div_pow]
  omega

/-- A body that writes a pair of registers, of variable latency. -/
theorem body_lateV2 (d : Nat) (x : Nat → Nat) :
    Body (fun g l => lateVn g d l 2 (x l))
      (fun l => [(d, (BitVec.ofNat 64 (x l)).extractLsb' 0 32), (d + 1, (BitVec.ofNat 64 (x l)).extractLsb' 32 32)])
      (fun _ => []) true := by
  simp only [← ofNat_low, ← ofNat_high]
  exact body_perm ((Body.lateV d fun l => BitVec.ofNat 32 (x l)).seq (Body.lateV (d + 1) fun l => BitVec.ofNat 32 (x l / 2 ^ 32)))
    (fun _ => List.Perm.swap _ _ _) fun _ => by simp

/-! ## Typed results -/

/-- A float result in each active lane. -/
theorem writes_fltPut (late : Bool) (ty : FTy) (d : BitVec 6) (x : Nat → Nat) (g : Group) (on : W64) (hp : g.pend = []) :
    Writes g (forLanes g on fun g l => fltPut late ty g d.toNat l (x l)) on (fltD late ty d x) := by
  cases late with
  | false =>
    cases ty with
    | f64 => exact (Body.putV2 _ _).writes g on hp
    | f32 | f16x2 | bf16x2 => exact (Body.putV _ _).writes g on hp
  | true =>
    cases ty with
    | f64 => exact (body_lateV2 _ _).writes g on hp
    | f32 | f16x2 | bf16x2 => exact (Body.lateV _ _).writes g on hp

/-- A float result of a conversion in each active lane. -/
theorem writes_fkindPut (t : FKind) (d : BitVec 6) (x : Nat → Nat) (g : Group) (on : W64) (hp : g.pend = []) :
    Writes g (forLanes g on fun g l => fkindPut t g d.toNat l (x l)) on (fkindD t d x) := by
  cases t with
  | f64 => exact (Body.putV2 _ _).writes g on hp
  | f32 | f16 | bf16 => exact (Body.putV _ _).writes g on hp

/-! ## Register instructions from their bodies -/

section
variable {i : Instr} {F : Ctx → Group} (he : ∀ s, exec i s = issue i s fun c => simple c F)
include he

/-- A register instruction that does `B` in each active lane. -/
theorem regOp_forLanes {B : Group → W64 → Group → Nat → Group} {f : Group → W64 → Effect}
    (hF : ∀ s cu g, F (runCtx i s cu g) = forLanes g (active i g cu) (B g (active i g cu)))
    (hB : ∀ g on, g.pend = [] → Writes g (forLanes g on (B g on)) on (f g on)) : RegOp i f :=
  regOp_simple he fun s cu g h => by rw [hF]; exact hB g _ h.settled

theorem regOp_lane32 {d : BitVec 6} {x : Group → W64 → Nat → W32}
    (hF : ∀ s cu g, F (runCtx i s cu g) = forLanes g (active i g cu) fun g' l => putV g' d.toNat l (x g (active i g cu) l)) :
    RegOp i fun g on => lane32 d (x g on) :=
  regOp_forLanes he hF fun g on hp => (Body.putV d.toNat (x g on)).writes g on hp

theorem regOp_lane64 {d : BitVec 6} {x : Group → W64 → Nat → W64}
    (hF : ∀ s cu g, F (runCtx i s cu g) = forLanes g (active i g cu) fun g' l => putV2 g' d.toNat l (x g (active i g cu) l)) :
    RegOp i fun g on => lane64 d (x g on) :=
  regOp_forLanes he hF fun g on hp => (Body.putV2 d.toNat (x g on)).writes g on hp

theorem regOp_late32 {d : BitVec 6} {x : Group → W64 → Nat → W32}
    (hF : ∀ s cu g, F (runCtx i s cu g) = forLanes g (active i g cu) fun g' l => lateV g' d.toNat l (x g (active i g cu) l)) :
    RegOp i fun g on => late32 d (x g on) :=
  regOp_forLanes he hF fun g on hp => (Body.lateV d.toNat (x g on)).writes g on hp

theorem regOp_laneBool {d : BitVec 3} {x : Group → W64 → Nat → Bool}
    (hF : ∀ s cu g, F (runCtx i s cu g) = forLanes g (active i g cu) fun g' l => putP g' d.toNat l (x g (active i g cu) l)) :
    RegOp i fun g on => laneBool d (x g on) :=
  regOp_forLanes he hF fun g on hp => (Body.putP d.toNat (x g on)).writes g on hp

theorem regOp_flt {late : Bool} {ty : FTy} {d : BitVec 6} {x : Group → Nat → Nat}
    (hF : ∀ s cu g, F (runCtx i s cu g) = forLanes g (active i g cu) fun g' l => fltPut late ty g' d.toNat l (x g l)) :
    RegOp i fun g _ => fltD late ty d (x g) :=
  regOp_forLanes he hF fun g on hp => writes_fltPut late ty d (x g) g on hp

theorem regOp_fkind {t : FKind} {d : BitVec 6} {x : Group → Nat → Nat}
    (hF : ∀ s cu g, F (runCtx i s cu g) = forLanes g (active i g cu) fun g' l => fkindPut t g' d.toNat l (x g l)) :
    RegOp i fun g _ => fkindD t d (x g) :=
  regOp_forLanes he hF fun g on hp => writes_fkindPut t d (x g) g on hp

end

/-! ## The active lanes -/

/-- A fold depends on its function at the members of its list only. -/
theorem foldl_congr_mem {α β : Type} {f f' : β → α → β} {ls : List α} (h : ∀ b, ∀ l ∈ ls, f b l = f' b l) (b : β) :
    ls.foldl f b = ls.foldl f' b := by
  induction ls generalizing b with
  | nil => rfl
  | cons x ls ih =>
    rw [List.foldl_cons, List.foldl_cons, h b x List.mem_cons_self]
    exact ih (fun b l hl => h b l (List.mem_cons_of_mem x hl)) (f' b x)

/-- A body matters in the active lanes only. -/
theorem forLanes_congr {g : Group} {on : W64} {f f' : Group → Nat → Group}
    (h : ∀ g' l, l < g.w → on.getLsbD l = true → f g' l = f' g' l) : forLanes g on f = forLanes g on f' :=
  foldl_congr_mem (fun g' l hl => h g' l (mem_lanesOf.1 hl).1 (mem_lanesOf.1 hl).2) g

/-- An active lane is the lowest one when no lane below it is active. -/
theorem lowestLane_beq {w l : Nat} {on : W64} (hl : l < w) (active : on.getLsbD l = true) :
    (lowestLane w on == some l) = decide (∀ m < l, on.getLsbD m = false) := by
  rw [Bool.eq_iff_iff, beq_iff_eq, decide_eq_true_iff, lowestLane, lanesOf, List.head?_filter, List.find?_range_eq_some]
  simp [hl, active]

theorem getLsbD_and_fullMask (on : W64) (n m : Nat) : (on &&& fullMask n).getLsbD m = (on.getLsbD m && decide (m < n)) := by
  rw [BitVec.getLsbD_and, fullMask, BitVec.getLsbD_ofNat, Nat.testBit_two_pow_sub_one]
  cases h : on.getLsbD m with
  | false => rfl
  | true => simp [BitVec.lt_of_getLsbD h]

/-- The mask of the active lanes that satisfy `f`. -/
theorem maskOf_filter_lanesOf (w : Nat) (on : W64) (f : Nat → Bool) :
    maskOf ((lanesOf w on).filter f) = maskWhere w fun m => on.getLsbD m && f m := by
  simp only [lanesOf, maskWhere, List.filter_filter, Bool.and_comm]

end Sys2Proof.FloatLanes
end

section
/-! PROOFS. Float arithmetic, comparisons, functions and conversions (11 R133 to R145). -/

namespace Sys2Proof.FloatLanes

open Sys2Proof.Machine Sys2Proof.Safety

/-- Settles O10: each instruction's body puts the rounded function of its operands in each active lane. -/
theorem floatArithmetic : Obligations.FloatArithmetic := by
  unfold Obligations.FloatArithmetic
  intro h x ty d a b c rnd
  refine ⟨?_, ?_, ?_, ?_, ?_, ?_, ?_, ?_⟩ <;> exact regOp_flt (fun _ => rfl) fun _ _ _ => rfl

/-- Settles O11: a comparison is a predicate in each active lane, a class a register. -/
theorem floatCompareAndClass : Obligations.FloatCompareAndClass := by
  unfold Obligations.FloatCompareAndClass
  intro h cc p d a b
  refine ⟨?_, ?_, ?_, ?_⟩
  · exact regOp_laneBool (fun _ => rfl) fun _ _ _ => rfl
  · exact regOp_laneBool (fun _ => rfl) fun _ _ _ => rfl
  · exact regOp_lane32 (fun _ => rfl) fun _ _ _ => rfl
  · exact regOp_lane32 (fun _ => rfl) fun _ _ _ => rfl

/-- FRCP of a narrow type or f64 is the correctly rounded quotient (07 R98). -/
theorem regOp_frcp_divF (h : Hdr) {ty : FTy} (d a : BitVec 6) (hty : ty ≠ .f32) :
    RegOp (.frcp h ty d a) (fun g _ => fltD true ty d fun l => fltF g ty (dynMode g) (fun _ x => divF (.fin false 1 0) x) a l) :=
  regOp_flt (fun _ => rfl) fun _ _ _ => if_neg hty

/-- Settles O12: as O10, with results of variable latency; FRCP has a bound for f32 and is a quotient for the other types. -/
theorem floatFunctions : Obligations.FloatFunctions := by
  unfold Obligations.FloatFunctions
  intro h ty d a b
  refine ⟨?_, ?_, ?_, ?_, regOp_frcp_divF h d a, ?_, ?_, ?_, ?_, ?_, ?_, ?_, ?_, ?_, ?_, ?_⟩ <;>
    exact regOp_flt (fun _ => rfl) fun _ _ _ => rfl

/-- CVT.F2I writes a register or a pair, by its integer type. -/
theorem regOp_cvtF2I (h : Hdr) (rnd : Rnd) (d a : BitVec 6) (y : CvtFI) :
    RegOp (.cvtF2I h rnd d a y) fun g _ => ityD y.dst d fun l =>
      toIntF (codeMode .rn rnd) (ityRange y.dst).1 (ityRange y.dst).2 (decodeF (fkindFmt y.src) (fkindRead g y.src a.toNat l)) := by
  obtain ⟨src, dst⟩ := y
  cases dst with
  | s32 | u32 => exact regOp_lane32 (fun _ => rfl) fun _ _ _ => rfl
  | s64 | u64 => exact regOp_lane64 (fun _ => rfl) fun _ _ _ => rfl

/-- Settles O13: a conversion's result is one value of its destination type in each active lane. -/
theorem floatConversions : Obligations.FloatConversions := by
  unfold Obligations.FloatConversions
  intro h rnd d a x y z
  refine ⟨?_, regOp_cvtF2I h rnd d a y, ?_⟩
  · exact regOp_fkind (fun _ => rfl) fun _ _ _ => rfl
  · exact regOp_fkind (fun _ => rfl) fun _ _ _ => rfl

/-- Settles O14: packing and RMIX write one value in each active lane, unpacking a run of registers, and SCALE.BLK the element and its
scale. -/
theorem packScaleMix : Obligations.PackScaleMix := by
  unfold Obligations.PackScaleMix
  intro h d a b k8 k4 f8 kb
  refine ⟨?_, ?_, ?_, ?_, ?_, ?_⟩
  · exact regOp_lane32 (fun _ => rfl) fun _ _ _ => rfl
  · exact regOp_forLanes (fun _ => rfl) (fun _ _ _ => rfl) fun g on hp => (body_putRun d.toNat 4 _).writes g on hp
  · exact regOp_lane32 (fun _ => rfl) fun _ _ _ => rfl
  · exact regOp_forLanes (fun _ => rfl) (fun _ _ _ => rfl) fun g on hp => (body_putRun d.toNat 8 _).writes g on hp
  · exact regOp_forLanes (fun _ => rfl) (fun _ _ _ => rfl) fun g on hp => (body_putV_putV d.toNat _ _).writes g on hp
  · exact regOp_lane64 (fun _ => rfl) fun _ _ _ => rfl

end Sys2Proof.FloatLanes
end

section
/-! PROOFS. Shuffles, votes, reductions and scans (11 R146 to R150). -/

namespace Sys2Proof.FloatLanes

open Sys2Proof.Machine Sys2Proof.Safety

/-- Settles O15: a shuffle puts the register of the source lane in each active lane. -/
theorem shuffles : Obligations.Shuffles := by
  unfold Obligations.Shuffles
  intro h d a b imm
  refine ⟨?_, ?_, ?_, ?_, ?_, ?_, ?_, ?_⟩ <;> exact regOp_lane32 (fun _ => rfl) fun _ _ _ => rfl

/-- Every active lane satisfies a predicate. -/
theorem lanesOf_all (w : Nat) (on : W64) (f : Nat → Bool) :
    (lanesOf w on).all f = decide (∀ m < w, on.getLsbD m = true → f m = true) := by
  rw [Bool.eq_iff_iff, List.all_eq_true, decide_eq_true_iff]
  simp only [mem_lanesOf, and_imp]

/-- Some active lane satisfies a predicate. -/
theorem lanesOf_any (w : Nat) (on : W64) (f : Nat → Bool) :
    (lanesOf w on).any f = decide (∃ m < w, on.getLsbD m = true ∧ f m = true) := by
  rw [Bool.eq_iff_iff, List.any_eq_true, decide_eq_true_iff]
  simp only [mem_lanesOf, and_assoc]

/-- The lanes SCAN combines for lane `l`: the active lanes below it, and itself unless it is excluded. -/
theorem getLsbD_scanMask (on : W64) (excl : Bool) (l m : Nat) :
    (on &&& fullMask (if excl then l else l + 1)).getLsbD m =
      (on.getLsbD m && if excl then decide (m < l) else decide (m ≤ l)) := by
  rw [getLsbD_and_fullMask]
  cases excl with
  | false => simp only [Bool.false_eq_true, if_false, Nat.lt_succ_iff]
  | true => rfl

/-- SCAN combines over the lanes of `getLsbD_scanMask`. -/
theorem combine_scanMask (i : Instr) (s : State) (cu : Cursor) (g : Group) (a : BitVec 6) (fn : RedFn) (on : W64) (excl : Bool)
    (l : Nat) : combine (runCtx i s cu g) a fn (on &&& fullMask (if excl then l else l + 1)) =
      overLanes g a fn fun m => on.getLsbD m && if excl then decide (m < l) else decide (m ≤ l) := by
  simp only [← getLsbD_scanMask]
  rfl

/-- Settles O16: the votes and masks are read off the set of active lanes, and RED and SCAN combine over their lanes' masks. -/
theorem votesAndReductions : Obligations.VotesAndReductions := by
  unfold Obligations.VotesAndReductions
  intro h p q d a fn k
  refine ⟨?_, ?_, ?_, ?_, ?_, ?_, ?_⟩
  · refine regOp_laneBool (fun _ => rfl) fun _ _ g => forLanes_congr fun g' l _ _ => ?_
    exact congrArg (putP g' p.toNat l) (lanesOf_all _ _ _)
  · refine regOp_laneBool (fun _ => rfl) fun _ _ g => forLanes_congr fun g' l _ _ => ?_
    exact congrArg (putP g' p.toNat l) (lanesOf_any _ _ _)
  · refine regOp_lane64 (fun _ => rfl) fun _ _ g => forLanes_congr fun g' l _ _ => ?_
    exact congrArg (putV2 g' d.toNat l) (BitVec.and_comm _ _)
  · refine regOp_lane64 (fun _ => rfl) fun _ _ g => forLanes_congr fun g' l _ _ => ?_
    exact congrArg (putV2 g' d.toNat l) (maskOf_filter_lanesOf _ _ _)
  · refine regOp_laneBool (fun _ => rfl) fun _ _ g => forLanes_congr fun g' l hl active => ?_
    exact congrArg (putP g' p.toNat l) (lowestLane_beq hl active)
  · exact regOp_late32 (fun _ => rfl) fun _ _ _ => rfl
  · refine regOp_late32 (fun _ => rfl) fun s cu g => forLanes_congr fun g' l _ _ => ?_
    exact congrArg (lateV g' d.toNat l) (combine_scanMask _ s cu g a k.fn _ k.excl l)

end Sys2Proof.FloatLanes
end
